-- ==== Sys2Proof/Word.lean ====
section
/-! DEFINITION. The words of the Trarid W64 (spec/00_scope.md R3) and their plainest arithmetic. -/

namespace Sys2Proof

/-- The smallest unit with an address (R3). -/
abbrev Byte := BitVec 8

/-- A word of an instruction context, a `v` register of one thread (R261). -/
abbrev W32 := BitVec 32

/-- A `k` register, an address, a CSR (R261). -/
abbrev W64 := BitVec 64

/-- One bit per thread of a train: bit `j` is thread `j` (R9). -/
abbrev Mask := BitVec 32

/-- Bits `[lo + width - 1 : lo]` of a number (R3: bit 0 is the least significant). -/
def bitsAt (x lo width : Nat) : Nat := (x >>> lo) % 2 ^ width

/-- `x` read as a two's-complement number of `width` bits. -/
def signedOf (width x : Nat) : Int :=
  if x % 2 ^ width < 2 ^ (width - 1) then (x % 2 ^ width : Nat) else (x % 2 ^ width : Nat) - (2 ^ width : Int)

/-- `n` divides `x`: every alignment rule of the spec (R108). -/
def aligned (x n : Nat) : Bool := x % n == 0

end Sys2Proof
end

