-- ==== Sys2Proof/Syntax.lean ====
section
/-! DEFINITION. The syntax of the machine: one constructor of `Instr` per row of spec/opcode_table.json.
A row with bits is a 32-bit word of spec/13_encoding.md (R260); its constructor carries the fields the table gives it.
A row without bits is an event of an agent of the chip or of the world around it (spec/95_what_each_step_holds.md);
its constructor carries what names the unit that acts and what comes from outside the modelled chip. -/

namespace Sys2Proof

/-- An Ervejan request frame (R251). `CMD` is named by the event that carries the frame; `rsv` is 0 when every
reserved header field is zero. `chk` holds the 16-bit check words, reserved bits [15:14] included. -/
structure Frame where
  port : Nat
  ver : Nat
  tenant : Nat
  rsv : Nat
  seq : Nat
  addr : W64
  len : Nat
  status : Nat
  chkn : Nat
  chk : List Nat
  data : List Byte
  deriving DecidableEq, Repr

/-- Why a Wituisk link goes down (R255). -/
inductive DownReason where
  | flitFailed16
  | laneFailed
  deriving DecidableEq, Repr

/-- What a frame at an Ethernet port may ask of the port beside plain carriage (R249): the entries of the table, and any other
option. -/
inductive EthOption where
  | vlanTag | stackedTags | timeStamp | relay | gateList | streamFilter | vectorRecovery | matchRecovery | preemption
  | otherRate | energyEfficient | other
  deriving DecidableEq, Repr

/-- A frame that arrives at an Ethernet port (R249): the port, its bytes and the options that it needs. -/
structure EthFrame where
  port : Nat
  bytes : Nat
  needs : List EthOption
  deriving DecidableEq, Repr

/-- A destination of writes (R140): the issuing core's own array or private L1 lines, a peer core of the cluster,
an L2 slice of this chip, another chip. -/
inductive Dest where
  | own
  | peer (core : Nat)
  | slice (n : Nat)
  | chip (c : Nat)
  deriving DecidableEq, Repr

/-- The atomic operations of R270 and R293. -/
inductive AtomOp where
  | add | and | or | xor | minS | maxS | minU | maxU
  | exch32 | cas32 | add64 | exch64 | cas64 | faddF32 | faddBf16x2
  deriving DecidableEq, Repr

/-- The key of a floating-point atomic of a deterministic task (R215), with the in-flight slot of its task on its chip. -/
structure DetKey where
  slot : Nat
  wgid : Nat
  trn : Nat
  j : Nat
  n : Nat
  deriving DecidableEq, Repr

/-- A request that another chip forwards to this one (R17): at a chip offset of this chip. A store carries a bit mask for each
byte (R124), the check value of each sector's image (R126) and its poison. A deterministic task's floating-point atomics come to be
recorded, and later to be applied or dropped (R215). -/
inductive RemoteReq where
  | load (pa size : Nat)
  | store (pa : Nat) (mask data : List Byte) (chk : List (BitVec 14)) (poison : Bool)
  | atomic (pa : Nat) (op : AtomOp) (operand compare : W64)
  | defer (pa : Nat) (bf16 : Bool) (operand : W32) (key : DetKey)
  | settle (slot : Nat) (apply : Bool)
  | marker
  deriving DecidableEq, Repr

/-- What another chip sends (R146): bytes, and for each 32 of them a poison bit and the check value that the link carries (R126). A
sector for which no value is given carries the right one. -/
structure RemoteData where
  bytes : List Byte
  poison : List Bool
  chk : List (BitVec 14)
  deriving DecidableEq, Repr

/-- What a link carries with the sectors of some bytes (R126, R146): their poison bits and their check values. -/
structure SectorTags where
  poison : List Bool
  chk : List (BitVec 14)
  deriving DecidableEq, Repr

/-- Why the home of another chip has not performed an atomic (R128, R216). -/
inductive AtomFail where
  | poison
  | conflict
  deriving DecidableEq, Repr

/-- What the home of another chip answers an atomic (R207): the old value, unless it says why it was not performed. -/
structure AtomAnswer where
  old : W64
  fail : Option AtomFail
  deriving DecidableEq, Repr

/-- The turn of a record at the post unit (R102): its place in line, and for a queue that is homed on another chip the header that its
home has found. -/
structure PostTurn where
  record : Nat
  header : RemoteData
  deriving DecidableEq, Repr

/-- The halves of the three ports' links that have trained (R10, R257). -/
structure Halves where
  low : BitVec 3
  high : BitVec 3
  deriving DecidableEq, Repr

/-- The terms of a collective that its lowest-indexed participant sets for all (R312): COUNT, CHIPS, ROOT, OP and the
code of the element format. -/
structure CollTerms where
  count : Nat
  chips : BitVec 4
  root : Nat
  op : Nat
  elem : Nat
  deriving DecidableEq, Repr

/-- A participant chip's part in a collective (R312): the bytes at its SADDR, which of their elements lie in a poisoned
sector, whether it has read this chip's part, and the terms of its descriptor. -/
structure Contribution where
  bytes : List Byte
  poison : List Bool
  readBack : Bool
  terms : CollTerms
  deriving DecidableEq, Repr

/-- What the memory controller's SECDED finds in one sector of a line (R121): nothing, an error it corrects, or
an error it cannot correct. -/
inductive SectorErr where
  | good
  | corrected (bank row column : Nat)
  | uncorrectable
  deriving DecidableEq, Repr

/-- Where a corrected error occurs (R234, R235): a memory controller's cell, or a unit with a leaky bucket. -/
inductive ErrSite where
  | memory (ctl bank row column : Nat)
  | bucket (idx : Nat)
  deriving DecidableEq, Repr

/-- Every step of the machine: the instructions of spec/13_encoding.md and the events of spec/opcode_table.json. -/
inductive Instr where
  | add (d a b : BitVec 6) (g : BitVec 3) -- R288
  | addc (d a b : BitVec 6) (g : BitVec 3) -- R289
  | sub (d a b : BitVec 6) (g : BitVec 3) -- R386
  | subb (d a b : BitVec 6) (g : BitVec 3) -- R386
  | mul (d a b : BitVec 6) (g : BitVec 3) -- R365
  | mulhS (d a b : BitVec 6) (g : BitVec 3) -- R365
  | mulhU (d a b : BitVec 6) (g : BitVec 3) -- R365
  | minS (d a b : BitVec 6) (g : BitVec 3) -- R360
  | minU (d a b : BitVec 6) (g : BitVec 3) -- R360
  | maxS (d a b : BitVec 6) (g : BitVec 3) -- R360
  | maxU (d a b : BitVec 6) (g : BitVec 3) -- R360
  | abs (d a : BitVec 6) (g : BitVec 3) -- R287
  | neg (d a : BitVec 6) (g : BitVec 3) -- R366
  | popc (d a : BitVec 6) (g : BitVec 3) -- R371
  | clz (d a : BitVec 6) (g : BitVec 3) -- R314
  | ctz (d a : BitVec 6) (g : BitVec 3) -- R323
  | brev (d a : BitVec 6) (g : BitVec 3) -- R306
  | mov (d a : BitVec 6) (g : BitVec 3) -- R361
  | movVK (d a : BitVec 6) (g : BitVec 3) -- R361
  | addK (d a b : BitVec 6) -- R288
  | subK (d a b : BitVec 6) -- R386
  | mulK (d a b : BitVec 6) -- R365
  | mulhSK (d a b : BitVec 6) -- R365
  | mulhUK (d a b : BitVec 6) -- R365
  | minSK (d a b : BitVec 6) -- R360
  | minUK (d a b : BitVec 6) -- R360
  | maxSK (d a b : BitVec 6) -- R360
  | maxUK (d a b : BitVec 6) -- R360
  | absK (d a : BitVec 6) -- R287
  | negK (d a : BitVec 6) -- R366
  | popcK (d a : BitVec 6) -- R371
  | clzK (d a : BitVec 6) -- R314
  | ctzK (d a : BitVec 6) -- R323
  | brevK (d a : BitVec 6) -- R306
  | movK (d a : BitVec 6) -- R361
  | and (d a b : BitVec 6) (g : BitVec 3) -- R290
  | andn (d a b : BitVec 6) (g : BitVec 3) -- R290
  | or (d a b : BitVec 6) (g : BitVec 3) -- R368
  | xor (d a b : BitVec 6) (g : BitVec 3) -- R401
  | not (d a : BitVec 6) (g : BitVec 3) -- R366
  | shl (d a b : BitVec 6) (g : BitVec 3) -- R382
  | shr (d a b : BitVec 6) (g : BitVec 3) -- R382
  | sra (d a b : BitVec 6) (g : BitVec 3) -- R382
  | rot (d a b : BitVec 6) (g : BitVec 3) -- R375
  | bfxU (d a b : BitVec 6) (g : BitVec 3) -- R302
  | bfxS (d a b : BitVec 6) (g : BitVec 3) -- R302
  | andK (d a b : BitVec 6) -- R290
  | andnK (d a b : BitVec 6) -- R290
  | orK (d a b : BitVec 6) -- R368
  | xorK (d a b : BitVec 6) -- R401
  | notK (d a : BitVec 6) -- R366
  | shlK (d a b : BitVec 6) -- R382
  | shrK (d a b : BitVec 6) -- R382
  | sraK (d a b : BitVec 6) -- R382
  | rotK (d a b : BitVec 6) -- R375
  | bfxUK (d a b : BitVec 6) -- R302
  | bfxSK (d a b : BitVec 6) -- R302
  | mad (d a b : BitVec 6) (g : BitVec 3) -- R358
  | bfi (d a b : BitVec 6) (g : BitVec 3) -- R302
  | lea0 (d a b : BitVec 6) (g : BitVec 3) -- R355
  | lea1 (d a b : BitVec 6) (g : BitVec 3) -- R355
  | lea2 (d a b : BitVec 6) (g : BitVec 3) -- R355
  | lea3 (d a b : BitVec 6) (g : BitVec 3) -- R355
  | cmp (p m : BitVec 3) (a b : BitVec 6) (u : BitVec 1) (k g : BitVec 3) -- R315
  | sel (d a b : BitVec 6) (p g : BitVec 3) -- R381
  | divU (d a b : BitVec 6) (l : BitVec 4) (g : BitVec 3) -- R326
  | remU (d a b : BitVec 6) (l : BitVec 4) (g : BitVec 3) -- R326
  | divS (d a b : BitVec 6) (l : BitVec 4) (g : BitVec 3) -- R326
  | remS (d a b : BitVec 6) (l : BitVec 4) (g : BitVec 3) -- R326
  | fadd (d a b : BitVec 6) (t : BitVec 2) (g : BitVec 3) -- R333
  | fsub (d a b : BitVec 6) (t : BitVec 2) (g : BitVec 3) -- R333
  | fmul (d a b : BitVec 6) (t : BitVec 2) (g : BitVec 3) -- R333
  | fmin (d a b : BitVec 6) (t : BitVec 2) (g : BitVec 3) -- R333
  | fmax (d a b : BitVec 6) (t : BitVec 2) (g : BitVec 3) -- R333
  | frnd (d a : BitVec 6) (t : BitVec 2) (g : BitVec 3) -- R333
  | ffma (d a b : BitVec 6) (t : BitVec 2) (g : BitVec 3) -- R338
  | ffmaSub (d a b : BitVec 6) (t : BitVec 2) (g : BitVec 3) -- R338
  | ffmaNeg (d a b : BitVec 6) (t : BitVec 2) (g : BitVec 3) -- R338
  | fcmp (p m : BitVec 3) (a b : BitVec 6) (t : BitVec 2) (k g : BitVec 3) -- R334
  | fdiv (d a b : BitVec 6) (l : BitVec 4) (g : BitVec 3) -- R336
  | fsqrt (d s : BitVec 6) (l : BitVec 4) (g : BitVec 3) -- R335
  | frcp (d s : BitVec 6) (l : BitVec 4) (g : BitVec 3) -- R335
  | frsq (d s : BitVec 6) (l : BitVec 4) (g : BitVec 3) -- R335
  | fsinp (d s : BitVec 6) (l : BitVec 4) (g : BitVec 3) -- R335
  | fcosp (d s : BitVec 6) (l : BitVec 4) (g : BitVec 3) -- R335
  | fex2 (d s : BitVec 6) (l : BitVec 4) (g : BitVec 3) -- R335
  | flg2 (d s : BitVec 6) (l : BitVec 4) (g : BitVec 3) -- R335
  | packBf16 (d a b : BitVec 6) (g : BitVec 3) -- R369
  | packF16 (d a b : BitVec 6) (g : BitVec 3) -- R369
  | unpkBf16Lo (d s : BitVec 6) (g : BitVec 3) -- R397
  | unpkBf16Hi (d s : BitVec 6) (g : BitVec 3) -- R397
  | unpkF16Lo (d s : BitVec 6) (g : BitVec 3) -- R397
  | unpkF16Hi (d s : BitVec 6) (g : BitVec 3) -- R397
  | hcvt (t : BitVec 3) (s : BitVec 2) (x i : BitVec 5) (f : BitVec 3) (l : BitVec 4) (w : BitVec 1) (n : BitVec 3) -- R339
  | cvt (d s : BitVec 6) (f t : BitVec 4) (r g : BitVec 3) -- R324
  | addImm (d a : BitVec 6) (i : BitVec 11) (g : BitVec 3) -- R288
  | andImm (d a : BitVec 6) (i : BitVec 11) (g : BitVec 3) -- R290
  | orImm (d a : BitVec 6) (i : BitVec 11) (g : BitVec 3) -- R368
  | xorImm (d a : BitVec 6) (i : BitVec 11) (g : BitVec 3) -- R401
  | shlImm (d a : BitVec 6) (n : BitVec 5) (g : BitVec 3) -- R382
  | shrImm (d a : BitVec 6) (n : BitVec 5) (g : BitVec 3) -- R382
  | sraImm (d a : BitVec 6) (n : BitVec 5) (g : BitVec 3) -- R382
  | rotImm (d a : BitVec 6) (n : BitVec 5) (g : BitVec 3) -- R375
  | cmpImm (p m : BitVec 3) (a : BitVec 6) (k : BitVec 3) (u : BitVec 1) (i : BitVec 7) (g : BitVec 3) -- R315
  | movi (d : BitVec 6) (i : BitVec 16) (g : BitVec 3) -- R362
  | moviHi (d : BitVec 6) (i : BitVec 16) (g : BitVec 3) -- R362
  | addKImm (d a : BitVec 6) (i : BitVec 11) -- R288
  | moviK (d : BitVec 6) (i : BitVec 16) (q : BitVec 2) -- R362
  | cmpK (d a b : BitVec 6) (u : BitVec 1) (k : BitVec 3) -- R315
  | ld (d : BitVec 6) (x k : BitVec 5) (w : BitVec 3) (l : BitVec 4) (g : BitVec 3) -- R352
  | ldS (d : BitVec 6) (x k : BitVec 5) (w : BitVec 1) (l : BitVec 4) (g : BitVec 3) -- R352
  | st (d : BitVec 6) (x k : BitVec 5) (w : BitVec 3) (l : BitVec 4) (g : BitVec 3) -- R383
  | ldk (d : BitVec 6) (x k : BitVec 5) (w : BitVec 3) (l : BitVec 4) -- R354
  | stk (d : BitVec 6) (x k : BitVec 5) (w : BitVec 3) (l : BitVec 4) -- R385
  | atomAdd (d : BitVec 6) (x k : BitVec 5) (l : BitVec 4) (g : BitVec 3) -- R293
  | atomAnd (d : BitVec 6) (x k : BitVec 5) (l : BitVec 4) (g : BitVec 3) -- R293
  | atomOr (d : BitVec 6) (x k : BitVec 5) (l : BitVec 4) (g : BitVec 3) -- R293
  | atomXor (d : BitVec 6) (x k : BitVec 5) (l : BitVec 4) (g : BitVec 3) -- R293
  | atomMinS (d : BitVec 6) (x k : BitVec 5) (l : BitVec 4) (g : BitVec 3) -- R293
  | atomMaxS (d : BitVec 6) (x k : BitVec 5) (l : BitVec 4) (g : BitVec 3) -- R293
  | atomMinU (d : BitVec 6) (x k : BitVec 5) (l : BitVec 4) (g : BitVec 3) -- R293
  | atomMaxU (d : BitVec 6) (x k : BitVec 5) (l : BitVec 4) (g : BitVec 3) -- R293
  | atomExch32 (d : BitVec 6) (x k : BitVec 5) (l : BitVec 4) (g : BitVec 3) -- R293
  | atomCas32 (d : BitVec 6) (x k : BitVec 5) (l : BitVec 4) (g : BitVec 3) -- R293
  | atomAdd64 (d : BitVec 6) (x k : BitVec 5) (l : BitVec 4) (g : BitVec 3) -- R293
  | atomExch64 (d : BitVec 6) (x k : BitVec 5) (l : BitVec 4) (g : BitVec 3) -- R293
  | atomCas64 (d : BitVec 6) (x k : BitVec 5) (l : BitVec 4) (g : BitVec 3) -- R293
  | atomFaddF32 (d : BitVec 6) (x k : BitVec 5) (l : BitVec 4) (g : BitVec 3) -- R293
  | atomFaddBf16x2 (d : BitVec 6) (x k : BitVec 5) (l : BitVec 4) (g : BitVec 3) -- R293
  | fence (s : BitVec 3) (k : BitVec 2) -- R337
  | cpyG2s (a b : BitVec 5) (n : BitVec 4) (v z : BitVec 1) (l : BitVec 4) -- R317
  | cpyS2g (a b : BitVec 5) (n : BitVec 4) (v z : BitVec 1) (l : BitVec 4) -- R317
  | cpytG2s (a b : BitVec 5) (n : BitVec 4) (v z : BitVec 1) (l : BitVec 4) -- R319
  | cpytS2g (a b : BitVec 5) (n : BitVec 4) (v z : BitVec 1) (l : BitVec 4) -- R319
  | cpym (a b : BitVec 5) (n : BitVec 4) (v z : BitVec 1) (l : BitVec 4) (t : BitVec 3) -- R318
  | bini (a : BitVec 5) (n l : BitVec 4) -- R303
  | barv (n l : BitVec 4) -- R300
  | bexp (a : BitVec 5) (n l : BitVec 4) -- R301
  | btst (a : BitVec 5) (n l : BitVec 4) -- R307
  | bwait (a : BitVec 5) (n l : BitVec 4) -- R308
  | clstAg (a : BitVec 5) (n l : BitVec 4) (f : BitVec 3) -- R312
  | clstRs (a : BitVec 5) (n l : BitVec 4) (f : BitVec 3) -- R312
  | clstAr (a : BitVec 5) (n l : BitVec 4) (f : BitVec 3) -- R312
  | clstBc (a : BitVec 5) (n l : BitVec 4) (f : BitVec 3) -- R312
  | evpst (a : BitVec 5) (l : BitVec 4) -- R330
  | rfnc (l : BitVec 4) -- R373
  | audm (a : BitVec 5) (l : BitVec 4) -- R295
  | digr (a : BitVec 5) (l : BitVec 4) -- R325
  | snap (d a : BitVec 5) (l : BitVec 4) -- R377
  | sacc (h : BitVec 5) (l : BitVec 4) -- R378
  | srej (h : BitVec 5) (l : BitVec 4) (s : BitVec 3) -- R379
  | sqry (d h : BitVec 5) (l : BitVec 4) -- R380
  | hgiv (h p : BitVec 5) (l : BitVec 4) -- R345
  | htak (d h : BitVec 5) (l : BitVec 4) -- R346
  | hmap (d o : BitVec 5) (l : BitVec 4) -- R344
  | hfls (h : BitVec 5) (l : BitVec 4) -- R341
  | lnch (d b : BitVec 5) (l : BitVec 4) -- R188
  | evpop (d b : BitVec 5) (l : BitVec 4) -- R329
  | trel (d t : BitVec 5) (l : BitVec 4) -- R396
  | xchUp (d s : BitVec 6) (k : BitVec 5) (g : BitVec 3) -- R400
  | xchDn (d s : BitVec 6) (k : BitVec 5) (g : BitVec 3) -- R400
  | xchXor (d s : BitVec 6) (k : BitVec 5) (g : BitVec 3) -- R400
  | xchIdx (d s : BitVec 6) (g : BitVec 3) -- R400
  | xbc (d s : BitVec 6) (k : BitVec 5) (g : BitVec 3) -- R400
  | xredAddI32 (d s : BitVec 6) (g : BitVec 3) -- R402
  | xredAddF32 (d s : BitVec 6) (g : BitVec 3) -- R402
  | xredMinS (d s : BitVec 6) (g : BitVec 3) -- R402
  | xredMaxS (d s : BitVec 6) (g : BitVec 3) -- R402
  | xredMinF32 (d s : BitVec 6) (g : BitVec 3) -- R402
  | xredMaxF32 (d s : BitVec 6) (g : BitVec 3) -- R402
  | xscnAddI32 (d s : BitVec 6) (g : BitVec 3) -- R402
  | xscnAddF32 (d s : BitVec 6) (g : BitVec 3) -- R402
  | xscnMinS (d s : BitVec 6) (g : BitVec 3) -- R402
  | xscnMaxS (d s : BitVec 6) (g : BitVec 3) -- R402
  | xscnMinF32 (d s : BitVec 6) (g : BitVec 3) -- R402
  | xscnMaxF32 (d s : BitVec 6) (g : BitVec 3) -- R402
  | voteBallot (d : BitVec 6) (p g : BitVec 3) -- R398
  | voteAny (q p g : BitVec 3) -- R398
  | voteAll (q p g : BitVec 3) -- R398
  | xshc (d s : BitVec 6) (k : BitVec 5) (g : BitVec 3) -- R403
  | bra (k : BitVec 5) (c : BitVec 2) (o : BitVec 19) -- R304
  | brd (p : BitVec 3) (n : BitVec 1) (o : BitVec 22) -- R305
  | call (o : BitVec 26) -- R309
  | calli (s : BitVec 6) (g : BitVec 3) -- R310
  | ret (s : BitVec 6) -- R372
  | join -- R351
  | exit (g : BitVec 3) -- R331
  | maskAnd (n : BitVec 1) (p : BitVec 3) -- R359
  | maskSet (n : BitVec 1) (p : BitVec 3) -- R359
  | tld (t : BitVec 3) (s : BitVec 2) (x i : BitVec 5) (f : BitVec 3) (l k : BitVec 4) -- R393
  | tst (t : BitVec 3) (s : BitVec 2) (x i : BitVec 5) (f : BitVec 3) (l k : BitVec 4) -- R394
  | tzr (t : BitVec 3) (s : BitVec 2) (x i : BitVec 5) (f : BitVec 3) (l : BitVec 4) -- R395
  | azr (x i : BitVec 5) (l : BitVec 4) -- R297
  | ard (t : BitVec 3) (h : BitVec 2) (x i : BitVec 5) (f : BitVec 3) (l : BitVec 4) -- R291
  | awr (t : BitVec 3) (h : BitVec 2) (x i : BitVec 5) (f : BitVec 3) (l : BitVec 4) -- R296
  | asv (a x i : BitVec 5) (l : BitVec 4) -- R292
  | ars (a x i : BitVec 5) (l : BitVec 4) -- R292
  | lstat (t : BitVec 3) (h : BitVec 2) (f : BitVec 3) (l : BitVec 4) -- R357
  | lstatN32 (t : BitVec 3) (h : BitVec 2) (f : BitVec 3) (l : BitVec 4) -- R357
  | plsw (l : BitVec 4) -- R370
  | mstr (t : BitVec 3) (h : BitVec 2) (x i : BitVec 5) (f : BitVec 3) (l : BitVec 4) -- R364
  | mstrN32 (t : BitVec 3) (h : BitVec 2) (x i : BitVec 5) (f : BitVec 3) (l : BitVec 4) -- R364
  | immx (p : BitVec 24) -- R350
  | hintMem (a o : BitVec 2) (s : BitVec 3) -- R348
  | hintAri (t : BitVec 1) (r : BitVec 3) -- R349
  | csrr (d : BitVec 6) (c : BitVec 10) (g : BitVec 3) -- R320
  | csrw (k : BitVec 5) (c : BitVec 10) -- R321
  | csrwExm (k : BitVec 5) -- R22
  | csrwStat (k : BitVec 5) -- R247
  | csrwAcown (k : BitVec 5) -- R321
  | csrwTvec (k : BitVec 5) -- R321
  | csrwWdg (k : BitVec 5) -- R321
  | csrwPrivb (k : BitVec 5) -- R322
  | trap -- R388
  | rft -- R374
  | svc (k : BitVec 5) -- R389
  | wait (k : BitVec 5) -- R390
  | nop (d : BitVec 6) -- R367
  | write (f : Frame) -- R252
  | read (f : Frame) -- R252
  | submit (f : Frame) -- R252
  | cancel (f : Frame) -- R252
  | retry (f : Frame) -- R252
  | cfgw (f : Frame) -- R254
  | cfgwWayMask (f : Frame) -- R123
  | cfgwTroot (f : Frame) -- R168
  | cfgwPartition (f : Frame) -- R193
  | cfgwHandlerDesc (f : Frame) -- R240
  | cfgwLeakyBucket (f : Frame) -- R235
  | cfgwPairctl (f : Frame) -- R225
  | cfgr (f : Frame) -- R254
  | pageUnmap (f : Frame) (len : Nat) -- R176
  | pageProtect (f : Frame) (len leaf : Nat) -- R176
  | pageDiscard (f : Frame) (len : Nat) -- R181
  | pageMigrate (f : Frame) (len leaf : Nat) -- R182
  | splinter -- R180
  | pair (f : Frame) -- R233
  | unpair (f : Frame) -- R233
  | powerRun (f : Frame) -- R258
  | powerRunLow (f : Frame) -- R258
  | powerHold (f : Frame) -- R258
  | powerOff (f : Frame) -- R258
  | powerGate (f : Frame) -- R19
  | powerUngate (f : Frame) -- R258
  | repair (f : Frame) (bank row : Nat) -- R234
  | attest (f : Frame) -- R257
  | unknownCommand (f : Frame) (cmd : Nat) -- R252
  | ethernetIngressDrop (f : EthFrame) -- R249
  | bringUp (imageOk : Bool) (up : Halves) (dup : BitVec 3) -- R257
  | thermalTrip -- R259
  | linkDown (port : Nat) (reason : DownReason) -- R255
  | linkRetrain (port : Nat) (lowHalf highHalf sameId : Bool) -- R255
  | linkLoss (port : Nat) -- R236
  | portStatusReport (chip : Nat) (upTo : BitVec 4) -- R236
  | flitReceive (port chan : Nat) (crcOk : Bool) -- R255
  | pauseFlit (port chan : Nat) -- R255
  | resumeFlit (port chan : Nat) -- R255
  | remoteRequest (chip : Nat) (r : RemoteReq) -- R17
  | collectiveContribution (coll chip : Nat) (c : Contribution) -- R312
  | homeWriteGrant (w t e : Nat) -- R160
  | l2Fill (line tenant : Nat) (errs : List SectorErr) -- R121
  | correctedError (site : ErrSite) -- R234
  | classifierEntryExpiry (ctl idx : Nat) -- R234
  | leakyBucketLeak (idx : Nat) -- R235
  | wayRemovalLine (slice tenant : Nat) -- R123
  | storeBufferDrain (w t e : Nat) -- R134
  | writeAck (w t e : Nat) -- R145
  | fenceMarkerAck (w t : Nat) (d : Dest) -- R141
  | loadReturn (w t o i : Nat) (d : RemoteData) -- R131
  | atomicResponse (idx : Nat) (old : W64) (fail : Option AtomFail) -- R207
  | requestReturnExpiry (w t o i : Nat) -- R206
  | longLatencyComplete (w t o : Nat) -- R41
  | translationWalk (core tenant vpage : Nat) -- R170
  | pageRevival (tenant vpage : Nat) -- R181
  | linePull (frame line : Nat) (d : List Byte) (tags : SectorTags) -- R182
  | trapEntry (w t : Nat) -- R241
  | splitReload (w t : Nat) -- R30
  | waitExpiry (w t p : Nat) -- R390
  | clusterBarrierArrival (w b : Nat) -- R100
  | clusterBarrierBroadcast (w b : Nat) -- R100
  | barrierTimeout (w b : Nat) -- R101
  | xshcTimeout (w t p : Nat) -- R35
  | streamerCommandStart (c : Nat) -- R94
  | streamerWrite (c : Nat) (d : RemoteData) -- R94
  | streamerCommandComplete (c : Nat) -- R94
  | sequencerStart (q : Nat) (d : List Byte) (tags : SectorTags) -- R82
  | mstrChunkPass (q : Nat) -- R66
  | sequencerComplete (q : Nat) -- R82
  | snapshotCommandStart (dom : Nat) -- R158
  | svcAnswer (w t : Nat) -- R389
  | preemptRequest (w : Nat) -- R204
  | coreHalt (w : Nat) -- R205
  | contextSave (w : Nat) -- R208
  | contextResume (w core : Nat) -- R209
  | dispatchSelection -- R196
  | timeSliceExpiry (w : Nat) -- R199
  | leaseResolve (slot : Nat) -- R174
  | taskRetire (slot : Nat) -- R192
  | workgroupEnd (w : Nat) -- R332
  | completionRecordPost (x : PostTurn) -- R102
  | checkpointClose (slot : Nat) -- R229
  | comparatorRequest (w t : Nat) -- R227
  | comparatorTimeout (w t : Nat) -- R228
  | auditReplay (slot wgid core : Nat) -- R221
  | lehrExhaustion (slot : Nat) -- R230
  | timeSyncMessage (port : Nat) (offset : Int) -- R249
  | gateControlListAdvance (port : Nat) -- R250
  deriving DecidableEq, Repr

end Sys2Proof
end

