-- ==== Sys2Proof/WellFormed.lean ====
section
/-! DEFINITION. Well-formed instructions. For a word: the checks of R276 (spec/13_encoding.md) that concern field
values, namely register classes and groups (R261, check 4), selectors that share a field with an operand (check 2),
and limits of single fields (check 6). An instruction that is not well formed raises ILLEGAL. For an event: that it
names a port, a chip or a register class that exists and carries the command its row names; an event that does not
is no event of this machine and is refused by name. -/

namespace Sys2Proof

/-- A 6-bit field of class k names k0 to k31 (R261). -/
def isK (r : BitVec 6) : Bool := decide (r.toNat ≤ 31)

/-- A group of `n` v registers from `d` does not pass v63 (R261). -/
def vGroup (d : BitVec 6) (n : Nat) : Bool := decide (d.toNat + n ≤ 64)

/-- A group of `n` k registers from `d` does not pass k31 (R261). -/
def kGroup (d : BitVec 6) (n : Nat) : Bool := decide (d.toNat + n ≤ 32)

/-- How many v registers a D-form access of width code `w` uses (R270). -/
def widthRegs (w : Nat) : Nat := if w = 3 then 2 else if w = 4 then 4 else if w = 5 then 3 else 1

/-- The CSR numbers of R275. -/
def csrKnown (c : Nat) : Bool :=
  [0x001, 0x002, 0x003, 0x004, 0x005, 0x010, 0x011, 0x012, 0x020, 0x021, 0x022, 0x023, 0x024, 0x030, 0x031, 0x040,
    0x100, 0x101, 0x102, 0x110, 0x120].contains c

/-- The CSRs whose write is a row of its own in spec/opcode_table.json. -/
def csrOwnRow (c : Nat) : Bool := [0x010, 0x040, 0x020, 0x100, 0x110, 0x120].contains c

/-- The register classes whose CFGW is a row of its own in spec/opcode_table.json (R254). -/
def cfgwOwnRow (c : Nat) : Bool := [1, 2, 3, 5, 6, 7].contains c

/-- The request codes of R252. -/
def cmdKnown (c : Nat) : Bool := decide (1 ≤ c) && decide (c ≤ 12)

/-- Byte `i` of a frame's data, 0 beyond its end. -/
def Frame.byte (f : Frame) (i : Nat) : Nat := (f.data.getD i 0#8).toNat

/-- The number in `n` bytes of a frame's data from byte `i`, little-endian (R3). -/
def Frame.num (f : Frame) (i : Nat) : Nat → Nat
  | 0 => 0
  | n + 1 => f.byte i + 256 * f.num (i + 1) n

/-- The options of R249 that a port does not implement. -/
def EthOption.absent : EthOption → Bool
  | .stackedTags => true
  | .relay => true
  | .matchRecovery => true
  | .otherRate => true
  | .energyEfficient => true
  | .other => true
  | .vlanTag => false
  | .timeStamp => false
  | .gateList => false
  | .streamFilter => false
  | .vectorRecovery => false
  | .preemption => false

/-- Whether a frame is dropped at ingress (R249): it is longer than 9,216 bytes, or needs an option that the port lacks. -/
def EthFrame.dropped (f : EthFrame) : Bool := decide (9216 < f.bytes) || f.needs.any EthOption.absent

/-- The 8-byte value of CFGW, PAIR, POWER and REPAIR (R251). -/
def Frame.value64 (f : Frame) : Nat := f.num 0 8

/-- The register class a selector names, ADDR[7:0] (R254). -/
def Frame.cfgClass (f : Frame) : Nat := f.addr.toNat % 256

/-- The index a selector names, ADDR[15:8] (R254). -/
def Frame.cfgIndex (f : Frame) : Nat := bitsAt f.addr.toNat 8 8

/-- The sub-index a selector names, ADDR[23:16] (R254). -/
def Frame.cfgSub (f : Frame) : Nat := bitsAt f.addr.toNat 16 8

/-- A memory controller 0 to 11 (R9) or a bucket 0 to 80 (R254). -/
def ErrSite.wf : ErrSite → Bool
  | .memory ctl _ _ _ => decide (ctl ≤ 11)
  | .bucket idx => decide (idx ≤ 80)

/-- The checks of R276 that concern field values; for an event, that it names parts that exist. -/
def Instr.wf : Instr → Bool
  | .add _ _ _ _ => true
  | .addc _ _ _ _ => true
  | .sub _ _ _ _ => true
  | .subb _ _ _ _ => true
  | .mul _ _ _ _ => true
  | .mulhS _ _ _ _ => true
  | .mulhU _ _ _ _ => true
  | .minS _ _ _ _ => true
  | .minU _ _ _ _ => true
  | .maxS _ _ _ _ => true
  | .maxU _ _ _ _ => true
  | .abs _ _ _ => true
  | .neg _ _ _ => true
  | .popc _ _ _ => true
  | .clz _ _ _ => true
  | .ctz _ _ _ => true
  | .brev _ _ _ => true
  | .mov _ _ _ => true
  | .movVK _ a _ => isK a
  | .addK d a b => isK d && isK a && isK b
  | .subK d a b => isK d && isK a && isK b
  | .mulK d a b => isK d && isK a && isK b
  | .mulhSK d a b => isK d && isK a && isK b
  | .mulhUK d a b => isK d && isK a && isK b
  | .minSK d a b => isK d && isK a && isK b
  | .minUK d a b => isK d && isK a && isK b
  | .maxSK d a b => isK d && isK a && isK b
  | .maxUK d a b => isK d && isK a && isK b
  | .absK d a => isK d && isK a
  | .negK d a => isK d && isK a
  | .popcK d a => isK d && isK a
  | .clzK d a => isK d && isK a
  | .ctzK d a => isK d && isK a
  | .brevK d a => isK d && isK a
  | .movK d a => isK d && isK a
  | .and _ _ _ _ => true
  | .andn _ _ _ _ => true
  | .or _ _ _ _ => true
  | .xor _ _ _ _ => true
  | .not _ _ _ => true
  | .shl _ _ _ _ => true
  | .shr _ _ _ _ => true
  | .sra _ _ _ _ => true
  | .rot _ _ _ _ => true
  | .bfxU _ _ _ _ => true
  | .bfxS _ _ _ _ => true
  | .andK d a b => isK d && isK a && isK b
  | .andnK d a b => isK d && isK a && isK b
  | .orK d a b => isK d && isK a && isK b
  | .xorK d a b => isK d && isK a && isK b
  | .notK d a => isK d && isK a
  | .shlK d a b => isK d && isK a && isK b
  | .shrK d a b => isK d && isK a && isK b
  | .sraK d a b => isK d && isK a && isK b
  | .rotK d a b => isK d && isK a && isK b
  | .bfxUK d a b => isK d && isK a && isK b
  | .bfxSK d a b => isK d && isK a && isK b
  | .mad _ _ _ _ => true
  | .bfi _ _ _ _ => true
  | .lea0 _ _ _ _ => true
  | .lea1 _ _ _ _ => true
  | .lea2 _ _ _ _ => true
  | .lea3 _ _ _ _ => true
  | .cmp _ m _ _ _ k _ => decide (m.toNat ≤ 2) && decide (k.toNat ≤ 5)
  | .sel _ _ _ _ _ => true
  | .divU _ _ _ _ _ => true
  | .remU _ _ _ _ _ => true
  | .divS _ _ _ _ _ => true
  | .remS _ _ _ _ _ => true
  | .fadd _ _ _ t _ => decide (t.toNat ≤ 2)
  | .fsub _ _ _ t _ => decide (t.toNat ≤ 2)
  | .fmul _ _ _ t _ => decide (t.toNat ≤ 2)
  | .fmin _ _ _ t _ => decide (t.toNat ≤ 2)
  | .fmax _ _ _ t _ => decide (t.toNat ≤ 2)
  | .frnd _ _ t _ => decide (t.toNat ≤ 2)
  | .ffma _ _ _ t _ => decide (t.toNat ≤ 2)
  | .ffmaSub _ _ _ t _ => decide (t.toNat ≤ 2)
  | .ffmaNeg _ _ _ t _ => decide (t.toNat ≤ 2)
  | .fcmp _ m _ _ t k _ => decide (m.toNat ≤ 2) && decide (k.toNat ≤ 6) && decide (t.toNat ≤ 2)
  | .fdiv _ _ _ _ _ => true
  | .fsqrt _ _ _ _ => true
  | .frcp _ _ _ _ => true
  | .frsq _ _ _ _ => true
  | .fsinp _ _ _ _ => true
  | .fcosp _ _ _ _ => true
  | .fex2 _ _ _ _ => true
  | .flg2 _ _ _ _ => true
  | .packBf16 _ _ _ _ => true
  | .packF16 _ _ _ _ => true
  | .unpkBf16Lo _ _ _ => true
  | .unpkBf16Hi _ _ _ => true
  | .unpkF16Lo _ _ _ => true
  | .unpkF16Hi _ _ _ => true
  | .hcvt _ s x i _ _ _ _ => decide (s.toNat ≤ 1) && (s != 0#2 || (x == 0#5 && i == 0#5))
  | .cvt _ _ f t r _ => decide (f.toNat ≤ 10) && decide (t.toNat ≤ 10) && decide (r.toNat ≤ 5)
  | .addImm _ _ _ _ => true
  | .andImm _ _ _ _ => true
  | .orImm _ _ _ _ => true
  | .xorImm _ _ _ _ => true
  | .shlImm _ _ _ _ => true
  | .shrImm _ _ _ _ => true
  | .sraImm _ _ _ _ => true
  | .rotImm _ _ _ _ => true
  | .cmpImm _ m _ k _ _ _ => decide (m.toNat ≤ 2) && decide (k.toNat ≤ 5)
  | .movi _ _ _ => true
  | .moviHi _ _ _ => true
  | .addKImm d a _ => isK d && isK a
  | .moviK d _ _ => isK d
  | .cmpK d a b _ k => isK d && isK a && isK b && decide (k.toNat ≤ 5)
  | .ld d _ _ w _ _ => decide (w.toNat ≤ 5) && vGroup d (widthRegs w.toNat)
  | .ldS _ _ _ _ _ _ => true
  | .st d _ _ w _ _ => decide (w.toNat ≤ 6) && vGroup d (widthRegs w.toNat)
  | .ldk d _ _ w _ => decide (w.toNat ≤ 4) && kGroup d (if w.toNat = 4 then 2 else 1)
  | .stk d _ _ w _ => decide (w.toNat ≤ 4) && kGroup d (if w.toNat = 4 then 2 else 1)
  | .atomAdd _ _ _ _ _ => true
  | .atomAnd _ _ _ _ _ => true
  | .atomOr _ _ _ _ _ => true
  | .atomXor _ _ _ _ _ => true
  | .atomMinS _ _ _ _ _ => true
  | .atomMaxS _ _ _ _ _ => true
  | .atomMinU _ _ _ _ _ => true
  | .atomMaxU _ _ _ _ _ => true
  | .atomExch32 _ _ _ _ _ => true
  | .atomCas32 d _ _ _ _ => vGroup d 2
  | .atomAdd64 d _ _ _ _ => vGroup d 2
  | .atomExch64 d _ _ _ _ => vGroup d 2
  | .atomCas64 d _ _ _ _ => vGroup d 4
  | .atomFaddF32 _ _ _ _ _ => true
  | .atomFaddBf16x2 _ _ _ _ _ => true
  | .fence s _ => decide (s.toNat ≤ 4)
  | .cpyG2s _ b n v z _ => decide (b.toNat ≤ 30) && !(v == 1#1 && z == 1#1) && !(z == 1#1 && n != 0#4)
  | .cpyS2g _ b n v z _ => decide (b.toNat ≤ 30) && !(v == 1#1 && z == 1#1) && !(z == 1#1 && n != 0#4)
  | .cpytG2s _ b n v z _ => decide (b.toNat ≤ 28) && !(v == 1#1 && z == 1#1) && !(z == 1#1 && n != 0#4)
  | .cpytS2g _ b n v z _ => decide (b.toNat ≤ 28) && !(v == 1#1 && z == 1#1) && !(z == 1#1 && n != 0#4)
  | .cpym _ b n v z _ _ => decide (b.toNat ≤ 28) && !(v == 1#1 && z == 1#1) && !(z == 1#1 && n != 0#4)
  | .bini _ _ _ => true
  | .barv _ _ => true
  | .bexp _ _ _ => true
  | .btst _ _ _ => true
  | .bwait _ _ _ => true
  | .clstAg _ _ _ _ => true
  | .clstRs _ _ _ _ => true
  | .clstAr _ _ _ _ => true
  | .clstBc _ _ _ _ => true
  | .evpst a _ => decide (a.toNat ≤ 27)
  | .rfnc _ => true
  | .audm _ _ => true
  | .digr _ _ => true
  | .snap _ _ _ => true
  | .sacc _ _ => true
  | .srej _ _ s => decide (s.toNat ≤ 4)
  | .sqry _ _ _ => true
  | .hgiv _ _ _ => true
  | .htak _ _ _ => true
  | .hmap _ o _ => decide (o.toNat ≤ 29)
  | .hfls _ _ => true
  | .lnch _ _ _ => true
  | .evpop d _ _ => decide (d.toNat ≤ 24)
  | .trel _ _ _ => true
  | .xchUp _ _ _ _ => true
  | .xchDn _ _ _ _ => true
  | .xchXor _ _ _ _ => true
  | .xchIdx _ _ _ => true
  | .xbc _ _ _ _ => true
  | .xredAddI32 _ _ _ => true
  | .xredAddF32 _ _ _ => true
  | .xredMinS _ _ _ => true
  | .xredMaxS _ _ _ => true
  | .xredMinF32 _ _ _ => true
  | .xredMaxF32 _ _ _ => true
  | .xscnAddI32 _ _ _ => true
  | .xscnAddF32 _ _ _ => true
  | .xscnMinS _ _ _ => true
  | .xscnMaxS _ _ _ => true
  | .xscnMinF32 _ _ _ => true
  | .xscnMaxF32 _ _ _ => true
  | .voteBallot _ _ _ => true
  | .voteAny _ _ _ => true
  | .voteAll _ _ _ => true
  | .xshc _ _ _ _ => true
  | .bra k c _ => !(c == 0#2 && k != 0#5)
  | .brd _ _ _ => true
  | .call _ => true
  | .calli _ _ => true
  | .ret s => isK s
  | .join => true
  | .exit _ => true
  | .maskAnd _ _ => true
  | .maskSet _ _ => true
  | .tld _ s x i f _ _ => decide (s.toNat ≤ 2) && (s != 0#2 || (x == 0#5 && i == 0#5)) && (s == 2#2 || f == 0#3)
  | .tst _ s x i f _ _ => decide (s.toNat ≤ 2) && (s != 0#2 || (x == 0#5 && i == 0#5)) && (s == 2#2 || f == 0#3)
  | .tzr _ s x i _ _ => decide (s.toNat ≤ 2) && (s != 0#2 || (x == 0#5 && i == 0#5))
  | .azr _ _ _ => true
  | .ard _ _ _ _ _ _ => true
  | .awr _ _ _ _ _ _ => true
  | .asv _ _ _ _ => true
  | .ars _ _ _ _ => true
  | .lstat t h _ _ => decide (h.toNat ≤ 2) && decide (t.toNat % 2 = 0)
  | .lstatN32 _ h _ _ => decide (h.toNat ≤ 2)
  | .plsw _ => true
  | .mstr _ h _ _ _ _ => decide (h.toNat ≤ 2)
  | .mstrN32 _ h _ _ _ _ => decide (h.toNat ≤ 2)
  | .immx _ => true
  | .hintMem a _ s => decide (s.toNat ≤ 4) && decide (a.toNat ≤ 2)
  | .hintAri _ r => decide (r.toNat ≤ 6)
  | .csrr d c g => csrKnown c.toNat && (c.toNat = 1 || (isK d && g == 7#3))
  | .csrw _ c => csrKnown c.toNat && !csrOwnRow c.toNat
  | .csrwExm _ => true
  | .csrwStat _ => true
  | .csrwAcown _ => true
  | .csrwTvec _ => true
  | .csrwWdg _ => true
  | .csrwPrivb _ => true
  | .trap => true
  | .rft => true
  | .svc _ => true
  | .wait _ => true
  | .nop d => decide (d.toNat ≤ 8)
  | .write f => decide (f.port ≤ 1)
  | .read f => decide (f.port ≤ 1)
  | .submit f => decide (f.port ≤ 1)
  | .cancel f => decide (f.port ≤ 1)
  | .retry f => decide (f.port ≤ 1)
  | .cfgw f => decide (f.port ≤ 1) && !cfgwOwnRow f.cfgClass
  | .cfgwWayMask f => decide (f.port ≤ 1) && f.cfgClass == 1
  | .cfgwTroot f => decide (f.port ≤ 1) && f.cfgClass == 2
  | .cfgwPartition f => decide (f.port ≤ 1) && f.cfgClass == 3
  | .cfgwHandlerDesc f => decide (f.port ≤ 1) && f.cfgClass == 5
  | .cfgwLeakyBucket f => decide (f.port ≤ 1) && f.cfgClass == 6
  | .cfgwPairctl f => decide (f.port ≤ 1) && f.cfgClass == 7
  | .cfgr f => decide (f.port ≤ 1)
  | .pageUnmap f len => decide (f.port ≤ 1) && (f.num 0 4 == 0 || decide (3 < f.num 0 4)) && f.num 4 4 == len
  | .pageProtect f len leaf => decide (f.port ≤ 1) && f.num 0 4 == 1 && f.num 4 4 == len && f.num 8 8 == leaf
  | .pageDiscard f len => decide (f.port ≤ 1) && f.num 0 4 == 2 && f.num 4 4 == len
  | .pageMigrate f len leaf => decide (f.port ≤ 1) && f.num 0 4 == 3 && f.num 4 4 == len && f.num 8 8 == leaf
  | .splinter => true
  | .pair f => decide (f.port ≤ 1) && f.value64 != 0
  | .unpair f => decide (f.port ≤ 1) && f.value64 == 0
  | .powerRun f => decide (f.port ≤ 1) && (f.byte 0 == 0 || decide (5 < f.byte 0))
  | .powerRunLow f => decide (f.port ≤ 1) && f.byte 0 == 1
  | .powerHold f => decide (f.port ≤ 1) && f.byte 0 == 2
  | .powerOff f => decide (f.port ≤ 1) && f.byte 0 == 3
  | .powerGate f => decide (f.port ≤ 1) && f.byte 0 == 4
  | .powerUngate f => decide (f.port ≤ 1) && f.byte 0 == 5
  | .repair f bank row => decide (f.port ≤ 1) && f.byte 0 == bank && f.num 1 3 == row
  | .attest f => decide (f.port ≤ 1)
  | .unknownCommand f cmd => decide (f.port ≤ 1) && !cmdKnown cmd
  | .ethernetIngressDrop f => decide (f.port ≤ 1) && f.dropped
  | .bringUp _ _ _ => true
  | .thermalTrip => true
  | .linkDown port _ => decide (port ≤ 2)
  | .linkRetrain port _ _ _ => decide (port ≤ 2)
  | .linkLoss port => decide (port ≤ 2)
  | .portStatusReport chip _ => decide (chip ≤ 3)
  | .flitReceive port chan _ => decide (port ≤ 2) && decide (chan ≤ 3)
  | .pauseFlit port chan => decide (port ≤ 2) && decide (chan ≤ 3)
  | .resumeFlit port chan => decide (port ≤ 2) && decide (chan ≤ 3)
  | .remoteRequest chip _ => decide (chip ≤ 3)
  | .collectiveContribution _ chip _ => decide (chip ≤ 3)
  | .homeWriteGrant _ _ _ => true
  | .l2Fill _ tenant errs => decide (tenant ≤ 15) && errs.length == 4
  | .correctedError site => site.wf
  | .classifierEntryExpiry ctl _ => decide (ctl ≤ 11)
  | .leakyBucketLeak idx => decide (idx ≤ 80)
  | .wayRemovalLine slice tenant => decide (slice ≤ 31) && decide (tenant ≤ 15)
  | .storeBufferDrain _ _ _ => true
  | .writeAck _ _ _ => true
  | .fenceMarkerAck _ _ _ => true
  | .loadReturn _ _ _ _ _ => true
  | .atomicResponse _ _ _ => true
  | .requestReturnExpiry _ _ _ _ => true
  | .longLatencyComplete _ _ _ => true
  | .translationWalk core tenant _ => decide (core ≤ 63) && decide (tenant ≤ 15)
  | .pageRevival tenant _ => decide (tenant ≤ 15)
  | .linePull _ line d _ => decide (line ≤ 31) && d.length == 128
  | .trapEntry _ _ => true
  | .splitReload _ _ => true
  | .waitExpiry _ _ _ => true
  | .clusterBarrierArrival _ _ => true
  | .clusterBarrierBroadcast _ _ => true
  | .barrierTimeout _ _ => true
  | .xshcTimeout _ _ _ => true
  | .streamerCommandStart _ => true
  | .streamerWrite _ _ => true
  | .streamerCommandComplete _ => true
  | .sequencerStart _ _ _ => true
  | .mstrChunkPass _ => true
  | .sequencerComplete _ => true
  | .snapshotCommandStart _ => true
  | .svcAnswer _ _ => true
  | .preemptRequest _ => true
  | .coreHalt _ => true
  | .contextSave _ => true
  | .contextResume _ core => decide (core ≤ 63)
  | .dispatchSelection => true
  | .timeSliceExpiry _ => true
  | .leaseResolve _ => true
  | .taskRetire _ => true
  | .workgroupEnd _ => true
  | .completionRecordPost _ => true
  | .checkpointClose _ => true
  | .comparatorRequest _ _ => true
  | .comparatorTimeout _ _ => true
  | .auditReplay _ _ core => decide (core ≤ 63)
  | .lehrExhaustion _ => true
  | .timeSyncMessage port _ => decide (port ≤ 1)
  | .gateControlListAdvance port => decide (port ≤ 1)

end Sys2Proof
end

