-- ==== Sys2Proof/Decode.lean ====
section
/-! DEFINITION. Decoding (spec/13_encoding.md R260 to R276) and, after it, the encoder written from the same tables.
A word whose selector or reserved bits the chapter does not assign (R276 checks 1 to 3) decodes to `none`: the machine
takes ILLEGAL there. The remaining checks of R276 are `Instr.wf` (WellFormed.lean), made by the machine on the decoded
instruction. -/

namespace Sys2Proof

/-- Major 0x01 (R269 to R275). -/
def decodeMajor01 (w : W32) : Option Instr :=
  if w.extractLsb' 3 11 = 11#11 then
    some (.abs (w.extractLsb' 20 6) (w.extractLsb' 14 6) (w.extractLsb' 0 3))
  else if w.extractLsb' 3 11 = 12#11 then
    some (.neg (w.extractLsb' 20 6) (w.extractLsb' 14 6) (w.extractLsb' 0 3))
  else if w.extractLsb' 3 11 = 13#11 then
    some (.popc (w.extractLsb' 20 6) (w.extractLsb' 14 6) (w.extractLsb' 0 3))
  else if w.extractLsb' 3 11 = 14#11 then
    some (.clz (w.extractLsb' 20 6) (w.extractLsb' 14 6) (w.extractLsb' 0 3))
  else if w.extractLsb' 3 11 = 15#11 then
    some (.ctz (w.extractLsb' 20 6) (w.extractLsb' 14 6) (w.extractLsb' 0 3))
  else if w.extractLsb' 3 11 = 16#11 then
    some (.brev (w.extractLsb' 20 6) (w.extractLsb' 14 6) (w.extractLsb' 0 3))
  else if w.extractLsb' 3 11 = 17#11 then
    some (.mov (w.extractLsb' 20 6) (w.extractLsb' 14 6) (w.extractLsb' 0 3))
  else if w.extractLsb' 3 11 = 18#11 then
    some (.movVK (w.extractLsb' 20 6) (w.extractLsb' 14 6) (w.extractLsb' 0 3))
  else if w.extractLsb' 3 5 = 0#5 then
    some (.add (w.extractLsb' 20 6) (w.extractLsb' 14 6) (w.extractLsb' 8 6) (w.extractLsb' 0 3))
  else if w.extractLsb' 3 5 = 1#5 then
    some (.addc (w.extractLsb' 20 6) (w.extractLsb' 14 6) (w.extractLsb' 8 6) (w.extractLsb' 0 3))
  else if w.extractLsb' 3 5 = 2#5 then
    some (.sub (w.extractLsb' 20 6) (w.extractLsb' 14 6) (w.extractLsb' 8 6) (w.extractLsb' 0 3))
  else if w.extractLsb' 3 5 = 3#5 then
    some (.subb (w.extractLsb' 20 6) (w.extractLsb' 14 6) (w.extractLsb' 8 6) (w.extractLsb' 0 3))
  else if w.extractLsb' 3 5 = 4#5 then
    some (.mul (w.extractLsb' 20 6) (w.extractLsb' 14 6) (w.extractLsb' 8 6) (w.extractLsb' 0 3))
  else if w.extractLsb' 3 5 = 5#5 then
    some (.mulhS (w.extractLsb' 20 6) (w.extractLsb' 14 6) (w.extractLsb' 8 6) (w.extractLsb' 0 3))
  else if w.extractLsb' 3 5 = 6#5 then
    some (.mulhU (w.extractLsb' 20 6) (w.extractLsb' 14 6) (w.extractLsb' 8 6) (w.extractLsb' 0 3))
  else if w.extractLsb' 3 5 = 7#5 then
    some (.minS (w.extractLsb' 20 6) (w.extractLsb' 14 6) (w.extractLsb' 8 6) (w.extractLsb' 0 3))
  else if w.extractLsb' 3 5 = 8#5 then
    some (.minU (w.extractLsb' 20 6) (w.extractLsb' 14 6) (w.extractLsb' 8 6) (w.extractLsb' 0 3))
  else if w.extractLsb' 3 5 = 9#5 then
    some (.maxS (w.extractLsb' 20 6) (w.extractLsb' 14 6) (w.extractLsb' 8 6) (w.extractLsb' 0 3))
  else if w.extractLsb' 3 5 = 10#5 then
    some (.maxU (w.extractLsb' 20 6) (w.extractLsb' 14 6) (w.extractLsb' 8 6) (w.extractLsb' 0 3))
  else none

/-- Major 0x02 (R269 to R275). -/
def decodeMajor02 (w : W32) : Option Instr :=
  if w.extractLsb' 3 11 = 4#11 then
    some (.not (w.extractLsb' 20 6) (w.extractLsb' 14 6) (w.extractLsb' 0 3))
  else if w.extractLsb' 3 5 = 0#5 then
    some (.and (w.extractLsb' 20 6) (w.extractLsb' 14 6) (w.extractLsb' 8 6) (w.extractLsb' 0 3))
  else if w.extractLsb' 3 5 = 1#5 then
    some (.andn (w.extractLsb' 20 6) (w.extractLsb' 14 6) (w.extractLsb' 8 6) (w.extractLsb' 0 3))
  else if w.extractLsb' 3 5 = 2#5 then
    some (.or (w.extractLsb' 20 6) (w.extractLsb' 14 6) (w.extractLsb' 8 6) (w.extractLsb' 0 3))
  else if w.extractLsb' 3 5 = 3#5 then
    some (.xor (w.extractLsb' 20 6) (w.extractLsb' 14 6) (w.extractLsb' 8 6) (w.extractLsb' 0 3))
  else if w.extractLsb' 3 5 = 5#5 then
    some (.shl (w.extractLsb' 20 6) (w.extractLsb' 14 6) (w.extractLsb' 8 6) (w.extractLsb' 0 3))
  else if w.extractLsb' 3 5 = 6#5 then
    some (.shr (w.extractLsb' 20 6) (w.extractLsb' 14 6) (w.extractLsb' 8 6) (w.extractLsb' 0 3))
  else if w.extractLsb' 3 5 = 7#5 then
    some (.sra (w.extractLsb' 20 6) (w.extractLsb' 14 6) (w.extractLsb' 8 6) (w.extractLsb' 0 3))
  else if w.extractLsb' 3 5 = 8#5 then
    some (.rot (w.extractLsb' 20 6) (w.extractLsb' 14 6) (w.extractLsb' 8 6) (w.extractLsb' 0 3))
  else if w.extractLsb' 3 5 = 9#5 then
    some (.bfxU (w.extractLsb' 20 6) (w.extractLsb' 14 6) (w.extractLsb' 8 6) (w.extractLsb' 0 3))
  else if w.extractLsb' 3 5 = 10#5 then
    some (.bfxS (w.extractLsb' 20 6) (w.extractLsb' 14 6) (w.extractLsb' 8 6) (w.extractLsb' 0 3))
  else none

/-- Major 0x03 (R269 to R275). -/
def decodeMajor03 (w : W32) : Option Instr :=
  if w.extractLsb' 3 5 = 0#5 then
    some (.mad (w.extractLsb' 20 6) (w.extractLsb' 14 6) (w.extractLsb' 8 6) (w.extractLsb' 0 3))
  else if w.extractLsb' 3 5 = 1#5 then
    some (.bfi (w.extractLsb' 20 6) (w.extractLsb' 14 6) (w.extractLsb' 8 6) (w.extractLsb' 0 3))
  else if w.extractLsb' 3 5 = 2#5 then
    some (.lea0 (w.extractLsb' 20 6) (w.extractLsb' 14 6) (w.extractLsb' 8 6) (w.extractLsb' 0 3))
  else if w.extractLsb' 3 5 = 3#5 then
    some (.lea1 (w.extractLsb' 20 6) (w.extractLsb' 14 6) (w.extractLsb' 8 6) (w.extractLsb' 0 3))
  else if w.extractLsb' 3 5 = 4#5 then
    some (.lea2 (w.extractLsb' 20 6) (w.extractLsb' 14 6) (w.extractLsb' 8 6) (w.extractLsb' 0 3))
  else if w.extractLsb' 3 5 = 5#5 then
    some (.lea3 (w.extractLsb' 20 6) (w.extractLsb' 14 6) (w.extractLsb' 8 6) (w.extractLsb' 0 3))
  else none

/-- Major 0x04 (R269 to R275). -/
def decodeMajor04 (w : W32) : Option Instr :=
  if w.extractLsb' 7 1 = 0#1 then
    some (.cmp (w.extractLsb' 23 3) (w.extractLsb' 20 3) (w.extractLsb' 14 6) (w.extractLsb' 8 6) (w.extractLsb' 6 1) (w.extractLsb' 3 3) (w.extractLsb' 0 3))
  else none

/-- Major 0x05 (R269 to R275). -/
def decodeMajor05 (w : W32) : Option Instr :=
  if w.extractLsb' 3 2 = 0#2 then
    some (.sel (w.extractLsb' 20 6) (w.extractLsb' 14 6) (w.extractLsb' 8 6) (w.extractLsb' 5 3) (w.extractLsb' 0 3))
  else none

/-- Major 0x06 (R269 to R275). -/
def decodeMajor06 (w : W32) : Option Instr :=
  if w.extractLsb' 3 1 = 0#1 then
    some (.divU (w.extractLsb' 20 6) (w.extractLsb' 14 6) (w.extractLsb' 8 6) (w.extractLsb' 4 4) (w.extractLsb' 0 3))
  else if w.extractLsb' 3 1 = 1#1 then
    some (.remU (w.extractLsb' 20 6) (w.extractLsb' 14 6) (w.extractLsb' 8 6) (w.extractLsb' 4 4) (w.extractLsb' 0 3))
  else none

/-- Major 0x07 (R269 to R275). -/
def decodeMajor07 (w : W32) : Option Instr :=
  if w.extractLsb' 3 1 = 0#1 then
    some (.divS (w.extractLsb' 20 6) (w.extractLsb' 14 6) (w.extractLsb' 8 6) (w.extractLsb' 4 4) (w.extractLsb' 0 3))
  else if w.extractLsb' 3 1 = 1#1 then
    some (.remS (w.extractLsb' 20 6) (w.extractLsb' 14 6) (w.extractLsb' 8 6) (w.extractLsb' 4 4) (w.extractLsb' 0 3))
  else none

/-- Major 0x08 (R269 to R275). -/
def decodeMajor08 (w : W32) : Option Instr :=
  if w.extractLsb' 5 9 = 5#9 then
    some (.frnd (w.extractLsb' 20 6) (w.extractLsb' 14 6) (w.extractLsb' 3 2) (w.extractLsb' 0 3))
  else if w.extractLsb' 5 3 = 0#3 then
    some (.fadd (w.extractLsb' 20 6) (w.extractLsb' 14 6) (w.extractLsb' 8 6) (w.extractLsb' 3 2) (w.extractLsb' 0 3))
  else if w.extractLsb' 5 3 = 1#3 then
    some (.fsub (w.extractLsb' 20 6) (w.extractLsb' 14 6) (w.extractLsb' 8 6) (w.extractLsb' 3 2) (w.extractLsb' 0 3))
  else if w.extractLsb' 5 3 = 2#3 then
    some (.fmul (w.extractLsb' 20 6) (w.extractLsb' 14 6) (w.extractLsb' 8 6) (w.extractLsb' 3 2) (w.extractLsb' 0 3))
  else if w.extractLsb' 5 3 = 3#3 then
    some (.fmin (w.extractLsb' 20 6) (w.extractLsb' 14 6) (w.extractLsb' 8 6) (w.extractLsb' 3 2) (w.extractLsb' 0 3))
  else if w.extractLsb' 5 3 = 4#3 then
    some (.fmax (w.extractLsb' 20 6) (w.extractLsb' 14 6) (w.extractLsb' 8 6) (w.extractLsb' 3 2) (w.extractLsb' 0 3))
  else none

/-- Major 0x09 (R269 to R275). -/
def decodeMajor09 (w : W32) : Option Instr :=
  if w.extractLsb' 5 3 = 0#3 then
    some (.ffma (w.extractLsb' 20 6) (w.extractLsb' 14 6) (w.extractLsb' 8 6) (w.extractLsb' 3 2) (w.extractLsb' 0 3))
  else if w.extractLsb' 5 3 = 1#3 then
    some (.ffmaSub (w.extractLsb' 20 6) (w.extractLsb' 14 6) (w.extractLsb' 8 6) (w.extractLsb' 3 2) (w.extractLsb' 0 3))
  else if w.extractLsb' 5 3 = 2#3 then
    some (.ffmaNeg (w.extractLsb' 20 6) (w.extractLsb' 14 6) (w.extractLsb' 8 6) (w.extractLsb' 3 2) (w.extractLsb' 0 3))
  else none

/-- Major 0x0A (R269 to R275). -/
def decodeMajor0A (w : W32) : Option Instr :=
  some (.fcmp (w.extractLsb' 23 3) (w.extractLsb' 20 3) (w.extractLsb' 14 6) (w.extractLsb' 8 6) (w.extractLsb' 6 2) (w.extractLsb' 3 3) (w.extractLsb' 0 3))

/-- Major 0x0B (R269 to R275). -/
def decodeMajor0B (w : W32) : Option Instr :=
  if w.extractLsb' 3 1 = 0#1 then
    some (.fdiv (w.extractLsb' 20 6) (w.extractLsb' 14 6) (w.extractLsb' 8 6) (w.extractLsb' 4 4) (w.extractLsb' 0 3))
  else none

/-- Major 0x0C (R269 to R275). -/
def decodeMajor0C (w : W32) : Option Instr :=
  if w.extractLsb' 3 1 = 0#1 ∧ w.extractLsb' 8 6 = 0#6 then
    some (.fsqrt (w.extractLsb' 20 6) (w.extractLsb' 14 6) (w.extractLsb' 4 4) (w.extractLsb' 0 3))
  else if w.extractLsb' 3 1 = 0#1 ∧ w.extractLsb' 8 6 = 1#6 then
    some (.frcp (w.extractLsb' 20 6) (w.extractLsb' 14 6) (w.extractLsb' 4 4) (w.extractLsb' 0 3))
  else if w.extractLsb' 3 1 = 0#1 ∧ w.extractLsb' 8 6 = 2#6 then
    some (.frsq (w.extractLsb' 20 6) (w.extractLsb' 14 6) (w.extractLsb' 4 4) (w.extractLsb' 0 3))
  else if w.extractLsb' 3 1 = 0#1 ∧ w.extractLsb' 8 6 = 3#6 then
    some (.fsinp (w.extractLsb' 20 6) (w.extractLsb' 14 6) (w.extractLsb' 4 4) (w.extractLsb' 0 3))
  else if w.extractLsb' 3 1 = 0#1 ∧ w.extractLsb' 8 6 = 4#6 then
    some (.fcosp (w.extractLsb' 20 6) (w.extractLsb' 14 6) (w.extractLsb' 4 4) (w.extractLsb' 0 3))
  else if w.extractLsb' 3 1 = 0#1 ∧ w.extractLsb' 8 6 = 5#6 then
    some (.fex2 (w.extractLsb' 20 6) (w.extractLsb' 14 6) (w.extractLsb' 4 4) (w.extractLsb' 0 3))
  else if w.extractLsb' 3 1 = 0#1 ∧ w.extractLsb' 8 6 = 6#6 then
    some (.flg2 (w.extractLsb' 20 6) (w.extractLsb' 14 6) (w.extractLsb' 4 4) (w.extractLsb' 0 3))
  else none

/-- Major 0x0D (R269 to R275). -/
def decodeMajor0D (w : W32) : Option Instr :=
  if w.extractLsb' 3 11 = 2#11 then
    some (.unpkBf16Lo (w.extractLsb' 20 6) (w.extractLsb' 14 6) (w.extractLsb' 0 3))
  else if w.extractLsb' 3 11 = 3#11 then
    some (.unpkBf16Hi (w.extractLsb' 20 6) (w.extractLsb' 14 6) (w.extractLsb' 0 3))
  else if w.extractLsb' 3 11 = 4#11 then
    some (.unpkF16Lo (w.extractLsb' 20 6) (w.extractLsb' 14 6) (w.extractLsb' 0 3))
  else if w.extractLsb' 3 11 = 5#11 then
    some (.unpkF16Hi (w.extractLsb' 20 6) (w.extractLsb' 14 6) (w.extractLsb' 0 3))
  else if w.extractLsb' 3 5 = 0#5 then
    some (.packBf16 (w.extractLsb' 20 6) (w.extractLsb' 14 6) (w.extractLsb' 8 6) (w.extractLsb' 0 3))
  else if w.extractLsb' 3 5 = 1#5 then
    some (.packF16 (w.extractLsb' 20 6) (w.extractLsb' 14 6) (w.extractLsb' 8 6) (w.extractLsb' 0 3))
  else none

/-- Major 0x0E (R269 to R275). -/
def decodeMajor0E (w : W32) : Option Instr :=
  some (.hcvt (w.extractLsb' 23 3) (w.extractLsb' 21 2) (w.extractLsb' 16 5) (w.extractLsb' 11 5) (w.extractLsb' 8 3) (w.extractLsb' 4 4) (w.extractLsb' 3 1) (w.extractLsb' 0 3))

/-- Major 0x0F (R269 to R275). -/
def decodeMajor0F (w : W32) : Option Instr :=
  some (.cvt (w.extractLsb' 20 6) (w.extractLsb' 14 6) (w.extractLsb' 10 4) (w.extractLsb' 6 4) (w.extractLsb' 3 3) (w.extractLsb' 0 3))

/-- Major 0x10 (R269 to R275). -/
def decodeMajor10 (w : W32) : Option Instr :=
  some (.addImm (w.extractLsb' 20 6) (w.extractLsb' 14 6) (w.extractLsb' 3 11) (w.extractLsb' 0 3))

/-- Major 0x11 (R269 to R275). -/
def decodeMajor11 (w : W32) : Option Instr :=
  some (.andImm (w.extractLsb' 20 6) (w.extractLsb' 14 6) (w.extractLsb' 3 11) (w.extractLsb' 0 3))

/-- Major 0x12 (R269 to R275). -/
def decodeMajor12 (w : W32) : Option Instr :=
  some (.orImm (w.extractLsb' 20 6) (w.extractLsb' 14 6) (w.extractLsb' 3 11) (w.extractLsb' 0 3))

/-- Major 0x13 (R269 to R275). -/
def decodeMajor13 (w : W32) : Option Instr :=
  some (.xorImm (w.extractLsb' 20 6) (w.extractLsb' 14 6) (w.extractLsb' 3 11) (w.extractLsb' 0 3))

/-- Major 0x14 (R269 to R275). -/
def decodeMajor14 (w : W32) : Option Instr :=
  if w.extractLsb' 8 6 = 0#6 then
    some (.shlImm (w.extractLsb' 20 6) (w.extractLsb' 14 6) (w.extractLsb' 3 5) (w.extractLsb' 0 3))
  else if w.extractLsb' 8 6 = 1#6 then
    some (.shrImm (w.extractLsb' 20 6) (w.extractLsb' 14 6) (w.extractLsb' 3 5) (w.extractLsb' 0 3))
  else if w.extractLsb' 8 6 = 2#6 then
    some (.sraImm (w.extractLsb' 20 6) (w.extractLsb' 14 6) (w.extractLsb' 3 5) (w.extractLsb' 0 3))
  else if w.extractLsb' 8 6 = 3#6 then
    some (.rotImm (w.extractLsb' 20 6) (w.extractLsb' 14 6) (w.extractLsb' 3 5) (w.extractLsb' 0 3))
  else none

/-- Major 0x15 (R269 to R275). -/
def decodeMajor15 (w : W32) : Option Instr :=
  some (.cmpImm (w.extractLsb' 23 3) (w.extractLsb' 20 3) (w.extractLsb' 14 6) (w.extractLsb' 11 3) (w.extractLsb' 10 1) (w.extractLsb' 3 7) (w.extractLsb' 0 3))

/-- Major 0x16 (R269 to R275). -/
def decodeMajor16 (w : W32) : Option Instr :=
  if w.extractLsb' 3 1 = 0#1 then
    some (.movi (w.extractLsb' 20 6) (w.extractLsb' 4 16) (w.extractLsb' 0 3))
  else if w.extractLsb' 3 1 = 1#1 then
    some (.moviHi (w.extractLsb' 20 6) (w.extractLsb' 4 16) (w.extractLsb' 0 3))
  else none

/-- Major 0x18 (R269 to R275). -/
def decodeMajor18 (w : W32) : Option Instr :=
  if w.extractLsb' 0 14 = 95#14 then
    some (.absK (w.extractLsb' 20 6) (w.extractLsb' 14 6))
  else if w.extractLsb' 0 14 = 103#14 then
    some (.negK (w.extractLsb' 20 6) (w.extractLsb' 14 6))
  else if w.extractLsb' 0 14 = 111#14 then
    some (.popcK (w.extractLsb' 20 6) (w.extractLsb' 14 6))
  else if w.extractLsb' 0 14 = 119#14 then
    some (.clzK (w.extractLsb' 20 6) (w.extractLsb' 14 6))
  else if w.extractLsb' 0 14 = 127#14 then
    some (.ctzK (w.extractLsb' 20 6) (w.extractLsb' 14 6))
  else if w.extractLsb' 0 14 = 135#14 then
    some (.brevK (w.extractLsb' 20 6) (w.extractLsb' 14 6))
  else if w.extractLsb' 0 14 = 143#14 then
    some (.movK (w.extractLsb' 20 6) (w.extractLsb' 14 6))
  else if w.extractLsb' 0 8 = 7#8 then
    some (.addK (w.extractLsb' 20 6) (w.extractLsb' 14 6) (w.extractLsb' 8 6))
  else if w.extractLsb' 0 8 = 23#8 then
    some (.subK (w.extractLsb' 20 6) (w.extractLsb' 14 6) (w.extractLsb' 8 6))
  else if w.extractLsb' 0 8 = 39#8 then
    some (.mulK (w.extractLsb' 20 6) (w.extractLsb' 14 6) (w.extractLsb' 8 6))
  else if w.extractLsb' 0 8 = 47#8 then
    some (.mulhSK (w.extractLsb' 20 6) (w.extractLsb' 14 6) (w.extractLsb' 8 6))
  else if w.extractLsb' 0 8 = 55#8 then
    some (.mulhUK (w.extractLsb' 20 6) (w.extractLsb' 14 6) (w.extractLsb' 8 6))
  else if w.extractLsb' 0 8 = 63#8 then
    some (.minSK (w.extractLsb' 20 6) (w.extractLsb' 14 6) (w.extractLsb' 8 6))
  else if w.extractLsb' 0 8 = 71#8 then
    some (.minUK (w.extractLsb' 20 6) (w.extractLsb' 14 6) (w.extractLsb' 8 6))
  else if w.extractLsb' 0 8 = 79#8 then
    some (.maxSK (w.extractLsb' 20 6) (w.extractLsb' 14 6) (w.extractLsb' 8 6))
  else if w.extractLsb' 0 8 = 87#8 then
    some (.maxUK (w.extractLsb' 20 6) (w.extractLsb' 14 6) (w.extractLsb' 8 6))
  else none

/-- Major 0x19 (R269 to R275). -/
def decodeMajor19 (w : W32) : Option Instr :=
  if w.extractLsb' 0 14 = 39#14 then
    some (.notK (w.extractLsb' 20 6) (w.extractLsb' 14 6))
  else if w.extractLsb' 0 8 = 7#8 then
    some (.andK (w.extractLsb' 20 6) (w.extractLsb' 14 6) (w.extractLsb' 8 6))
  else if w.extractLsb' 0 8 = 15#8 then
    some (.andnK (w.extractLsb' 20 6) (w.extractLsb' 14 6) (w.extractLsb' 8 6))
  else if w.extractLsb' 0 8 = 23#8 then
    some (.orK (w.extractLsb' 20 6) (w.extractLsb' 14 6) (w.extractLsb' 8 6))
  else if w.extractLsb' 0 8 = 31#8 then
    some (.xorK (w.extractLsb' 20 6) (w.extractLsb' 14 6) (w.extractLsb' 8 6))
  else if w.extractLsb' 0 8 = 47#8 then
    some (.shlK (w.extractLsb' 20 6) (w.extractLsb' 14 6) (w.extractLsb' 8 6))
  else if w.extractLsb' 0 8 = 55#8 then
    some (.shrK (w.extractLsb' 20 6) (w.extractLsb' 14 6) (w.extractLsb' 8 6))
  else if w.extractLsb' 0 8 = 63#8 then
    some (.sraK (w.extractLsb' 20 6) (w.extractLsb' 14 6) (w.extractLsb' 8 6))
  else if w.extractLsb' 0 8 = 71#8 then
    some (.rotK (w.extractLsb' 20 6) (w.extractLsb' 14 6) (w.extractLsb' 8 6))
  else if w.extractLsb' 0 8 = 79#8 then
    some (.bfxUK (w.extractLsb' 20 6) (w.extractLsb' 14 6) (w.extractLsb' 8 6))
  else if w.extractLsb' 0 8 = 87#8 then
    some (.bfxSK (w.extractLsb' 20 6) (w.extractLsb' 14 6) (w.extractLsb' 8 6))
  else none

/-- Major 0x1A (R269 to R275). -/
def decodeMajor1A (w : W32) : Option Instr :=
  if w.extractLsb' 0 3 = 7#3 then
    some (.addKImm (w.extractLsb' 20 6) (w.extractLsb' 14 6) (w.extractLsb' 3 11))
  else none

/-- Major 0x1B (R269 to R275). -/
def decodeMajor1B (w : W32) : Option Instr :=
  if w.extractLsb' 0 2 = 0#2 then
    some (.moviK (w.extractLsb' 20 6) (w.extractLsb' 4 16) (w.extractLsb' 2 2))
  else none

/-- Major 0x1C (R269 to R275). -/
def decodeMajor1C (w : W32) : Option Instr :=
  if w.extractLsb' 0 3 = 7#3 ∧ w.extractLsb' 7 1 = 0#1 then
    some (.cmpK (w.extractLsb' 20 6) (w.extractLsb' 14 6) (w.extractLsb' 8 6) (w.extractLsb' 6 1) (w.extractLsb' 3 3))
  else none

/-- Major 0x20 (R269 to R275). -/
def decodeMajor20 (w : W32) : Option Instr :=
  some (.ld (w.extractLsb' 20 6) (w.extractLsb' 15 5) (w.extractLsb' 10 5) (w.extractLsb' 7 3) (w.extractLsb' 3 4) (w.extractLsb' 0 3))

/-- Major 0x21 (R269 to R275). -/
def decodeMajor21 (w : W32) : Option Instr :=
  if w.extractLsb' 8 2 = 0#2 then
    some (.ldS (w.extractLsb' 20 6) (w.extractLsb' 15 5) (w.extractLsb' 10 5) (w.extractLsb' 7 1) (w.extractLsb' 3 4) (w.extractLsb' 0 3))
  else none

/-- Major 0x22 (R269 to R275). -/
def decodeMajor22 (w : W32) : Option Instr :=
  some (.st (w.extractLsb' 20 6) (w.extractLsb' 15 5) (w.extractLsb' 10 5) (w.extractLsb' 7 3) (w.extractLsb' 3 4) (w.extractLsb' 0 3))

/-- Major 0x23 (R269 to R275). -/
def decodeMajor23 (w : W32) : Option Instr :=
  if w.extractLsb' 0 3 = 7#3 then
    some (.ldk (w.extractLsb' 20 6) (w.extractLsb' 15 5) (w.extractLsb' 10 5) (w.extractLsb' 7 3) (w.extractLsb' 3 4))
  else none

/-- Major 0x24 (R269 to R275). -/
def decodeMajor24 (w : W32) : Option Instr :=
  if w.extractLsb' 0 3 = 7#3 then
    some (.stk (w.extractLsb' 20 6) (w.extractLsb' 15 5) (w.extractLsb' 10 5) (w.extractLsb' 7 3) (w.extractLsb' 3 4))
  else none

/-- Major 0x25 (R269 to R275). -/
def decodeMajor25 (w : W32) : Option Instr :=
  if w.extractLsb' 7 3 = 0#3 then
    some (.atomAdd (w.extractLsb' 20 6) (w.extractLsb' 15 5) (w.extractLsb' 10 5) (w.extractLsb' 3 4) (w.extractLsb' 0 3))
  else if w.extractLsb' 7 3 = 1#3 then
    some (.atomAnd (w.extractLsb' 20 6) (w.extractLsb' 15 5) (w.extractLsb' 10 5) (w.extractLsb' 3 4) (w.extractLsb' 0 3))
  else if w.extractLsb' 7 3 = 2#3 then
    some (.atomOr (w.extractLsb' 20 6) (w.extractLsb' 15 5) (w.extractLsb' 10 5) (w.extractLsb' 3 4) (w.extractLsb' 0 3))
  else if w.extractLsb' 7 3 = 3#3 then
    some (.atomXor (w.extractLsb' 20 6) (w.extractLsb' 15 5) (w.extractLsb' 10 5) (w.extractLsb' 3 4) (w.extractLsb' 0 3))
  else if w.extractLsb' 7 3 = 4#3 then
    some (.atomMinS (w.extractLsb' 20 6) (w.extractLsb' 15 5) (w.extractLsb' 10 5) (w.extractLsb' 3 4) (w.extractLsb' 0 3))
  else if w.extractLsb' 7 3 = 5#3 then
    some (.atomMaxS (w.extractLsb' 20 6) (w.extractLsb' 15 5) (w.extractLsb' 10 5) (w.extractLsb' 3 4) (w.extractLsb' 0 3))
  else if w.extractLsb' 7 3 = 6#3 then
    some (.atomMinU (w.extractLsb' 20 6) (w.extractLsb' 15 5) (w.extractLsb' 10 5) (w.extractLsb' 3 4) (w.extractLsb' 0 3))
  else if w.extractLsb' 7 3 = 7#3 then
    some (.atomMaxU (w.extractLsb' 20 6) (w.extractLsb' 15 5) (w.extractLsb' 10 5) (w.extractLsb' 3 4) (w.extractLsb' 0 3))
  else none

/-- Major 0x26 (R269 to R275). -/
def decodeMajor26 (w : W32) : Option Instr :=
  if w.extractLsb' 7 3 = 0#3 then
    some (.atomExch32 (w.extractLsb' 20 6) (w.extractLsb' 15 5) (w.extractLsb' 10 5) (w.extractLsb' 3 4) (w.extractLsb' 0 3))
  else if w.extractLsb' 7 3 = 1#3 then
    some (.atomCas32 (w.extractLsb' 20 6) (w.extractLsb' 15 5) (w.extractLsb' 10 5) (w.extractLsb' 3 4) (w.extractLsb' 0 3))
  else if w.extractLsb' 7 3 = 2#3 then
    some (.atomAdd64 (w.extractLsb' 20 6) (w.extractLsb' 15 5) (w.extractLsb' 10 5) (w.extractLsb' 3 4) (w.extractLsb' 0 3))
  else if w.extractLsb' 7 3 = 3#3 then
    some (.atomExch64 (w.extractLsb' 20 6) (w.extractLsb' 15 5) (w.extractLsb' 10 5) (w.extractLsb' 3 4) (w.extractLsb' 0 3))
  else if w.extractLsb' 7 3 = 4#3 then
    some (.atomCas64 (w.extractLsb' 20 6) (w.extractLsb' 15 5) (w.extractLsb' 10 5) (w.extractLsb' 3 4) (w.extractLsb' 0 3))
  else if w.extractLsb' 7 3 = 5#3 then
    some (.atomFaddF32 (w.extractLsb' 20 6) (w.extractLsb' 15 5) (w.extractLsb' 10 5) (w.extractLsb' 3 4) (w.extractLsb' 0 3))
  else if w.extractLsb' 7 3 = 6#3 then
    some (.atomFaddBf16x2 (w.extractLsb' 20 6) (w.extractLsb' 15 5) (w.extractLsb' 10 5) (w.extractLsb' 3 4) (w.extractLsb' 0 3))
  else none

/-- Major 0x27 (R269 to R275). -/
def decodeMajor27 (w : W32) : Option Instr :=
  if w.extractLsb' 0 21 = 0#21 then
    some (.fence (w.extractLsb' 23 3) (w.extractLsb' 21 2))
  else none

/-- Major 0x28 (R269 to R275). -/
def decodeMajor28 (w : W32) : Option Instr :=
  if w.extractLsb' 0 3 = 0#3 ∧ w.extractLsb' 7 3 = 0#3 then
    some (.cpyG2s (w.extractLsb' 21 5) (w.extractLsb' 16 5) (w.extractLsb' 12 4) (w.extractLsb' 11 1) (w.extractLsb' 10 1) (w.extractLsb' 3 4))
  else if w.extractLsb' 0 3 = 0#3 ∧ w.extractLsb' 7 3 = 1#3 then
    some (.cpyS2g (w.extractLsb' 21 5) (w.extractLsb' 16 5) (w.extractLsb' 12 4) (w.extractLsb' 11 1) (w.extractLsb' 10 1) (w.extractLsb' 3 4))
  else if w.extractLsb' 0 3 = 0#3 ∧ w.extractLsb' 7 3 = 2#3 then
    some (.cpytG2s (w.extractLsb' 21 5) (w.extractLsb' 16 5) (w.extractLsb' 12 4) (w.extractLsb' 11 1) (w.extractLsb' 10 1) (w.extractLsb' 3 4))
  else if w.extractLsb' 0 3 = 0#3 ∧ w.extractLsb' 7 3 = 3#3 then
    some (.cpytS2g (w.extractLsb' 21 5) (w.extractLsb' 16 5) (w.extractLsb' 12 4) (w.extractLsb' 11 1) (w.extractLsb' 10 1) (w.extractLsb' 3 4))
  else if w.extractLsb' 7 3 = 4#3 then
    some (.cpym (w.extractLsb' 21 5) (w.extractLsb' 16 5) (w.extractLsb' 12 4) (w.extractLsb' 11 1) (w.extractLsb' 10 1) (w.extractLsb' 3 4) (w.extractLsb' 0 3))
  else none

/-- Major 0x29 (R269 to R275). -/
def decodeMajor29 (w : W32) : Option Instr :=
  if w.extractLsb' 0 3 = 0#3 ∧ w.extractLsb' 7 5 = 1#5 ∧ w.extractLsb' 16 10 = 0#10 then
    some (.barv (w.extractLsb' 12 4) (w.extractLsb' 3 4))
  else if w.extractLsb' 0 3 = 0#3 ∧ w.extractLsb' 7 5 = 0#5 ∧ w.extractLsb' 16 5 = 0#5 then
    some (.bini (w.extractLsb' 21 5) (w.extractLsb' 12 4) (w.extractLsb' 3 4))
  else if w.extractLsb' 0 3 = 0#3 ∧ w.extractLsb' 7 5 = 2#5 ∧ w.extractLsb' 16 5 = 0#5 then
    some (.bexp (w.extractLsb' 21 5) (w.extractLsb' 12 4) (w.extractLsb' 3 4))
  else if w.extractLsb' 0 3 = 0#3 ∧ w.extractLsb' 7 5 = 3#5 ∧ w.extractLsb' 16 5 = 0#5 then
    some (.btst (w.extractLsb' 21 5) (w.extractLsb' 12 4) (w.extractLsb' 3 4))
  else if w.extractLsb' 0 3 = 0#3 ∧ w.extractLsb' 7 5 = 4#5 ∧ w.extractLsb' 16 5 = 0#5 then
    some (.bwait (w.extractLsb' 21 5) (w.extractLsb' 12 4) (w.extractLsb' 3 4))
  else none

/-- Major 0x2A (R269 to R275). -/
def decodeMajor2A (w : W32) : Option Instr :=
  if w.extractLsb' 7 5 = 0#5 ∧ w.extractLsb' 16 5 = 0#5 then
    some (.clstAg (w.extractLsb' 21 5) (w.extractLsb' 12 4) (w.extractLsb' 3 4) (w.extractLsb' 0 3))
  else if w.extractLsb' 7 5 = 1#5 ∧ w.extractLsb' 16 5 = 0#5 then
    some (.clstRs (w.extractLsb' 21 5) (w.extractLsb' 12 4) (w.extractLsb' 3 4) (w.extractLsb' 0 3))
  else if w.extractLsb' 7 5 = 2#5 ∧ w.extractLsb' 16 5 = 0#5 then
    some (.clstAr (w.extractLsb' 21 5) (w.extractLsb' 12 4) (w.extractLsb' 3 4) (w.extractLsb' 0 3))
  else if w.extractLsb' 7 5 = 3#5 ∧ w.extractLsb' 16 5 = 0#5 then
    some (.clstBc (w.extractLsb' 21 5) (w.extractLsb' 12 4) (w.extractLsb' 3 4) (w.extractLsb' 0 3))
  else none

/-- Major 0x2B (R269 to R275). -/
def decodeMajor2B (w : W32) : Option Instr :=
  if w.extractLsb' 0 3 = 0#3 ∧ w.extractLsb' 7 19 = 1#19 then
    some (.rfnc (w.extractLsb' 3 4))
  else if w.extractLsb' 0 3 = 0#3 ∧ w.extractLsb' 7 14 = 0#14 then
    some (.evpst (w.extractLsb' 21 5) (w.extractLsb' 3 4))
  else if w.extractLsb' 0 3 = 0#3 ∧ w.extractLsb' 7 14 = 2#14 then
    some (.audm (w.extractLsb' 21 5) (w.extractLsb' 3 4))
  else if w.extractLsb' 0 3 = 0#3 ∧ w.extractLsb' 7 14 = 3#14 then
    some (.digr (w.extractLsb' 21 5) (w.extractLsb' 3 4))
  else none

/-- Major 0x2C (R269 to R275). -/
def decodeMajor2C (w : W32) : Option Instr :=
  if w.extractLsb' 0 3 = 0#3 ∧ w.extractLsb' 7 14 = 1#14 then
    some (.sacc (w.extractLsb' 21 5) (w.extractLsb' 3 4))
  else if w.extractLsb' 7 14 = 2#14 then
    some (.srej (w.extractLsb' 21 5) (w.extractLsb' 3 4) (w.extractLsb' 0 3))
  else if w.extractLsb' 0 3 = 0#3 ∧ w.extractLsb' 7 9 = 0#9 then
    some (.snap (w.extractLsb' 21 5) (w.extractLsb' 16 5) (w.extractLsb' 3 4))
  else if w.extractLsb' 0 3 = 0#3 ∧ w.extractLsb' 7 9 = 3#9 then
    some (.sqry (w.extractLsb' 21 5) (w.extractLsb' 16 5) (w.extractLsb' 3 4))
  else none

/-- Major 0x2D (R269 to R275). -/
def decodeMajor2D (w : W32) : Option Instr :=
  if w.extractLsb' 0 3 = 0#3 ∧ w.extractLsb' 7 14 = 3#14 then
    some (.hfls (w.extractLsb' 21 5) (w.extractLsb' 3 4))
  else if w.extractLsb' 0 3 = 0#3 ∧ w.extractLsb' 7 9 = 0#9 then
    some (.hgiv (w.extractLsb' 21 5) (w.extractLsb' 16 5) (w.extractLsb' 3 4))
  else if w.extractLsb' 0 3 = 0#3 ∧ w.extractLsb' 7 9 = 1#9 then
    some (.htak (w.extractLsb' 21 5) (w.extractLsb' 16 5) (w.extractLsb' 3 4))
  else if w.extractLsb' 0 3 = 0#3 ∧ w.extractLsb' 7 9 = 2#9 then
    some (.hmap (w.extractLsb' 21 5) (w.extractLsb' 16 5) (w.extractLsb' 3 4))
  else none

/-- Major 0x2E (R269 to R275). -/
def decodeMajor2E (w : W32) : Option Instr :=
  if w.extractLsb' 0 3 = 0#3 ∧ w.extractLsb' 7 9 = 0#9 then
    some (.lnch (w.extractLsb' 21 5) (w.extractLsb' 16 5) (w.extractLsb' 3 4))
  else if w.extractLsb' 0 3 = 0#3 ∧ w.extractLsb' 7 9 = 1#9 then
    some (.evpop (w.extractLsb' 21 5) (w.extractLsb' 16 5) (w.extractLsb' 3 4))
  else if w.extractLsb' 0 3 = 0#3 ∧ w.extractLsb' 7 9 = 2#9 then
    some (.trel (w.extractLsb' 21 5) (w.extractLsb' 16 5) (w.extractLsb' 3 4))
  else none

/-- Major 0x30 (R269 to R275). -/
def decodeMajor30 (w : W32) : Option Instr :=
  if w.extractLsb' 3 11 = 3#11 then
    some (.xchIdx (w.extractLsb' 20 6) (w.extractLsb' 14 6) (w.extractLsb' 0 3))
  else if w.extractLsb' 3 6 = 0#6 then
    some (.xchUp (w.extractLsb' 20 6) (w.extractLsb' 14 6) (w.extractLsb' 9 5) (w.extractLsb' 0 3))
  else if w.extractLsb' 3 6 = 1#6 then
    some (.xchDn (w.extractLsb' 20 6) (w.extractLsb' 14 6) (w.extractLsb' 9 5) (w.extractLsb' 0 3))
  else if w.extractLsb' 3 6 = 2#6 then
    some (.xchXor (w.extractLsb' 20 6) (w.extractLsb' 14 6) (w.extractLsb' 9 5) (w.extractLsb' 0 3))
  else if w.extractLsb' 3 6 = 4#6 then
    some (.xbc (w.extractLsb' 20 6) (w.extractLsb' 14 6) (w.extractLsb' 9 5) (w.extractLsb' 0 3))
  else none

/-- Major 0x31 (R269 to R275). -/
def decodeMajor31 (w : W32) : Option Instr :=
  if w.extractLsb' 3 11 = 17#11 ∧ w.extractLsb' 17 3 = 0#3 ∧ w.extractLsb' 23 3 = 0#3 then
    some (.voteAny (w.extractLsb' 20 3) (w.extractLsb' 14 3) (w.extractLsb' 0 3))
  else if w.extractLsb' 3 11 = 18#11 ∧ w.extractLsb' 17 3 = 0#3 ∧ w.extractLsb' 23 3 = 0#3 then
    some (.voteAll (w.extractLsb' 20 3) (w.extractLsb' 14 3) (w.extractLsb' 0 3))
  else if w.extractLsb' 3 11 = 16#11 ∧ w.extractLsb' 17 3 = 0#3 then
    some (.voteBallot (w.extractLsb' 20 6) (w.extractLsb' 14 3) (w.extractLsb' 0 3))
  else if w.extractLsb' 3 11 = 0#11 then
    some (.xredAddI32 (w.extractLsb' 20 6) (w.extractLsb' 14 6) (w.extractLsb' 0 3))
  else if w.extractLsb' 3 11 = 1#11 then
    some (.xredAddF32 (w.extractLsb' 20 6) (w.extractLsb' 14 6) (w.extractLsb' 0 3))
  else if w.extractLsb' 3 11 = 2#11 then
    some (.xredMinS (w.extractLsb' 20 6) (w.extractLsb' 14 6) (w.extractLsb' 0 3))
  else if w.extractLsb' 3 11 = 3#11 then
    some (.xredMaxS (w.extractLsb' 20 6) (w.extractLsb' 14 6) (w.extractLsb' 0 3))
  else if w.extractLsb' 3 11 = 4#11 then
    some (.xredMinF32 (w.extractLsb' 20 6) (w.extractLsb' 14 6) (w.extractLsb' 0 3))
  else if w.extractLsb' 3 11 = 5#11 then
    some (.xredMaxF32 (w.extractLsb' 20 6) (w.extractLsb' 14 6) (w.extractLsb' 0 3))
  else if w.extractLsb' 3 11 = 8#11 then
    some (.xscnAddI32 (w.extractLsb' 20 6) (w.extractLsb' 14 6) (w.extractLsb' 0 3))
  else if w.extractLsb' 3 11 = 9#11 then
    some (.xscnAddF32 (w.extractLsb' 20 6) (w.extractLsb' 14 6) (w.extractLsb' 0 3))
  else if w.extractLsb' 3 11 = 10#11 then
    some (.xscnMinS (w.extractLsb' 20 6) (w.extractLsb' 14 6) (w.extractLsb' 0 3))
  else if w.extractLsb' 3 11 = 11#11 then
    some (.xscnMaxS (w.extractLsb' 20 6) (w.extractLsb' 14 6) (w.extractLsb' 0 3))
  else if w.extractLsb' 3 11 = 12#11 then
    some (.xscnMinF32 (w.extractLsb' 20 6) (w.extractLsb' 14 6) (w.extractLsb' 0 3))
  else if w.extractLsb' 3 11 = 13#11 then
    some (.xscnMaxF32 (w.extractLsb' 20 6) (w.extractLsb' 14 6) (w.extractLsb' 0 3))
  else none

/-- Major 0x32 (R269 to R275). -/
def decodeMajor32 (w : W32) : Option Instr :=
  if w.extractLsb' 3 6 = 0#6 then
    some (.xshc (w.extractLsb' 20 6) (w.extractLsb' 14 6) (w.extractLsb' 9 5) (w.extractLsb' 0 3))
  else none

/-- Major 0x34 (R269 to R275). -/
def decodeMajor34 (w : W32) : Option Instr :=
  some (.bra (w.extractLsb' 21 5) (w.extractLsb' 19 2) (w.extractLsb' 0 19))

/-- Major 0x35 (R269 to R275). -/
def decodeMajor35 (w : W32) : Option Instr :=
  some (.brd (w.extractLsb' 23 3) (w.extractLsb' 22 1) (w.extractLsb' 0 22))

/-- Major 0x36 (R269 to R275). -/
def decodeMajor36 (w : W32) : Option Instr :=
  some (.call (w.extractLsb' 0 26))

/-- Major 0x37 (R269 to R275). -/
def decodeMajor37 (w : W32) : Option Instr :=
  if w.extractLsb' 3 17 = 0#17 then
    some (.calli (w.extractLsb' 20 6) (w.extractLsb' 0 3))
  else none

/-- Major 0x38 (R269 to R275). -/
def decodeMajor38 (w : W32) : Option Instr :=
  if w.extractLsb' 0 26 = 15#26 then
    some (.join)
  else if w.extractLsb' 3 23 = 2#23 then
    some (.exit (w.extractLsb' 0 3))
  else if w.extractLsb' 0 20 = 31#20 ∧ w.extractLsb' 24 2 = 0#2 then
    some (.maskAnd (w.extractLsb' 23 1) (w.extractLsb' 20 3))
  else if w.extractLsb' 0 20 = 31#20 ∧ w.extractLsb' 24 2 = 1#2 then
    some (.maskSet (w.extractLsb' 23 1) (w.extractLsb' 20 3))
  else if w.extractLsb' 0 14 = 7#14 ∧ w.extractLsb' 20 6 = 0#6 then
    some (.ret (w.extractLsb' 14 6))
  else none

/-- Major 0x39 (R269 to R275). -/
def decodeMajor39 (w : W32) : Option Instr :=
  some (.tld (w.extractLsb' 23 3) (w.extractLsb' 21 2) (w.extractLsb' 16 5) (w.extractLsb' 11 5) (w.extractLsb' 8 3) (w.extractLsb' 4 4) (w.extractLsb' 0 4))

/-- Major 0x3A (R269 to R275). -/
def decodeMajor3A (w : W32) : Option Instr :=
  some (.tst (w.extractLsb' 23 3) (w.extractLsb' 21 2) (w.extractLsb' 16 5) (w.extractLsb' 11 5) (w.extractLsb' 8 3) (w.extractLsb' 4 4) (w.extractLsb' 0 4))

/-- Major 0x3B (R269 to R275). -/
def decodeMajor3B (w : W32) : Option Instr :=
  if w.extractLsb' 0 4 = 1#4 ∧ w.extractLsb' 8 3 = 0#3 ∧ w.extractLsb' 21 5 = 0#5 then
    some (.azr (w.extractLsb' 16 5) (w.extractLsb' 11 5) (w.extractLsb' 4 4))
  else if w.extractLsb' 0 4 = 4#4 ∧ w.extractLsb' 8 3 = 0#3 then
    some (.asv (w.extractLsb' 21 5) (w.extractLsb' 16 5) (w.extractLsb' 11 5) (w.extractLsb' 4 4))
  else if w.extractLsb' 0 4 = 5#4 ∧ w.extractLsb' 8 3 = 0#3 then
    some (.ars (w.extractLsb' 21 5) (w.extractLsb' 16 5) (w.extractLsb' 11 5) (w.extractLsb' 4 4))
  else if w.extractLsb' 0 4 = 0#4 then
    some (.tzr (w.extractLsb' 23 3) (w.extractLsb' 21 2) (w.extractLsb' 16 5) (w.extractLsb' 11 5) (w.extractLsb' 8 3) (w.extractLsb' 4 4))
  else if w.extractLsb' 0 4 = 2#4 then
    some (.ard (w.extractLsb' 23 3) (w.extractLsb' 21 2) (w.extractLsb' 16 5) (w.extractLsb' 11 5) (w.extractLsb' 8 3) (w.extractLsb' 4 4))
  else if w.extractLsb' 0 4 = 3#4 then
    some (.awr (w.extractLsb' 23 3) (w.extractLsb' 21 2) (w.extractLsb' 16 5) (w.extractLsb' 11 5) (w.extractLsb' 8 3) (w.extractLsb' 4 4))
  else none

/-- Major 0x3C (R269 to R275). -/
def decodeMajor3C (w : W32) : Option Instr :=
  if w.extractLsb' 0 4 = 1#4 ∧ w.extractLsb' 8 18 = 0#18 then
    some (.plsw (w.extractLsb' 4 4))
  else if w.extractLsb' 0 4 = 0#4 ∧ w.extractLsb' 11 10 = 0#10 then
    some (.lstat (w.extractLsb' 23 3) (w.extractLsb' 21 2) (w.extractLsb' 8 3) (w.extractLsb' 4 4))
  else if w.extractLsb' 0 4 = 8#4 ∧ w.extractLsb' 11 10 = 0#10 then
    some (.lstatN32 (w.extractLsb' 23 3) (w.extractLsb' 21 2) (w.extractLsb' 8 3) (w.extractLsb' 4 4))
  else none

/-- Major 0x3D (R269 to R275). -/
def decodeMajor3D (w : W32) : Option Instr :=
  if w.extractLsb' 0 4 = 0#4 then
    some (.mstr (w.extractLsb' 23 3) (w.extractLsb' 21 2) (w.extractLsb' 16 5) (w.extractLsb' 11 5) (w.extractLsb' 8 3) (w.extractLsb' 4 4))
  else if w.extractLsb' 0 4 = 8#4 then
    some (.mstrN32 (w.extractLsb' 23 3) (w.extractLsb' 21 2) (w.extractLsb' 16 5) (w.extractLsb' 11 5) (w.extractLsb' 8 3) (w.extractLsb' 4 4))
  else none

/-- Major 0x3E (R269 to R275). -/
def decodeMajor3E (w : W32) : Option Instr :=
  if w.extractLsb' 4 22 = 2097152#22 then
    some (.hintAri (w.extractLsb' 3 1) (w.extractLsb' 0 3))
  else if w.extractLsb' 7 19 = 131072#19 then
    some (.hintMem (w.extractLsb' 5 2) (w.extractLsb' 3 2) (w.extractLsb' 0 3))
  else if w.extractLsb' 24 2 = 0#2 then
    some (.immx (w.extractLsb' 0 24))
  else none

/-- Major 0x3F (R269 to R275). -/
def decodeMajor3F (w : W32) : Option Instr :=
  if w.extractLsb' 0 26 = 23#26 then
    some (.trap)
  else if w.extractLsb' 0 26 = 55#26 then
    some (.rft)
  else if w.extractLsb' 0 15 = 527#15 ∧ w.extractLsb' 20 6 = 0#6 then
    some (.csrwExm (w.extractLsb' 15 5))
  else if w.extractLsb' 0 15 = 2063#15 ∧ w.extractLsb' 20 6 = 0#6 then
    some (.csrwStat (w.extractLsb' 15 5))
  else if w.extractLsb' 0 15 = 1039#15 ∧ w.extractLsb' 20 6 = 0#6 then
    some (.csrwAcown (w.extractLsb' 15 5))
  else if w.extractLsb' 0 15 = 8207#15 ∧ w.extractLsb' 20 6 = 0#6 then
    some (.csrwTvec (w.extractLsb' 15 5))
  else if w.extractLsb' 0 15 = 8719#15 ∧ w.extractLsb' 20 6 = 0#6 then
    some (.csrwWdg (w.extractLsb' 15 5))
  else if w.extractLsb' 0 15 = 9231#15 ∧ w.extractLsb' 20 6 = 0#6 then
    some (.csrwPrivb (w.extractLsb' 15 5))
  else if w.extractLsb' 0 15 = 87#15 ∧ w.extractLsb' 20 6 = 0#6 then
    some (.svc (w.extractLsb' 15 5))
  else if w.extractLsb' 0 15 = 119#15 ∧ w.extractLsb' 20 6 = 0#6 then
    some (.wait (w.extractLsb' 15 5))
  else if w.extractLsb' 0 20 = 151#20 then
    some (.nop (w.extractLsb' 20 6))
  else if w.extractLsb' 0 5 = 15#5 ∧ w.extractLsb' 20 6 = 0#6 then
    some (.csrw (w.extractLsb' 15 5) (w.extractLsb' 5 10))
  else if w.extractLsb' 3 2 = 0#2 ∧ w.extractLsb' 15 5 = 0#5 then
    some (.csrr (w.extractLsb' 20 6) (w.extractLsb' 5 10) (w.extractLsb' 0 3))
  else none

/-- The instruction a word names, by its major opcode (R260), or none: checks 1 to 3 of R276. -/
def decode (w : W32) : Option Instr :=
  match (w.extractLsb' 26 6).toNat with
  | 1 => decodeMajor01 w
  | 2 => decodeMajor02 w
  | 3 => decodeMajor03 w
  | 4 => decodeMajor04 w
  | 5 => decodeMajor05 w
  | 6 => decodeMajor06 w
  | 7 => decodeMajor07 w
  | 8 => decodeMajor08 w
  | 9 => decodeMajor09 w
  | 10 => decodeMajor0A w
  | 11 => decodeMajor0B w
  | 12 => decodeMajor0C w
  | 13 => decodeMajor0D w
  | 14 => decodeMajor0E w
  | 15 => decodeMajor0F w
  | 16 => decodeMajor10 w
  | 17 => decodeMajor11 w
  | 18 => decodeMajor12 w
  | 19 => decodeMajor13 w
  | 20 => decodeMajor14 w
  | 21 => decodeMajor15 w
  | 22 => decodeMajor16 w
  | 24 => decodeMajor18 w
  | 25 => decodeMajor19 w
  | 26 => decodeMajor1A w
  | 27 => decodeMajor1B w
  | 28 => decodeMajor1C w
  | 32 => decodeMajor20 w
  | 33 => decodeMajor21 w
  | 34 => decodeMajor22 w
  | 35 => decodeMajor23 w
  | 36 => decodeMajor24 w
  | 37 => decodeMajor25 w
  | 38 => decodeMajor26 w
  | 39 => decodeMajor27 w
  | 40 => decodeMajor28 w
  | 41 => decodeMajor29 w
  | 42 => decodeMajor2A w
  | 43 => decodeMajor2B w
  | 44 => decodeMajor2C w
  | 45 => decodeMajor2D w
  | 46 => decodeMajor2E w
  | 48 => decodeMajor30 w
  | 49 => decodeMajor31 w
  | 50 => decodeMajor32 w
  | 52 => decodeMajor34 w
  | 53 => decodeMajor35 w
  | 54 => decodeMajor36 w
  | 55 => decodeMajor37 w
  | 56 => decodeMajor38 w
  | 57 => decodeMajor39 w
  | 58 => decodeMajor3A w
  | 59 => decodeMajor3B w
  | 60 => decodeMajor3C w
  | 61 => decodeMajor3D w
  | 62 => decodeMajor3E w
  | 63 => decodeMajor3F w
  | _ => none

/-- The word stored little-endian in the first four bytes (R3, R260); a byte that is not there reads as zero. -/
def wordOfBytes : List Byte → W32
  | [] => 0#32
  | b :: bs =>
    (match bs with
      | [] => 0#24
      | c :: cs => (match cs with
        | [] => 0#16
        | d :: ds => (match ds with
          | [] => 0#8
          | e :: _ => e) ++ d) ++ c) ++ b

/-- The four bytes of a word, lowest address first (R3). -/
def bytesOfWord (w : W32) : List Byte :=
  [w.extractLsb' 0 8, w.extractLsb' 8 8, w.extractLsb' 16 8, w.extractLsb' 24 8]

/-- Decoding on any bytes: every instruction is one 32-bit word (R260). -/
def decodeBytes (bs : List Byte) : Option Instr := decode (wordOfBytes bs)

/-- The decoder's answer for an instruction numbered as spec/opcode_table.json numbers it: the bits above `nbits`
are zero, the word is laid out little-endian (R260) and decoded. -/
def decodeTableWord (nbits w : Nat) : Option Instr :=
  decodeBytes (bytesOfWord (BitVec.ofNat 32 (w % 2 ^ nbits)))

/-- The word of an instruction, field by field from bit 31 down (R263); an event has none. -/
def encode : Instr → Option W32
  | .add d a b g => some (1#6 ++ d ++ a ++ b ++ 0#5 ++ g)
  | .addc d a b g => some (1#6 ++ d ++ a ++ b ++ 1#5 ++ g)
  | .sub d a b g => some (1#6 ++ d ++ a ++ b ++ 2#5 ++ g)
  | .subb d a b g => some (1#6 ++ d ++ a ++ b ++ 3#5 ++ g)
  | .mul d a b g => some (1#6 ++ d ++ a ++ b ++ 4#5 ++ g)
  | .mulhS d a b g => some (1#6 ++ d ++ a ++ b ++ 5#5 ++ g)
  | .mulhU d a b g => some (1#6 ++ d ++ a ++ b ++ 6#5 ++ g)
  | .minS d a b g => some (1#6 ++ d ++ a ++ b ++ 7#5 ++ g)
  | .minU d a b g => some (1#6 ++ d ++ a ++ b ++ 8#5 ++ g)
  | .maxS d a b g => some (1#6 ++ d ++ a ++ b ++ 9#5 ++ g)
  | .maxU d a b g => some (1#6 ++ d ++ a ++ b ++ 10#5 ++ g)
  | .abs d a g => some (1#6 ++ d ++ a ++ 11#11 ++ g)
  | .neg d a g => some (1#6 ++ d ++ a ++ 12#11 ++ g)
  | .popc d a g => some (1#6 ++ d ++ a ++ 13#11 ++ g)
  | .clz d a g => some (1#6 ++ d ++ a ++ 14#11 ++ g)
  | .ctz d a g => some (1#6 ++ d ++ a ++ 15#11 ++ g)
  | .brev d a g => some (1#6 ++ d ++ a ++ 16#11 ++ g)
  | .mov d a g => some (1#6 ++ d ++ a ++ 17#11 ++ g)
  | .movVK d a g => some (1#6 ++ d ++ a ++ 18#11 ++ g)
  | .addK d a b => some (24#6 ++ d ++ a ++ b ++ 7#8)
  | .subK d a b => some (24#6 ++ d ++ a ++ b ++ 23#8)
  | .mulK d a b => some (24#6 ++ d ++ a ++ b ++ 39#8)
  | .mulhSK d a b => some (24#6 ++ d ++ a ++ b ++ 47#8)
  | .mulhUK d a b => some (24#6 ++ d ++ a ++ b ++ 55#8)
  | .minSK d a b => some (24#6 ++ d ++ a ++ b ++ 63#8)
  | .minUK d a b => some (24#6 ++ d ++ a ++ b ++ 71#8)
  | .maxSK d a b => some (24#6 ++ d ++ a ++ b ++ 79#8)
  | .maxUK d a b => some (24#6 ++ d ++ a ++ b ++ 87#8)
  | .absK d a => some (24#6 ++ d ++ a ++ 95#14)
  | .negK d a => some (24#6 ++ d ++ a ++ 103#14)
  | .popcK d a => some (24#6 ++ d ++ a ++ 111#14)
  | .clzK d a => some (24#6 ++ d ++ a ++ 119#14)
  | .ctzK d a => some (24#6 ++ d ++ a ++ 127#14)
  | .brevK d a => some (24#6 ++ d ++ a ++ 135#14)
  | .movK d a => some (24#6 ++ d ++ a ++ 143#14)
  | .and d a b g => some (2#6 ++ d ++ a ++ b ++ 0#5 ++ g)
  | .andn d a b g => some (2#6 ++ d ++ a ++ b ++ 1#5 ++ g)
  | .or d a b g => some (2#6 ++ d ++ a ++ b ++ 2#5 ++ g)
  | .xor d a b g => some (2#6 ++ d ++ a ++ b ++ 3#5 ++ g)
  | .not d a g => some (2#6 ++ d ++ a ++ 4#11 ++ g)
  | .shl d a b g => some (2#6 ++ d ++ a ++ b ++ 5#5 ++ g)
  | .shr d a b g => some (2#6 ++ d ++ a ++ b ++ 6#5 ++ g)
  | .sra d a b g => some (2#6 ++ d ++ a ++ b ++ 7#5 ++ g)
  | .rot d a b g => some (2#6 ++ d ++ a ++ b ++ 8#5 ++ g)
  | .bfxU d a b g => some (2#6 ++ d ++ a ++ b ++ 9#5 ++ g)
  | .bfxS d a b g => some (2#6 ++ d ++ a ++ b ++ 10#5 ++ g)
  | .andK d a b => some (25#6 ++ d ++ a ++ b ++ 7#8)
  | .andnK d a b => some (25#6 ++ d ++ a ++ b ++ 15#8)
  | .orK d a b => some (25#6 ++ d ++ a ++ b ++ 23#8)
  | .xorK d a b => some (25#6 ++ d ++ a ++ b ++ 31#8)
  | .notK d a => some (25#6 ++ d ++ a ++ 39#14)
  | .shlK d a b => some (25#6 ++ d ++ a ++ b ++ 47#8)
  | .shrK d a b => some (25#6 ++ d ++ a ++ b ++ 55#8)
  | .sraK d a b => some (25#6 ++ d ++ a ++ b ++ 63#8)
  | .rotK d a b => some (25#6 ++ d ++ a ++ b ++ 71#8)
  | .bfxUK d a b => some (25#6 ++ d ++ a ++ b ++ 79#8)
  | .bfxSK d a b => some (25#6 ++ d ++ a ++ b ++ 87#8)
  | .mad d a b g => some (3#6 ++ d ++ a ++ b ++ 0#5 ++ g)
  | .bfi d a b g => some (3#6 ++ d ++ a ++ b ++ 1#5 ++ g)
  | .lea0 d a b g => some (3#6 ++ d ++ a ++ b ++ 2#5 ++ g)
  | .lea1 d a b g => some (3#6 ++ d ++ a ++ b ++ 3#5 ++ g)
  | .lea2 d a b g => some (3#6 ++ d ++ a ++ b ++ 4#5 ++ g)
  | .lea3 d a b g => some (3#6 ++ d ++ a ++ b ++ 5#5 ++ g)
  | .cmp p m a b u k g => some (4#6 ++ p ++ m ++ a ++ b ++ 0#1 ++ u ++ k ++ g)
  | .sel d a b p g => some (5#6 ++ d ++ a ++ b ++ p ++ 0#2 ++ g)
  | .divU d a b l g => some (6#6 ++ d ++ a ++ b ++ l ++ 0#1 ++ g)
  | .remU d a b l g => some (6#6 ++ d ++ a ++ b ++ l ++ 1#1 ++ g)
  | .divS d a b l g => some (7#6 ++ d ++ a ++ b ++ l ++ 0#1 ++ g)
  | .remS d a b l g => some (7#6 ++ d ++ a ++ b ++ l ++ 1#1 ++ g)
  | .fadd d a b t g => some (8#6 ++ d ++ a ++ b ++ 0#3 ++ t ++ g)
  | .fsub d a b t g => some (8#6 ++ d ++ a ++ b ++ 1#3 ++ t ++ g)
  | .fmul d a b t g => some (8#6 ++ d ++ a ++ b ++ 2#3 ++ t ++ g)
  | .fmin d a b t g => some (8#6 ++ d ++ a ++ b ++ 3#3 ++ t ++ g)
  | .fmax d a b t g => some (8#6 ++ d ++ a ++ b ++ 4#3 ++ t ++ g)
  | .frnd d a t g => some (8#6 ++ d ++ a ++ 5#9 ++ t ++ g)
  | .ffma d a b t g => some (9#6 ++ d ++ a ++ b ++ 0#3 ++ t ++ g)
  | .ffmaSub d a b t g => some (9#6 ++ d ++ a ++ b ++ 1#3 ++ t ++ g)
  | .ffmaNeg d a b t g => some (9#6 ++ d ++ a ++ b ++ 2#3 ++ t ++ g)
  | .fcmp p m a b t k g => some (10#6 ++ p ++ m ++ a ++ b ++ t ++ k ++ g)
  | .fdiv d a b l g => some (11#6 ++ d ++ a ++ b ++ l ++ 0#1 ++ g)
  | .fsqrt d s l g => some (12#6 ++ d ++ s ++ 0#6 ++ l ++ 0#1 ++ g)
  | .frcp d s l g => some (12#6 ++ d ++ s ++ 1#6 ++ l ++ 0#1 ++ g)
  | .frsq d s l g => some (12#6 ++ d ++ s ++ 2#6 ++ l ++ 0#1 ++ g)
  | .fsinp d s l g => some (12#6 ++ d ++ s ++ 3#6 ++ l ++ 0#1 ++ g)
  | .fcosp d s l g => some (12#6 ++ d ++ s ++ 4#6 ++ l ++ 0#1 ++ g)
  | .fex2 d s l g => some (12#6 ++ d ++ s ++ 5#6 ++ l ++ 0#1 ++ g)
  | .flg2 d s l g => some (12#6 ++ d ++ s ++ 6#6 ++ l ++ 0#1 ++ g)
  | .packBf16 d a b g => some (13#6 ++ d ++ a ++ b ++ 0#5 ++ g)
  | .packF16 d a b g => some (13#6 ++ d ++ a ++ b ++ 1#5 ++ g)
  | .unpkBf16Lo d s g => some (13#6 ++ d ++ s ++ 2#11 ++ g)
  | .unpkBf16Hi d s g => some (13#6 ++ d ++ s ++ 3#11 ++ g)
  | .unpkF16Lo d s g => some (13#6 ++ d ++ s ++ 4#11 ++ g)
  | .unpkF16Hi d s g => some (13#6 ++ d ++ s ++ 5#11 ++ g)
  | .hcvt t s x i f l w n => some (14#6 ++ t ++ s ++ x ++ i ++ f ++ l ++ w ++ n)
  | .cvt d s f t r g => some (15#6 ++ d ++ s ++ f ++ t ++ r ++ g)
  | .addImm d a i g => some (16#6 ++ d ++ a ++ i ++ g)
  | .andImm d a i g => some (17#6 ++ d ++ a ++ i ++ g)
  | .orImm d a i g => some (18#6 ++ d ++ a ++ i ++ g)
  | .xorImm d a i g => some (19#6 ++ d ++ a ++ i ++ g)
  | .shlImm d a n g => some (20#6 ++ d ++ a ++ 0#6 ++ n ++ g)
  | .shrImm d a n g => some (20#6 ++ d ++ a ++ 1#6 ++ n ++ g)
  | .sraImm d a n g => some (20#6 ++ d ++ a ++ 2#6 ++ n ++ g)
  | .rotImm d a n g => some (20#6 ++ d ++ a ++ 3#6 ++ n ++ g)
  | .cmpImm p m a k u i g => some (21#6 ++ p ++ m ++ a ++ k ++ u ++ i ++ g)
  | .movi d i g => some (22#6 ++ d ++ i ++ 0#1 ++ g)
  | .moviHi d i g => some (22#6 ++ d ++ i ++ 1#1 ++ g)
  | .addKImm d a i => some (26#6 ++ d ++ a ++ i ++ 7#3)
  | .moviK d i q => some (27#6 ++ d ++ i ++ q ++ 0#2)
  | .cmpK d a b u k => some (28#6 ++ d ++ a ++ b ++ 0#1 ++ u ++ k ++ 7#3)
  | .ld d x k w l g => some (32#6 ++ d ++ x ++ k ++ w ++ l ++ g)
  | .ldS d x k w l g => some (33#6 ++ d ++ x ++ k ++ 0#2 ++ w ++ l ++ g)
  | .st d x k w l g => some (34#6 ++ d ++ x ++ k ++ w ++ l ++ g)
  | .ldk d x k w l => some (35#6 ++ d ++ x ++ k ++ w ++ l ++ 7#3)
  | .stk d x k w l => some (36#6 ++ d ++ x ++ k ++ w ++ l ++ 7#3)
  | .atomAdd d x k l g => some (37#6 ++ d ++ x ++ k ++ 0#3 ++ l ++ g)
  | .atomAnd d x k l g => some (37#6 ++ d ++ x ++ k ++ 1#3 ++ l ++ g)
  | .atomOr d x k l g => some (37#6 ++ d ++ x ++ k ++ 2#3 ++ l ++ g)
  | .atomXor d x k l g => some (37#6 ++ d ++ x ++ k ++ 3#3 ++ l ++ g)
  | .atomMinS d x k l g => some (37#6 ++ d ++ x ++ k ++ 4#3 ++ l ++ g)
  | .atomMaxS d x k l g => some (37#6 ++ d ++ x ++ k ++ 5#3 ++ l ++ g)
  | .atomMinU d x k l g => some (37#6 ++ d ++ x ++ k ++ 6#3 ++ l ++ g)
  | .atomMaxU d x k l g => some (37#6 ++ d ++ x ++ k ++ 7#3 ++ l ++ g)
  | .atomExch32 d x k l g => some (38#6 ++ d ++ x ++ k ++ 0#3 ++ l ++ g)
  | .atomCas32 d x k l g => some (38#6 ++ d ++ x ++ k ++ 1#3 ++ l ++ g)
  | .atomAdd64 d x k l g => some (38#6 ++ d ++ x ++ k ++ 2#3 ++ l ++ g)
  | .atomExch64 d x k l g => some (38#6 ++ d ++ x ++ k ++ 3#3 ++ l ++ g)
  | .atomCas64 d x k l g => some (38#6 ++ d ++ x ++ k ++ 4#3 ++ l ++ g)
  | .atomFaddF32 d x k l g => some (38#6 ++ d ++ x ++ k ++ 5#3 ++ l ++ g)
  | .atomFaddBf16x2 d x k l g => some (38#6 ++ d ++ x ++ k ++ 6#3 ++ l ++ g)
  | .fence s k => some (39#6 ++ s ++ k ++ 0#21)
  | .cpyG2s a b n v z l => some (40#6 ++ a ++ b ++ n ++ v ++ z ++ 0#3 ++ l ++ 0#3)
  | .cpyS2g a b n v z l => some (40#6 ++ a ++ b ++ n ++ v ++ z ++ 1#3 ++ l ++ 0#3)
  | .cpytG2s a b n v z l => some (40#6 ++ a ++ b ++ n ++ v ++ z ++ 2#3 ++ l ++ 0#3)
  | .cpytS2g a b n v z l => some (40#6 ++ a ++ b ++ n ++ v ++ z ++ 3#3 ++ l ++ 0#3)
  | .cpym a b n v z l t => some (40#6 ++ a ++ b ++ n ++ v ++ z ++ 4#3 ++ l ++ t)
  | .bini a n l => some (41#6 ++ a ++ 0#5 ++ n ++ 0#5 ++ l ++ 0#3)
  | .barv n l => some (41984#16 ++ n ++ 1#5 ++ l ++ 0#3)
  | .bexp a n l => some (41#6 ++ a ++ 0#5 ++ n ++ 2#5 ++ l ++ 0#3)
  | .btst a n l => some (41#6 ++ a ++ 0#5 ++ n ++ 3#5 ++ l ++ 0#3)
  | .bwait a n l => some (41#6 ++ a ++ 0#5 ++ n ++ 4#5 ++ l ++ 0#3)
  | .clstAg a n l f => some (42#6 ++ a ++ 0#5 ++ n ++ 0#5 ++ l ++ f)
  | .clstRs a n l f => some (42#6 ++ a ++ 0#5 ++ n ++ 1#5 ++ l ++ f)
  | .clstAr a n l f => some (42#6 ++ a ++ 0#5 ++ n ++ 2#5 ++ l ++ f)
  | .clstBc a n l f => some (42#6 ++ a ++ 0#5 ++ n ++ 3#5 ++ l ++ f)
  | .evpst a l => some (43#6 ++ a ++ 0#14 ++ l ++ 0#3)
  | .rfnc l => some (22544385#25 ++ l ++ 0#3)
  | .audm a l => some (43#6 ++ a ++ 2#14 ++ l ++ 0#3)
  | .digr a l => some (43#6 ++ a ++ 3#14 ++ l ++ 0#3)
  | .snap d a l => some (44#6 ++ d ++ a ++ 0#9 ++ l ++ 0#3)
  | .sacc h l => some (44#6 ++ h ++ 1#14 ++ l ++ 0#3)
  | .srej h l s => some (44#6 ++ h ++ 2#14 ++ l ++ s)
  | .sqry d h l => some (44#6 ++ d ++ h ++ 3#9 ++ l ++ 0#3)
  | .hgiv h p l => some (45#6 ++ h ++ p ++ 0#9 ++ l ++ 0#3)
  | .htak d h l => some (45#6 ++ d ++ h ++ 1#9 ++ l ++ 0#3)
  | .hmap d o l => some (45#6 ++ d ++ o ++ 2#9 ++ l ++ 0#3)
  | .hfls h l => some (45#6 ++ h ++ 3#14 ++ l ++ 0#3)
  | .lnch d b l => some (46#6 ++ d ++ b ++ 0#9 ++ l ++ 0#3)
  | .evpop d b l => some (46#6 ++ d ++ b ++ 1#9 ++ l ++ 0#3)
  | .trel d t l => some (46#6 ++ d ++ t ++ 2#9 ++ l ++ 0#3)
  | .xchUp d s k g => some (48#6 ++ d ++ s ++ k ++ 0#6 ++ g)
  | .xchDn d s k g => some (48#6 ++ d ++ s ++ k ++ 1#6 ++ g)
  | .xchXor d s k g => some (48#6 ++ d ++ s ++ k ++ 2#6 ++ g)
  | .xchIdx d s g => some (48#6 ++ d ++ s ++ 3#11 ++ g)
  | .xbc d s k g => some (48#6 ++ d ++ s ++ k ++ 4#6 ++ g)
  | .xredAddI32 d s g => some (49#6 ++ d ++ s ++ 0#11 ++ g)
  | .xredAddF32 d s g => some (49#6 ++ d ++ s ++ 1#11 ++ g)
  | .xredMinS d s g => some (49#6 ++ d ++ s ++ 2#11 ++ g)
  | .xredMaxS d s g => some (49#6 ++ d ++ s ++ 3#11 ++ g)
  | .xredMinF32 d s g => some (49#6 ++ d ++ s ++ 4#11 ++ g)
  | .xredMaxF32 d s g => some (49#6 ++ d ++ s ++ 5#11 ++ g)
  | .xscnAddI32 d s g => some (49#6 ++ d ++ s ++ 8#11 ++ g)
  | .xscnAddF32 d s g => some (49#6 ++ d ++ s ++ 9#11 ++ g)
  | .xscnMinS d s g => some (49#6 ++ d ++ s ++ 10#11 ++ g)
  | .xscnMaxS d s g => some (49#6 ++ d ++ s ++ 11#11 ++ g)
  | .xscnMinF32 d s g => some (49#6 ++ d ++ s ++ 12#11 ++ g)
  | .xscnMaxF32 d s g => some (49#6 ++ d ++ s ++ 13#11 ++ g)
  | .voteBallot d p g => some (49#6 ++ d ++ 0#3 ++ p ++ 16#11 ++ g)
  | .voteAny q p g => some (392#9 ++ q ++ 0#3 ++ p ++ 17#11 ++ g)
  | .voteAll q p g => some (392#9 ++ q ++ 0#3 ++ p ++ 18#11 ++ g)
  | .xshc d s k g => some (50#6 ++ d ++ s ++ k ++ 0#6 ++ g)
  | .bra k c o => some (52#6 ++ k ++ c ++ o)
  | .brd p n o => some (53#6 ++ p ++ n ++ o)
  | .call o => some (54#6 ++ o)
  | .calli s g => some (55#6 ++ s ++ 0#17 ++ g)
  | .ret s => some (3584#12 ++ s ++ 7#14)
  | .join => some (3758096399#32)
  | .exit g => some (469762050#29 ++ g)
  | .maskAnd n p => some (224#8 ++ n ++ p ++ 31#20)
  | .maskSet n p => some (225#8 ++ n ++ p ++ 31#20)
  | .tld t s x i f l k => some (57#6 ++ t ++ s ++ x ++ i ++ f ++ l ++ k)
  | .tst t s x i f l k => some (58#6 ++ t ++ s ++ x ++ i ++ f ++ l ++ k)
  | .tzr t s x i f l => some (59#6 ++ t ++ s ++ x ++ i ++ f ++ l ++ 0#4)
  | .azr x i l => some (1888#11 ++ x ++ i ++ 0#3 ++ l ++ 1#4)
  | .ard t h x i f l => some (59#6 ++ t ++ h ++ x ++ i ++ f ++ l ++ 2#4)
  | .awr t h x i f l => some (59#6 ++ t ++ h ++ x ++ i ++ f ++ l ++ 3#4)
  | .asv a x i l => some (59#6 ++ a ++ x ++ i ++ 0#3 ++ l ++ 4#4)
  | .ars a x i l => some (59#6 ++ a ++ x ++ i ++ 0#3 ++ l ++ 5#4)
  | .lstat t h f l => some (60#6 ++ t ++ h ++ 0#10 ++ f ++ l ++ 0#4)
  | .lstatN32 t h f l => some (60#6 ++ t ++ h ++ 0#10 ++ f ++ l ++ 8#4)
  | .plsw l => some (15728640#24 ++ l ++ 1#4)
  | .mstr t h x i f l => some (61#6 ++ t ++ h ++ x ++ i ++ f ++ l ++ 0#4)
  | .mstrN32 t h x i f l => some (61#6 ++ t ++ h ++ x ++ i ++ f ++ l ++ 8#4)
  | .immx p => some (248#8 ++ p)
  | .hintMem a o s => some (32636928#25 ++ a ++ o ++ s)
  | .hintAri t r => some (262144000#28 ++ t ++ r)
  | .csrr d c g => some (63#6 ++ d ++ 0#5 ++ c ++ 0#2 ++ g)
  | .csrw k c => some (4032#12 ++ k ++ c ++ 15#5)
  | .csrwExm k => some (4032#12 ++ k ++ 527#15)
  | .csrwStat k => some (4032#12 ++ k ++ 2063#15)
  | .csrwAcown k => some (4032#12 ++ k ++ 1039#15)
  | .csrwTvec k => some (4032#12 ++ k ++ 8207#15)
  | .csrwWdg k => some (4032#12 ++ k ++ 8719#15)
  | .csrwPrivb k => some (4032#12 ++ k ++ 9231#15)
  | .trap => some (4227858455#32)
  | .rft => some (4227858487#32)
  | .svc k => some (4032#12 ++ k ++ 87#15)
  | .wait k => some (4032#12 ++ k ++ 119#15)
  | .nop d => some (63#6 ++ d ++ 151#20)
  | .write _ => none
  | .read _ => none
  | .submit _ => none
  | .cancel _ => none
  | .retry _ => none
  | .cfgw _ => none
  | .cfgwWayMask _ => none
  | .cfgwTroot _ => none
  | .cfgwPartition _ => none
  | .cfgwHandlerDesc _ => none
  | .cfgwLeakyBucket _ => none
  | .cfgwPairctl _ => none
  | .cfgr _ => none
  | .pageUnmap _ _ => none
  | .pageProtect _ _ _ => none
  | .pageDiscard _ _ => none
  | .pageMigrate _ _ _ => none
  | .splinter => none
  | .pair _ => none
  | .unpair _ => none
  | .powerRun _ => none
  | .powerRunLow _ => none
  | .powerHold _ => none
  | .powerOff _ => none
  | .powerGate _ => none
  | .powerUngate _ => none
  | .repair _ _ _ => none
  | .attest _ => none
  | .unknownCommand _ _ => none
  | .ethernetIngressDrop _ => none
  | .bringUp _ _ _ => none
  | .thermalTrip => none
  | .linkDown _ _ => none
  | .linkRetrain _ _ _ _ => none
  | .linkLoss _ => none
  | .portStatusReport _ _ => none
  | .flitReceive _ _ _ => none
  | .pauseFlit _ _ => none
  | .resumeFlit _ _ => none
  | .remoteRequest _ _ => none
  | .collectiveContribution _ _ _ => none
  | .homeWriteGrant _ _ _ => none
  | .l2Fill _ _ _ => none
  | .correctedError _ => none
  | .classifierEntryExpiry _ _ => none
  | .leakyBucketLeak _ => none
  | .wayRemovalLine _ _ => none
  | .storeBufferDrain _ _ _ => none
  | .writeAck _ _ _ => none
  | .fenceMarkerAck _ _ _ => none
  | .loadReturn _ _ _ _ _ => none
  | .atomicResponse _ _ _ => none
  | .requestReturnExpiry _ _ _ _ => none
  | .longLatencyComplete _ _ _ => none
  | .translationWalk _ _ _ => none
  | .pageRevival _ _ => none
  | .linePull _ _ _ _ => none
  | .trapEntry _ _ => none
  | .splitReload _ _ => none
  | .waitExpiry _ _ _ => none
  | .clusterBarrierArrival _ _ => none
  | .clusterBarrierBroadcast _ _ => none
  | .barrierTimeout _ _ => none
  | .xshcTimeout _ _ _ => none
  | .streamerCommandStart _ => none
  | .streamerWrite _ _ => none
  | .streamerCommandComplete _ => none
  | .sequencerStart _ _ _ => none
  | .mstrChunkPass _ => none
  | .sequencerComplete _ => none
  | .snapshotCommandStart _ => none
  | .svcAnswer _ _ => none
  | .preemptRequest _ => none
  | .coreHalt _ => none
  | .contextSave _ => none
  | .contextResume _ _ => none
  | .dispatchSelection => none
  | .timeSliceExpiry _ => none
  | .leaseResolve _ => none
  | .taskRetire _ => none
  | .workgroupEnd _ => none
  | .completionRecordPost _ => none
  | .checkpointClose _ => none
  | .comparatorRequest _ _ => none
  | .comparatorTimeout _ _ => none
  | .auditReplay _ _ _ => none
  | .lehrExhaustion _ => none
  | .timeSyncMessage _ _ => none
  | .gateControlListAdvance _ => none

end Sys2Proof
end

