-- ==== Sys2Proof/Machine/Fp.lean ====
section
/-! DEFINITION. Number formats and rounding (spec/03_arithmetic.md R47 to R73). A number is an exact dyadic value;
every operation forms its exact result and one rounding ends it. -/

namespace Sys2Proof.Fp

/-- The value of a format's bits (DECODE of R66): NaN, an infinity, or `(-1)^neg × m × 2^e` exactly. -/
inductive Val where
  | nan
  | inf (neg : Bool)
  | fin (neg : Bool) (m : Nat) (e : Int)
  deriving DecidableEq, Repr

/-- A magnitude handed to a rounding: `m × 2^e`, or strictly between that and `(m + 1) × 2^e` when `sticky`. -/
structure Ext where
  neg : Bool
  m : Nat
  e : Int
  sticky : Bool
  deriving DecidableEq, Repr

/-- Rounding modes of R58 (codes 0 to 5). -/
inductive Mode where
  | rne | rz | ru | rd | rna | sr
  deriving DecidableEq, Repr

/-- The mode of a code below 6 (R58). -/
def Mode.ofCode (c : Nat) : Mode :=
  if c = 1 then .rz else if c = 2 then .ru else if c = 3 then .rd else if c = 4 then .rna else if c = 5 then .sr
  else .rne

/-- A rounding: mode, saturate bit (R59) and the 16 random bits `u` of R63. -/
structure Rnd where
  mode : Mode
  sat : Bool
  u : Nat
  deriving DecidableEq, Repr

/-- RNE with SAT 0 (R59, the last source). -/
def Rnd.rne : Rnd := ⟨.rne, false, 0⟩

/-- The element formats of R47 by code 0 to 11. -/
inductive Fmt where
  | f32 | f16 | bf16 | e4m3 | e5m2 | i8 | u8 | lg6 | i32 | u32 | i16 | acc80
  deriving DecidableEq, Repr

/-- Format codes of R47; none for the reserved 12 to 15. -/
def Fmt.ofCode : Nat → Option Fmt
  | 0 => some .f32 | 1 => some .f16 | 2 => some .bf16 | 3 => some .e4m3 | 4 => some .e5m2 | 5 => some .i8
  | 6 => some .u8 | 7 => some .lg6 | 8 => some .i32 | 9 => some .u32 | 10 => some .i16 | 11 => some .acc80
  | _ => none

/-- Width in bits (R47). -/
def Fmt.width : Fmt → Nat
  | .f32 | .i32 | .u32 => 32
  | .f16 | .bf16 | .i16 => 16
  | .e4m3 | .e5m2 | .i8 | .u8 => 8
  | .lg6 => 6
  | .acc80 => 80

/-- Exponent bits and fraction bits of the floating-point formats (R49). -/
def Fmt.fields : Fmt → Option (Nat × Nat)
  | .f32 => some (8, 23)
  | .f16 => some (5, 10)
  | .bf16 => some (8, 7)
  | .e4m3 => some (4, 3)
  | .e5m2 => some (5, 2)
  | .acc80 => some (11, 68)
  | _ => none

/-- Canonical NaN of a floating-point format or LG6 (R49, R53). -/
def Fmt.nan : Fmt → Nat
  | .f32 => 0x7FC00000
  | .f16 => 0x7E00
  | .bf16 => 0x7FC0
  | .e4m3 => 0x7F
  | .e5m2 => 0x7E
  | .acc80 => 0x7FF80000000000000000
  | .lg6 => 0x30
  | _ => 0

/-- Sign, width and range of the integer formats (R51). -/
def Fmt.isSigned : Fmt → Bool
  | .i8 | .i16 | .i32 => true
  | _ => false

/-- The table T of R55, with its closing entry. -/
def lgTable : Nat → Nat
  | 0 => 0x10000
  | 1 => 0x13070
  | 2 => 0x16A0A
  | 3 => 0x1AE8A
  | _ => 0x20000

/-- Bits of a floating-point format read as a value (R49). -/
def decodeFloat (f : Fmt) (ebits fbits bits : Nat) : Val :=
  let neg := bitsAt bits (ebits + fbits) 1 == 1
  let ex := bitsAt bits fbits ebits
  let fr := bitsAt bits 0 fbits
  let bias : Nat := 2 ^ (ebits - 1) - 1
  if ex = 0 then .fin neg fr (1 - (bias : Int) - fbits)
  else if f = .e4m3 then
    if ex = 15 ∧ fr = 7 then .nan else .fin neg (2 ^ fbits + fr) ((ex : Int) - bias - fbits)
  else if ex = 2 ^ ebits - 1 then
    if fr = 0 then .inf neg else .nan
  else .fin neg (2 ^ fbits + fr) ((ex : Int) - bias - fbits)

/-- LG6 bits read as their linear value (R53, R55). -/
def decodeLg6 (bits : Nat) : Val :=
  let neg := bitsAt bits 5 1 == 1
  let g := (bitsAt bits 0 5 + 16) % 32
  if g = 0 then (if neg then .nan else .fin false 0 0)
  else .fin neg (lgTable (g % 4)) (((g / 4 : Nat) : Int) - 4 - 16)

/-- DECODE of R66: the value of an element of format `f`; bits above its width are ignored (R48). -/
def decode (f : Fmt) (bits : Nat) : Val :=
  match f.fields with
  | some (eb, fb) => decodeFloat f eb fb bits
  | none =>
    if f = .lg6 then decodeLg6 bits
    else if f.isSigned then
      let v := signedOf f.width bits
      .fin (v < 0) v.natAbs 0
    else .fin false (bits % 2 ^ f.width) 0

/-- A quotient of a magnitude by a power of two: the integer part, how the rest compares with one half
(`lt`, `eq`, `gt`), whether there is a rest, and its first 16 bits (R64). -/
structure Cut where
  n : Nat
  half : Ordering
  inexact : Bool
  d16 : Nat
  deriving DecidableEq, Repr

/-- Cut `x` at the place of weight `2^q`. -/
def Ext.cut (x : Ext) (q : Int) : Cut :=
  if q ≤ x.e then ⟨x.m <<< (x.e - q).toNat, .lt, x.sticky, 0⟩
  else
    let sh := (q - x.e).toNat
    let r := x.m % 2 ^ sh
    let h := 2 ^ (sh - 1)
    let half : Ordering := if r < h then .lt else if r = h && !x.sticky then .eq else .gt
    ⟨x.m >>> sh, half, r != 0 || x.sticky, (r <<< 16) >>> sh⟩

/-- Whether a rounding takes the larger neighbouring magnitude (R58, R64). -/
def Cut.up (c : Cut) (neg : Bool) (r : Rnd) : Bool :=
  match r.mode with
  | .rne => c.half == .gt || (c.half == .eq && c.n % 2 == 1)
  | .rna => c.half != .lt
  | .rz => false
  | .ru => c.inexact && !neg
  | .rd => c.inexact && neg
  | .sr => c.inexact && decide (r.u < c.d16)

/-- A floating-point pattern from sign, biased exponent and fraction. -/
def floatBits (ebits fbits : Nat) (neg : Bool) (ex fr : Nat) : Nat :=
  (if neg then 2 ^ (ebits + fbits) else 0) + ex * 2 ^ fbits + fr

/-- The largest finite magnitude with a sign (R49). -/
def maxFinite (f : Fmt) (ebits fbits : Nat) (neg : Bool) : Nat :=
  if f = .e4m3 then floatBits ebits fbits neg 15 6
  else floatBits ebits fbits neg (2 ^ ebits - 2) (2 ^ fbits - 1)

/-- The result for a finite value too large for `f` (R70). -/
def overflow (f : Fmt) (ebits fbits : Nat) (neg : Bool) (r : Rnd) : Nat :=
  let toMax := r.sat || r.mode == .rz || (r.mode == .rd && !neg) || (r.mode == .ru && neg)
  if toMax then maxFinite f ebits fbits neg
  else if f = .e4m3 then f.nan
  else floatBits ebits fbits neg (2 ^ ebits - 1) 0

/-- An infinite result (R70, R72). -/
def infinite (f : Fmt) (ebits fbits : Nat) (neg sat : Bool) : Nat :=
  if sat then maxFinite f ebits fbits neg
  else if f = .e4m3 then f.nan
  else floatBits ebits fbits neg (2 ^ ebits - 1) 0

/-- Round a magnitude that is not zero into a floating-point format (R60, R64, R70). -/
def roundFloat (f : Fmt) (ebits fbits : Nat) (x : Ext) (r : Rnd) : Nat :=
  let bias : Nat := 2 ^ (ebits - 1) - 1
  let top : Int := (x.m.log2 : Int) + x.e
  let emin : Int := 1 - (bias : Int)
  let q : Int := max top emin - fbits
  let c := x.cut q
  let n := if c.up x.neg r then c.n + 1 else c.n
  let carry := n = 2 ^ (fbits + 1)
  let n := if carry then 2 ^ fbits else n
  let q := if carry then q + 1 else q
  if n < 2 ^ fbits then floatBits ebits fbits x.neg 0 n
  else
    let ex := (q + fbits + bias).toNat
    let fr := n - 2 ^ fbits
    let high := if f = .e4m3 then decide (15 < ex) || (ex == 15 && fr == 7) else decide (2 ^ ebits - 1 ≤ ex)
    if high then overflow f ebits fbits x.neg r else floatBits ebits fbits x.neg ex fr

/-- Round a magnitude into an integer format: rounded, then clamped (R70). -/
def roundInt (f : Fmt) (x : Ext) (r : Rnd) : Nat :=
  let c := x.cut 0
  let n := if c.up x.neg r then c.n + 1 else c.n
  let w := f.width
  if f.isSigned then
    if x.neg then (2 ^ w - min n (2 ^ (w - 1))) % 2 ^ w else min n (2 ^ (w - 1) - 1)
  else if x.neg then 0 else min n (2 ^ w - 1)

/-- Integer square root by bits, from bit `k - 1` down. -/
def isqrtAux (n : Nat) : Nat → Nat → Nat
  | 0, r => r
  | k + 1, r =>
    let r' := r + 2 ^ k
    if r' * r' ≤ n then isqrtAux n k r' else isqrtAux n k r

/-- The largest `r` with `r * r ≤ n`. -/
def isqrt (n : Nat) : Nat := isqrtAux n (n.log2 / 2 + 1) 0

/-- An LG6 code from its sign and field (R53); field below -15 is zero, above 15 is out of range (R61, R70). -/
def lg6Code (neg : Bool) (g : Int) (r : Rnd) (dirMax : Bool) : Nat :=
  if g < -15 then 0x10
  else if 15 < g then
    (if r.sat || dirMax then (if neg then 0x2F else 0x0F) else 0x30)
  else (if neg then 0x20 else 0) + ((g + 32) % 32).toNat

/-- Whether `M^4 = (m / 2^k)^4` is at least `2^i`, and so on: compare `m^p` with `2^(p × k + j)`. -/
def powGe (m k p j : Nat) : Bool := decide (2 ^ (p * k + j) ≤ m ^ p)

/-- Round `m × 2^e × 2^(-h/2)`, not zero, into LG6 (R61, R62, R64, R70, R71). `h` is 0, or 5 for the Hadamard step of
32: the field is then that of `m × 2^e` less `2 × h`. A value that is the linear value of a code is that code (R62). -/
def roundLg6 (neg : Bool) (m : Nat) (e : Int) (h : Nat) (r : Rnd) : Nat :=
  let k := m.log2
  let i : Nat := if powGe m k 4 3 then 3 else if powGe m k 4 2 then 2 else if powGe m k 4 1 then 1 else 0
  let g0 : Int := 4 * ((k : Int) + e) + i - 2 * h
  let dirMax := r.mode == .rz || (r.mode == .rd && !neg) || (r.mode == .ru && neg)
  let linear := (m <<< 16) == (lgTable i) <<< k
  let exact := linear || (m ^ 4 == 2 ^ (4 * k + i))
  let above := powGe m k 8 (2 * i + 1)
  if exact && decide (-15 ≤ g0) then lg6Code neg g0 r dirMax
  else if g0 < -15 then
    let up := match r.mode with
      | .rne | .rna => decide (g0 = -16) && above
      | .rz => false
      | .ru => !neg
      | .rd => neg
      | .sr =>
        -- floor(|x| × 2^36 / T[1]) with |x| = m × 2^e × 2^(-h/2)
        let num := m ^ 2 * 2 ^ 72
        let s : Int := 2 * e - h
        let sq := if 0 ≤ s then num <<< s.toNat / (lgTable 1) ^ 2 else num / ((lgTable 1) ^ 2 * 2 ^ (-s).toNat)
        decide (r.u < isqrt sq)
    if up then lg6Code neg (-15) r dirMax else 0x10
  else
    let up := match r.mode with
      | .rne | .rna => above
      | .rz => false
      | .ru => !neg
      | .rd => neg
      | .sr =>
        let mq := (m <<< 16) >>> k
        let t := lgTable i
        let rr := if mq < t then 0 else ((mq - t) <<< 16) / (lgTable (i + 1) - t)
        decide (r.u < rr)
    lg6Code neg (if up then g0 + 1 else g0) r (dirMax && !up)

/-- A finite magnitude rounded into `f`; zero keeps its sign where the format has one (R60, R61). -/
def roundExt (f : Fmt) (x : Ext) (r : Rnd) : Nat :=
  match f.fields with
  | some (eb, fb) => if x.m = 0 then floatBits eb fb x.neg 0 0 else roundFloat f eb fb x r
  | none =>
    if f = .lg6 then (if x.m = 0 then 0x10 else roundLg6 x.neg x.m x.e 0 r)
    else roundInt f x r

/-- ROUND of R66 and R70: a value into format `f`, as a pattern of `f.width` bits. -/
def round (f : Fmt) (v : Val) (r : Rnd) : Nat :=
  match v with
  | .nan => f.nan
  | .fin neg m e => roundExt f ⟨neg, m, e, false⟩ r
  | .inf neg =>
    match f.fields with
    | some (eb, fb) => infinite f eb fb neg r.sat
    | none =>
      if f = .lg6 then (if r.sat then (if neg then 0x2F else 0x0F) else 0x30)
      else if f.isSigned then (if neg then 2 ^ (f.width - 1) else 2 ^ (f.width - 1) - 1)
      else (if neg then 0 else 2 ^ f.width - 1)

/-- How a register is filled above an element (R48): I8 and I16 sign-extended, all others zero-filled. -/
def fill (f : Fmt) (bits : Nat) : Nat :=
  if f = .i8 ∨ f = .i16 then
    (if bits % 2 ^ f.width < 2 ^ (f.width - 1) then bits % 2 ^ f.width
     else bits % 2 ^ f.width + 2 ^ 32 - 2 ^ f.width)
  else bits % 2 ^ f.width

/-- The sign of a value. -/
def Val.neg : Val → Bool
  | .nan => false
  | .inf n => n
  | .fin n _ _ => n

/-- The value with its sign inverted; a NaN stays a NaN. -/
def Val.negate : Val → Val
  | .nan => .nan
  | .inf n => .inf (!n)
  | .fin n m e => .fin (!n) m e

/-- `m × 2^e` as an integer number of `2^q`, for `q ≤ e`. -/
def scaled (neg : Bool) (m : Nat) (e q : Int) : Int :=
  let n : Int := (m <<< (e - q).toNat : Nat)
  if neg then -n else n

/-- The exact sum. `rd` says that the mode is RD, which alone gives -0 for a zero sum of unlike signs (R333). -/
def add (rd : Bool) : Val → Val → Val
  | .nan, _ => .nan
  | _, .nan => .nan
  | .inf a, .inf b => if a = b then .inf a else .nan
  | .inf a, _ => .inf a
  | _, .inf b => .inf b
  | .fin na ma ea, .fin nb mb eb =>
    if ma = 0 ∧ mb = 0 then .fin (if na = nb then na else rd) 0 0
    else
      let q := min ea eb
      let s := scaled na ma ea q + scaled nb mb eb q
      if s = 0 then .fin rd 0 0 else .fin (s < 0) s.natAbs q

/-- The exact product (R50, R333). -/
def mul : Val → Val → Val
  | .nan, _ => .nan
  | _, .nan => .nan
  | .inf a, .inf b => .inf (a != b)
  | .inf a, .fin b m _ => if m = 0 then .nan else .inf (a != b)
  | .fin b m _, .inf a => if m = 0 then .nan else .inf (a != b)
  | .fin na ma ea, .fin nb mb eb => .fin (na != nb) (ma * mb) (ea + eb)

/-- Comparison with -0 equal to +0; none when either is NaN (R334). -/
def cmp : Val → Val → Option Ordering
  | .nan, _ => none
  | _, .nan => none
  | .inf a, .inf b => some (compare (if a then 0 else 1) (if b then 0 else 1))
  | .inf a, _ => some (if a then .lt else .gt)
  | _, .inf b => some (if b then .gt else .lt)
  | .fin na ma ea, .fin nb mb eb =>
    let q := min ea eb
    some (compare (scaled na ma ea q) (scaled nb mb eb q))

/-- Whether `a` orders below `b` for FMIN and FMAX, where -0 is below +0 (R72); both are not NaN. -/
def below (a b : Val) : Bool :=
  match cmp a b with
  | some .lt => true
  | some .eq => a.neg && !b.neg
  | _ => false

/-- FMIN and FMAX of two patterns (R72, R333): a NaN is ignored, two NaNs give the canonical NaN. -/
def minMax (f : Fmt) (isMax : Bool) (a b : Nat) : Nat :=
  let va := decode f a
  let vb := decode f b
  match va, vb with
  | .nan, .nan => f.nan
  | .nan, _ => b
  | _, .nan => a
  | _, _ => if isMax then (if below va vb then b else a) else (if below vb va then b else a)

/-- Round an exact quotient, root or series value with the usual special results settled by the caller. -/
def finish (f : Fmt) (x : Ext) (r : Rnd) : Nat := roundExt f x r

/-- FDIV (R336) in format `f`. -/
def div (f : Fmt) (a b : Val) (r : Rnd) : Nat :=
  match a, b with
  | .nan, _ => f.nan
  | _, .nan => f.nan
  | .inf _, .inf _ => f.nan
  | .inf na, .fin nb _ _ => round f (.inf (na != nb)) r
  | .fin na _ _, .inf nb => round f (.fin (na != nb) 0 0) r
  | .fin na ma ea, .fin nb mb eb =>
    if mb = 0 then (if ma = 0 then f.nan else round f (.inf (na != nb)) r)
    else if ma = 0 then round f (.fin (na != nb) 0 0) r
    else
      let n := ma <<< 200
      finish f ⟨na != nb, n / mb, ea - eb - 200, n % mb != 0⟩ r

/-- The square root of `m × 2^e`, m not zero, with 200 or more bits. -/
def rootExt (m : Nat) (e : Int) : Ext :=
  let odd := e % 2 != 0
  let m' := if odd then m * 2 else m
  let e' := if odd then e - 1 else e
  let n := m' <<< 400
  let s := isqrt n
  ⟨false, s, e' / 2 - 200, s * s != n⟩

/-- FSQRT (R72, R335). -/
def sqrt (f : Fmt) (a : Val) (r : Rnd) : Nat :=
  match a with
  | .nan => f.nan
  | .inf n => if n then f.nan else round f (.inf false) r
  | .fin n m e => if m = 0 then round f a r else if n then f.nan else finish f (rootExt m e) r

/-- FRCP: 1/x (R73). -/
def rcp (f : Fmt) (a : Val) : Nat :=
  match a with
  | .nan => f.nan
  | .inf n => round f (.fin n 0 0) .rne
  | .fin n m e => if m = 0 then round f (.inf n) .rne else
    finish f ⟨n, 2 ^ 256 / m, -e - 256, 2 ^ 256 % m != 0⟩ .rne

/-- FRSQ: 1/√x (R73). -/
def rsq (f : Fmt) (a : Val) : Nat :=
  match a with
  | .nan => f.nan
  | .inf n => if n then f.nan else round f (.fin false 0 0) .rne
  | .fin n m e =>
    if m = 0 then round f (.inf n) .rne
    else if n then f.nan
    else
      let odd := e % 2 != 0
      let m' := if odd then m * 2 else m
      let e' := if odd then e - 1 else e
      let s := isqrt (2 ^ 600 / m')
      finish f ⟨false, s, -(e' / 2) - 300, s * s * m' != 2 ^ 600⟩ .rne

/-- FRND: to an integral value of the same format (R72). -/
def toIntegral (f : Fmt) (a : Val) (r : Rnd) : Nat :=
  match a with
  | .fin n m e =>
    if m = 0 || decide (0 ≤ e) then round f a r
    else
      let c := Ext.cut ⟨n, m, e, false⟩ 0
      round f (.fin n (if c.up n r then c.n + 1 else c.n) 0) r
  | v => round f v r

end Sys2Proof.Fp
end

