-- ==== Sys2Proof/Machine/FpFun.lean ====
section
/-! DEFINITION. The functions of R73 and R335 (FSINP, FCOSP, FEX2, FLG2), the stochastic bits of R63, the exact sums of
R66 and the Hadamard step of R71. A transcendental result is a series evaluated with 384 fractional bits and a sticky
mark: its fixed exact results are settled first, so no other result is a rounding boundary. -/

namespace Sys2Proof.Fp

/-- Fractional bits of the series. -/
def prec : Nat := 384

/-- floor(π × 2^400). -/
def piBits : Nat :=
  0x3243f6a8885a308d313198a2e03707344a4093822299f31d0082efa98ec4e6c89452821e638d01377be5466cf34e90c6cc0ac

/-- floor(ln 2 × 2^400). -/
def ln2Bits : Nat :=
  0xb17217f7d1cf79abc9e3b39803f2f6af40f343267298b62d8a0d175b8baafa2be7b876206debac98559552fb4afa1b10ed2e

/-- The Taylor sum `t - t x²/((k+1)(k+2)) + …` with `x2 = x²`, all with `prec` fractional bits: `fuel` more terms. -/
def altSeries (x2 : Nat) : Nat → Nat → Nat → Int
  | 0, _, _ => 0
  | fuel + 1, k, t => (t : Int) - altSeries x2 fuel (k + 2) ((t * x2) >>> prec / ((k + 1) * (k + 2)))

/-- The Taylor sum `t + t x/(k+1) + …`: `fuel` more terms. -/
def expSeries (x : Nat) : Nat → Nat → Nat → Nat
  | 0, _, _ => 0
  | fuel + 1, k, t => t + expSeries x fuel (k + 1) ((t * x) >>> prec / (k + 1))

/-- sin(π x) for x with `prec` fractional bits, 0 < x ≤ 1/2. -/
def sinPi (x : Nat) : Nat :=
  let a := (x * piBits) >>> 400
  (altSeries ((a * a) >>> prec) 60 1 a).toNat

/-- cos(π x) for x with `prec` fractional bits, 0 < x < 1/2. -/
def cosPi (x : Nat) : Nat :=
  let a := (x * piBits) >>> 400
  (altSeries ((a * a) >>> prec) 60 0 (2 ^ prec)).toNat

/-- `|x|` modulo 2 with `prec` fractional bits: the exact argument reduction of R335. -/
def mod2 (m : Nat) (e : Int) : Nat :=
  (if 0 ≤ e + prec then m <<< (e + prec).toNat else m >>> (-(e + prec)).toNat) % (2 * 2 ^ prec)

/-- FSINP (R73). -/
def fsinp (a : Val) : Nat :=
  match a with
  | .nan => Fmt.f32.nan
  | .inf _ => Fmt.f32.nan
  | .fin n m e =>
    let one := 2 ^ prec
    let x := mod2 m e
    if x % one = 0 then round .f32 (.fin n 0 0) .rne
    else
      let neg := n != decide (one < x)
      let y := x % one
      let y := if 2 * y ≤ one then y else one - y
      if 2 * y = one then round .f32 (.fin neg 1 0) .rne
      else roundExt .f32 ⟨neg, sinPi y, -(prec : Int), true⟩ .rne

/-- FCOSP (R73). -/
def fcosp (a : Val) : Nat :=
  match a with
  | .nan => Fmt.f32.nan
  | .inf _ => Fmt.f32.nan
  | .fin _ m e =>
    let one := 2 ^ prec
    let x := mod2 m e
    let x := if one < x then 2 * one - x else x      -- cos is even about 0 and 2
    if 2 * x = one then 0
    else if x = 0 then round .f32 (.fin false 1 0) .rne
    else if x = one then round .f32 (.fin true 1 0) .rne
    else
      let neg := decide (one < 2 * x)
      let y := if neg then one - x else x
      roundExt .f32 ⟨neg, cosPi y, -(prec : Int), true⟩ .rne

/-- FEX2 (R73). -/
def fex2 (a : Val) : Nat :=
  match a with
  | .nan => Fmt.f32.nan
  | .inf n => if n then 0 else round .f32 (.inf false) .rne
  | .fin n m e =>
    if m = 0 then round .f32 (.fin false 1 0) .rne
    else if 12 < (m.log2 : Int) + e then (if n then 0 else round .f32 (.inf false) .rne)
    else
      let fx := if 0 ≤ e + prec then m <<< (e + prec).toNat else m >>> (-(e + prec)).toNat
      let one := 2 ^ prec
      let ip : Int := if n then -((fx + one - 1) / one : Nat) else (fx / one : Nat)
      let fr := if n then (one - fx % one) % one else fx % one
      if fr = 0 then round .f32 (.fin false 1 ip) .rne
      else
        let y := (fr * ln2Bits) >>> 400
        roundExt .f32 ⟨false, expSeries y 80 0 one, ip - prec, true⟩ .rne

/-- `n` more bits of log2 of `x`, 1 ≤ x < 2 with `prec` fractional bits, by repeated squaring. -/
def log2Bits : Nat → Nat → Nat → Nat
  | 0, _, acc => acc
  | n + 1, x, acc =>
    let y := (x * x) >>> prec
    if 2 * 2 ^ prec ≤ y then log2Bits n (y / 2) (2 * acc + 1) else log2Bits n y (2 * acc)

/-- FLG2 (R73). -/
def flg2 (a : Val) : Nat :=
  match a with
  | .nan => Fmt.f32.nan
  | .inf n => if n then Fmt.f32.nan else round .f32 (.inf false) .rne
  | .fin n m e =>
    if m = 0 then round .f32 (.inf true) .rne
    else if n then Fmt.f32.nan
    else
      let k : Int := (m.log2 : Int) + e
      if m = 2 ^ m.log2 then round .f32 (.fin (k < 0) k.natAbs 0) .rne
      else
        let l := log2Bits 128 ((m <<< prec) >>> m.log2) 0
        let v : Int := k * 2 ^ 128 + l
        if 0 ≤ v then roundExt .f32 ⟨false, v.natAbs, -128, true⟩ .rne
        else roundExt .f32 ⟨true, (-v - 1).natAbs, -128, true⟩ .rne

/-- SRBITS of R63. -/
def srbits (seed dix j e : Nat) : Nat :=
  let rotl (x : W32) (n : Nat) : W32 := x.rotateLeft n
  let round1 (n : Nat) (s : W32 × W32 × W32 × W32) : W32 × W32 × W32 × W32 :=
    let (a, b, c, d) := s
    let a := a + b + BitVec.ofNat 32 n
    let d := rotl (d ^^^ a) 16
    let c := c + d
    let b := rotl (b ^^^ c) 12
    let a := a + b
    let d := rotl (d ^^^ a) 8
    let c := c + d
    let b := rotl (b ^^^ c) 7
    (a, b, c, d)
  let s0 : W32 × W32 × W32 × W32 :=
    (BitVec.ofNat 32 seed, BitVec.ofNat 32 (seed >>> 32), BitVec.ofNat 32 dix ^^^ 0x243F6A88#32,
      BitVec.ofNat 32 ((j <<< 27) ||| (e % 2 ^ 27)))
  let s4 := round1 3 (round1 2 (round1 1 (round1 0 s0)))
  (s4.1 ^^^ s4.2.2.1).toNat

/-- The rounding of one element: mode and saturate bit, with the low 16 bits of SRBITS (R63). -/
def Rnd.at (mode : Mode) (sat : Bool) (seed dix j e : Nat) : Rnd :=
  ⟨mode, sat, if mode = .sr then srbits seed dix j e % 65536 else 0⟩

/-- The product of two operand elements in the matrix engine (R66): LG6 by R67, all others exact. -/
def product (fa fb : Fmt) (a b : Nat) : Val :=
  if fa = .lg6 ∧ fb = .lg6 then
    let ga := (bitsAt a 0 5 + 16) % 32
    let gb := (bitsAt b 0 5 + 16) % 32
    let na := bitsAt a 5 1 == 1
    let nb := bitsAt b 5 1 == 1
    if (ga = 0 ∧ na) ∨ (gb = 0 ∧ nb) then .nan
    else if ga = 0 ∨ gb = 0 then .fin false 0 0
    else
      let s := ga + gb                      -- (L_a + L_b) × 4 + 32
      .fin (na != nb) (lgTable (s % 4)) (((s / 4 : Nat) : Int) - 8 - 16)
  else mul (decode fa a) (decode fb b)

/-- SCALE of R66: an E8M0 byte, or 1 without a scale (R57). -/
def scaleOf : Option Nat → Val
  | none => .fin false 1 0
  | some b => if b = 255 then .nan else .fin false 1 ((b : Int) - 127)

/-- The exact sum of a list of terms, from +0 (R66). -/
def sum (xs : List Val) : Val := xs.foldl (add false) (.fin false 0 0)

/-- One chunk added to an accumulator element: the two roundings of R66. -/
def chunkAdd (acc : Nat) (terms : List Val) : Nat :=
  let q := round .acc80 (sum terms) .rne
  round .acc80 (add false (decode .acc80 acc) (decode .acc80 q)) .rne

/-- The parity of the set bits of `i AND m` below bit 5: the sign of R71. -/
def oddBits (i m : Nat) : Bool :=
  let x := i &&& m
  (x.testBit 0 != x.testBit 1) != ((x.testBit 2 != x.testBit 3) != x.testBit 4)

/-- The exact Hadamard sum y_i of a block (R71). The rule gives the exact real sum, which has no sign where it is zero; here a zero sum is
+0, whatever the signs of the elements and the rounding mode (DESIGN CHOICE: notes/assumptions/88.md). -/
def hadSum (xs : List Val) (i : Nat) : Val :=
  sum ((List.range xs.length).map fun m =>
    let v := xs.getD m (.fin false 0 0)
    if oddBits i m then v.negate else v)

/-- y × 2^(-log2(n)/2) rounded into `f` (R71); `n` is 16 or 32. -/
def hadRound (f : Fmt) (n : Nat) (y : Val) (r : Rnd) : Nat :=
  match y with
  | .fin neg m e =>
    if m = 0 then round f y r
    else if n = 16 then round f (.fin neg m (e - 2)) r
    else if f = .lg6 then roundLg6 neg m e 5 r
    else
      -- m × 2^e × 2^(-5/2) = sqrt(m² × 2^(2e - 5))
      let x := rootExt (m * m * 2) (2 * e - 6)
      roundExt f ⟨neg, x.m, x.e, x.sticky⟩ r
  | v => round f v r

end Sys2Proof.Fp
end

