-- ==== Sys2Proof/Machine/Flags.lean ====
section
/-! DEFINITION. Every computation that ends in a predicate or a carry: CMP and FCMP conditions and combines (R315,
R334), the carry of ADDC and the borrow of SUBB (R289, R386). -/

namespace Sys2Proof.Machine

/-- The integer condition `cc` of R315 (0 EQ to 5 GE), unsigned when `u`. -/
def condInt {w : Nat} (cc : Nat) (u : Bool) (a b : BitVec w) : Bool :=
  let lt := if u then a.ult b else a.slt b
  let eq := a == b
  match cc with
  | 0 => eq
  | 1 => !eq
  | 2 => lt
  | 3 => lt || eq
  | 4 => !(lt || eq)
  | _ => !lt

/-- The floating-point condition `cc` of R334 (0 EQ to 6 UN) of two patterns of format `f`. -/
def condFloat (cc : Nat) (f : Fp.Fmt) (a b : Nat) : Bool :=
  match Fp.cmp (Fp.decode f a) (Fp.decode f b) with
  | none => cc == 1 || cc == 6
  | some o =>
    match cc with
    | 0 => o == .eq
    | 1 => o != .eq
    | 2 => o == .lt
    | 3 => o != .gt
    | 4 => o == .gt
    | 5 => o != .lt
    | _ => false

/-- The new value of a predicate under combine `m` (R315): 0 set, 1 and, 2 or. -/
def combine (m : Nat) (old c : Bool) : Bool :=
  match m with
  | 0 => c
  | 1 => old && c
  | _ => old || c

/-- ADDC: result and carry out (R289). -/
def addCarry (a b : W32) (c : Bool) : W32 × Bool :=
  let s := a.toNat + b.toNat + c.toNat
  (BitVec.ofNat 32 s, decide (2 ^ 32 ≤ s))

/-- SUBB: result and borrow out (R386). -/
def subBorrow (a b : W32) (c : Bool) : W32 × Bool :=
  let s : Int := (a.toNat : Int) - b.toNat - c.toNat
  (BitVec.ofInt 32 s, decide (s < 0))

end Sys2Proof.Machine
end

