-- ==== Sys2Proof/Config.lean ====
section
/-! DEFINITION. What one part fixes and what the spec leaves open. An `opaque` constant is a FREE VALUE: nothing
constrains it and nothing can evaluate it. One that may differ from reading to reading is applied to the counter `State.free`,
which the step that reads it advances, so every reading is a fresh value (DESIGN CHOICE, notes/assumptions/5.md). -/

namespace Sys2Proof.Config

/-- Core cycles from dispatch to retirement (R210): the spec gives no latencies, so the number is free. -/
opaque elapsed : Nat → W64

/-- SEQ of a record that is sent to the host and was never given a TAIL index (R103, R104): the spec states none. -/
opaque seqUnposted : Nat → W32

/-- The address of a context's save image (R202 SAVEBASE): the scheduler chooses it. -/
opaque saveBase : Nat → W64

/-- Whether a copy whose cached shape record differs from memory uses the record in memory (R93). -/
opaque recordFromMemory : Nat → Bool

/-- The 4 KiB frames of the supervisor's table pool (R180), as box frame numbers: allocated at bring-up. -/
opaque tablePool : List Nat

/-- The images that R257 measures: the boot ROM, the supervisor image and the control-core firmware. -/
opaque bootRom : List Byte

/-- The supervisor image in the boot flash (R257 step 2). -/
opaque supImage : List Byte

/-- The control-core firmware in the boot flash (R257 step 4). -/
opaque ctlImage : List Byte

/-- The private device identity key held in fuses (R257). -/
opaque deviceKey : Nat

/-- The random number of a report's SM2 signature (R257). -/
opaque signNonce : Nat → Nat

/-- The words of an SVC answer that the spec leaves to the supervisor: how many shadow entries it grants (R244). -/
opaque lehrGrant : Nat → Nat

/-- The bytes of a saved context's image (R208), whose layout and size the spec leaves to the save engine. -/
opaque imageBytes : Nat → List Byte

/-- The entries of a task's load log, which the supervisor allocates (R223). -/
opaque loadLog : Nat

/-- The port counters of R254 that the standards of R249 define count frames outside the model: what each reads. -/
opaque portCounter : Nat → W64

/-- How far a port's 802.1AS clock has run by itself when it is read (R250). -/
opaque portTick : Nat → W64

/-- How far a port's 802.1AS clock has run by itself when it stamps the frame that follows `n` others (R250). -/
opaque stampTick : Nat → W64

/-- The die temperature when it is read (R254). -/
opaque dieTemp : Nat → W64

/-- Capacities of R1 and R121: threads of a train, lanes of a core, cores. -/
def threads : Nat := 32

/-- Cores of a die (R7). -/
def cores : Nat := 64

/-- Entries of a train's store buffer (R134). -/
def storeBuffer : Nat := 16

/-- Entries of a split table (R24). -/
def splitTable : Nat := 8

/-- Outstanding long-latency instructions of a train (R41). -/
def outstanding : Nat := 4

/-- Slots of the in-flight table (R188). -/
def inFlight : Nat := 256

/-- First chip offset outside R167. -/
def chipEnd : Nat := 0x2000000000

/-- First chip offset of the metadata region (R127). -/
def metaBase : Nat := 0x1E00000000

/-- First chip offset of the page-frame attribute table (R171). -/
def attrBase : Nat := 0x1FE0000000

/-- Base of the descriptor range of handler mode (R202). -/
def ctxVa : Nat := 0x0000FFFFFFC00000

/-- Bytes of one accumulator tile's image (R84). -/
def accImage : Nat := 10240

/-- Bytes of a context's accumulator save area (R202). -/
def accArea : Nat := 2621440

/-- WDG at launch (R101). -/
def wdgReset : W32 := 0x01000000#32

/-- The initial digest of R217 to R219. -/
def digest0 : W64 := 0x71C42A9E0D5B863F#64

end Sys2Proof.Config
end

