-- ==== Sys2Proof/Machine/State.lean ====
section
/-! DEFINITION. The state of one Trarid W64 (INVENTORY.md, '## State'), as plain data. Sparse maps are lists of key and
value with strictly rising keys and no entry that holds the default of its map (Machine/Cells.lean). -/

namespace Sys2Proof.Machine

/-- A sparse map in canonical form. -/
abbrev Cells (α : Type) := List (Nat × α)

/-- Trap causes of R238. -/
inductive Cause where
  | illegal | priv | misaligned | lease | handle | producer | budget | stackLimit | shadowFull | aliasing | pullLost
  | poison | detConflict | barrierTimeout | xshcTimeout | accOwner | fenceLost | record | engine | svc | trap | space
  | mismatch | digest | logOverflow | audit
  deriving DecidableEq, Repr

/-- What a trap frame records (R242), beside k28 to k31. -/
structure FaultRec where
  cause : Cause
  j : Nat
  uni : Bool
  ct : Bool
  addr : W64
  pc : W64
  pfx : Bool
  insn : W32
  pword : W32
  dix : W32
  done : Mask
  exm : Mask
  rpc : W64
  skip : Bool
  deriving DecidableEq, Repr

/-- Which run of a workgroup this is: the run itself, the trailing copy of level 3 (R226), the shadow of level 2
(R223), or the audit replay of level 1 (R221). -/
inductive RunMode where
  | primary | trail | shadow | replay
  deriving DecidableEq, Repr

/-- Where a workgroup is (R204 to R209): it has been placed at least once. -/
inductive Place where
  | resident (core slot : Nat)
  | halting (core slot : Nat)      -- a pre-emption request was delivered
  | halted (core slot : Nat)       -- frozen; the image is not yet written
  | saved (core : Nat)             -- the image is at SAVEBASE; the core it last ran on
  | ended                          -- it ended under R27 or R245
  deriving DecidableEq, Repr

/-- A location (R130): a byte at a box physical address, of a workgroup's scratchpad share, or of private memory at
a chip offset; a byte of a discarded page (R181); a byte of a context descriptor (R202). -/
inductive Loc where
  | glob (pa : Nat)
  | share (w off : Nat)
  | priv (pa : Nat)
  | discarded (pa : Nat)
  | desc (ctx off : Nat)
  deriving DecidableEq, Repr

/-- What the translation of one thread's access gave at issue (R179): where it lies, or its fault with the address that the
fault reports. -/
inductive StepLocs where
  | at (locs : List Loc)
  | fault (cause : Cause) (addr : W64)
  deriving DecidableEq, Repr

/-- An issue of a store or an atomic that a wait has interrupted: its first store-buffer entry (R134) and what each thread's
translation gave (R179). -/
structure IssuePart where
  start : Nat
  steps : List (Nat × StepLocs)
  deriving DecidableEq, Repr

/-- Why a split does not issue (R32). -/
inductive Wait where
  | ready
  | outst (ids : List Nat)          -- long-latency instructions must complete first (R265, R41)
  | retry                           -- its instruction issues again when something has happened
  | lehr                            -- its line finds no shadow entry (R230)
  | barrier (b : Nat) (phase : Bool)
  | xshc (since : Nat) (word : W32)   -- for its partner (R35)
  | timer (due : Nat)
  | flipped (phase : Bool)            -- its BWAIT has been released: the phase it waited for (R98)
  deriving DecidableEq, Repr

/-- A prefix that waits for the word it modifies (R266 to R268). -/
inductive PrefixKind where
  | immx (p : BitVec 24)
  | mem (alloc ord sc : Nat)
  | ari (sat : Bool) (rm : Nat)
  deriving DecidableEq, Repr

/-- A pending prefix with its own address and word. -/
structure Pfx where
  kind : PrefixKind
  pc : W64
  word : W32
  deriving DecidableEq, Repr

/-- An entry of the split table or of the spill area (R24, R31). -/
structure Split where
  id : Nat
  pc : W64
  rpc : W64
  member : Mask
  exm : Mask
  dix : W32
  parked : Bool
  spilled : Option Nat              -- the train's issue count when it was spilled (R30)
  row : Nat                         -- its entry of the spill area (R31)
  last : Int                        -- its lane's issue count when it last issued (R32)
  wait : Wait
  pfx : Option Pfx
  done : Mask                       -- threads not performed again when its instruction is re-issued (R42)
  part : Option IssuePart                -- its issue under way, if a wait has interrupted it (R134, R179)
  rel : Option Nat                  -- a RELEASE under way: every write with a smaller id is fenced by it (R140)
  deriving DecidableEq, Repr

/-- One access of a load, by one thread or by the train. `value` is fixed when the load is performed (R131). -/
structure Load where
  j : Nat
  addr : W64
  locs : List Loc
  fromLog : Bool                    -- a follower's access: its value comes from the log (R221, R223, R153)
  value : Option (List Byte)
  poison : Bool
  since : Nat                       -- the clock at issue (R206)
  expired : Bool                    -- its return period has run out (R206)
  ctx : BitVec 16                   -- the context and the generation that its request carries (R206)
  gen : BitVec 8
  deriving DecidableEq, Repr

/-- A register write held until an instruction completes (R41). -/
inductive RegWrite where
  | v (j d : Nat) (x : W32)
  | k (d : Nat) (x : W64)
  deriving DecidableEq, Repr

/-- An outstanding long-latency instruction (R41). -/
structure Outst where
  id : Nat
  split : Nat
  pc : W64
  pfx : Option Pfx
  word : W32
  insn : Instr
  dix : W32
  exm : Mask
  window : Nat                      -- instructions that may still issue before it completes
  loads : List Load
  writes : List RegWrite
  done : Mask
  fault : Option FaultRec
  waitsFor : Option Nat             -- the engine command whose end it awaits
  atoms : List Nat                  -- remote atomics it awaits (R207)
  kept : Bool                       -- it has faulted and waits to be performed again (R41)
  ops : List W64                    -- register operands captured at issue (R41)
  sub : Nat                         -- its place in the handler, for the logs of R221 and R223
  acq : Option Nat                  -- acquire scope performed at its end (R138)
  deriving DecidableEq, Repr

/-- Where a store-buffer entry is (R134, R145). -/
inductive Stage where
  | held | compare | sent | granted
  deriving DecidableEq, Repr

/-- One byte of a buffered write: which of its bits it writes (R124) and their values. -/
structure SbByte where
  loc : Loc
  mask : Byte
  val : Byte
  deriving DecidableEq, Repr

/-- Whose write an entry holds, for the fault that it meets at its home (R211, R238): PC, address, thread. -/
structure StoreSrc where
  pc : W64
  addr : W64
  j : Nat
  deriving DecidableEq, Repr

/-- A store-buffer entry, kept until it is acknowledged (R134, R136, R145). -/
structure SbEntry where
  id : Nat
  owners : List Nat                 -- the splits whose loads it forwards to (R134, R24)
  vis : Bool                        -- visible to the whole train (R140)
  dest : Dest
  bytes : List SbByte
  stage : Stage
  rsv : Option Nat                  -- the core whose pool holds its shadow reservation (R164)
  src : StoreSrc
  poison : Bool                     -- its data are poisoned (R128): an engine's
  core : Nat                        -- the core it left from (R120)
  seq : Nat                         -- its place in the order in which homes have granted (R15)
  deriving DecidableEq, Repr

/-- A fence marker sent to a destination (R141): every entry with a smaller id goes before it. -/
structure Marker where
  dest : Dest
  upto : Nat
  acked : Bool
  deriving DecidableEq, Repr

/-- One item a copy of a checked pair sends to the comparator (R227). -/
inductive CmpItem where
  | load (addr : W64) (size : Nat)
  | store (bytes : List SbByte)
  | atom (addr : W64) (op : AtomOp) (a b : W64)
  | control (splits : List (W64 × Mask))
  | command (insn : Instr) (ops : List W64)
  deriving DecidableEq, Repr

/-- Which step of a run something belongs to, the same in every run of a workgroup: the DIX of its instruction, the place
in the handler and the lowest thread of its split, and the position within it. -/
structure StepKey where
  dix : W32
  sub : Nat
  pos : Nat
  deriving DecidableEq, Repr

/-- An item with what waits for it: a store-buffer entry, an outstanding instruction or a streamer command. -/
structure CmpReq where
  key : StepKey
  item : CmpItem
  entry : Option Nat
  since : Nat
  deriving DecidableEq, Repr

/-- What an engine command has written of global memory, for the engine digest (R219). -/
structure EdItem where
  id : Nat
  done : Bool
  bytes : List (Nat × Byte)
  deriving DecidableEq, Repr

/-- What waits in thread 0's digest behind an unfinished TST (R217, R394): keys and words to fold. -/
structure DigItem where
  id : Nat                          -- the TST's outstanding instruction; 0 for what came after it
  done : Bool
  folds : List (W64 × W64)
  deriving DecidableEq, Repr

/-- A train (R12, R24, R45, R134, R140, R217, R241, R247). -/
structure Train where
  trn : Nat
  launched : Mask
  k : Cells W64
  v : Cells W32                     -- key 64 × thread + register
  p : Cells Mask                    -- one bit per thread
  splits : List Split
  outst : List Outst
  sb : List SbEntry
  used : List Dest
  markers : List Marker
  gg : W32
  demoted : Bool                    -- STAT.SCOPE_DEMOTED
  hmode : Bool                      -- STAT.HMODE
  tvec : W64
  tcause : BitVec 17
  trap : FaultRec
  pend : Option FaultRec            -- a fault whose entry waits for outstanding instructions (R241)
  hsplit : Nat                      -- the split that runs the handler
  rdone : Mask                      -- threads that have performed the instruction its split resumes at (R241 step 2)
  privb : BitVec 23
  pb : Nat                          -- private base PB (R109)
  seen : BitVec 16                  -- seen-phase bits (R299)
  dig : Cells W64                   -- thread digests (R217)
  ed : W64                          -- engine digest (R219)
  edq : List EdItem                 -- engine commands in issue order, not yet folded (R219)
  dq : List DigItem                 -- thread 0's folds in program order behind a TST (R217, R394)
  fadds : Cells Nat                 -- earlier floating-point atomics of a thread (R215)
  issues : Nat
  hcount : Nat                      -- instructions issued in the handler
  nextId : Nat
  cmp : List CmpReq                 -- items not yet taken by the comparator
  ended : Bool
  deriving DecidableEq, Repr

/-- A barrier register with the unit's own record of it (R97, R299, R101). -/
structure Bar where
  expect : Nat
  arrived : Nat
  phase : Bool
  strm : Bool
  scope : Bool
  init : Bool
  err : Nat
  pend : W32
  came : BitVec 64                  -- trains that arrived in this phase
  lastErr : Nat                     -- ERR of the phase that completed last
  lastVal : W64                     -- the register's value when it completed
  since : Option Nat                -- the clock from which the watchdog counts (R101)
  held : Nat                        -- cycles it counted before (R300)
  sent : Bool                       -- the leaf's arrival was sent to the root (R100)
  deriving DecidableEq, Repr

/-- A plane of stationary weights (R78). -/
structure Plane where
  w : Nat
  k : Nat
  h : Nat
  slot : Nat
  rows : Cells Byte                 -- key 128 × column + byte of its row
  deriving DecidableEq, Repr

/-- What a workgroup that was pre-empted at the end of its slice yields to (R199): its turn among those that yielded,
the submissions that had workgroups never placed, and the saved workgroups, all waiting for room then. -/
structure Yield where
  turn : Nat
  subs : List Nat
  wgs : List Nat
  deriving DecidableEq, Repr

/-- A workgroup that has been placed (R12, R202, R424). Its trains are in `State.trains`. -/
structure Wg where
  slot : Nat
  sub : Nat
  wgid : Nat
  lpid : Nat
  ctx : BitVec 16
  ctxgen : BitVec 8
  fslot : Option Nat
  mode : RunMode
  place : Place
  placedAt : Nat
  yielded : Option Yield            -- it yielded at the end of a slice (R199)
  share : Cells Byte
  sharePoison : Cells Bool          -- poisoned 32-byte sectors of the share
  bars : Cells Bar
  wdg : W32
  tiles : Cells Byte                -- key 4096 × tile + byte
  active : Plane
  shadow : Plane
  tileMark : Option W64             -- an accumulator tile was not restored (R209)
  accBase : W64
  accSaved : BitVec 256
  saveBase : W64
  atomLog : Nat                     -- atomics logged for an audit (R221)
  normal : Bool                     -- it ended under R27; a fusion group keeps its cores until all have (R198)
  asked : Bool                      -- a pre-emption request is on its way to its core (R204)
  lehrStop : Bool                   -- a command of it has stopped at a line without a shadow entry (R230)
  deriving DecidableEq, Repr

/-- A sector in L1 (R119, R120). -/
structure Sector where
  sec : Nat                         -- box physical address div 32
  priv : Bool
  dirty : Bool
  poison : Bool
  data : List Byte
  deriving DecidableEq, Repr

/-- An entry of a translation cache (R178): a leaf of `512^level` pages from `page`. -/
structure TcEntry where
  tenant : Nat
  page : Nat
  level : Nat
  leaf : W64
  rights : Bool × Bool × Bool       -- the lease rights R, W, X
  deriving DecidableEq, Repr

/-- An entry of the walker's walk cache (R178): the non-leaf entry that the pages from `page` share at a level. -/
structure WcEntry where
  tenant : Nat
  level : Nat
  page : Nat
  entry : W64
  deriving DecidableEq, Repr

/-- A cached shape record (R93). -/
structure RecEntry where
  addr : Nat
  bytes : List Byte
  deriving DecidableEq, Repr

/-- A core's own state (R7, R32, R84 to R86, R93, R119, R178). -/
structure Core where
  l1 : List Sector                  -- most recently used first
  inbox : List Sector               -- sectors that have come for a fetch or a fill and that L1 does not keep (R117, R169)
  l1split : Nat
  tc : List TcEntry
  recs : List RecEntry
  lanes : Cells Nat                 -- instruction issues of each lane
  acc : Cells (BitVec 80)           -- key 1024 × tile + 32 × row + column
  live : BitVec 256                 -- ALIVE0 to ALIVE3
  owner : BitVec 16                 -- ACOWN.OWNER
  valid : Bool                      -- ACOWN.VALID
  deriving DecidableEq, Repr

/-- A line of a mapped region that is present (R117): its dirty sectors. -/
structure RegionLine where
  dirty : BitVec 4
  deriving DecidableEq, Repr

/-- A scratchpad region (R114, R115). -/
structure Region where
  slot : Nat
  sub : Nat
  cluster : Nat
  handle : Nat
  creator : Nat
  holder : Nat
  offered : Option Nat              -- the workgroup it is offered to
  off : Nat
  len : Nat
  map : Option Nat                  -- global virtual address
  lines : Cells RegionLine          -- lines that are not absent
  deriving DecidableEq, Repr

/-- A tensor shape record (R90). -/
structure Shape where
  base : Nat
  slot : Nat
  rank : Nat
  swz : Nat
  rd : Bool
  wr : Bool
  pad : Nat
  dim : List Nat
  stride : List Nat                 -- of dimensions 1 to 4
  box : List Nat
  deriving DecidableEq, Repr

/-- A collective's descriptor (R311). -/
structure CollDesc where
  saddr : Nat
  daddr : Nat
  count : Nat
  chips : BitVec 4
  root : Nat
  op : Nat
  tag : Nat
  deriving DecidableEq, Repr

/-- What a streamer command moves (R94, R316 to R319, R311). -/
inductive StrKind where
  | linear (toShare : Bool) (dst src : W64) (count : Nat)
  | box (toShare : Bool) (scr : W64) (shape : Shape) (origin : List Int)
  | tile (t : Nat) (shape : Shape) (origin : List Int) (mstr : W64)
  | coll (fn : Nat) (desc : CollDesc) (slot : Nat)
  deriving DecidableEq, Repr

/-- A command in a streamer's queue (R94). `pos` counts the units it has moved. -/
structure StrCmd where
  id : Nat
  w : Nat
  t : Nat
  kind : StrKind
  bar : Option Nat
  arv : Bool
  started : Bool
  pos : Nat
  failed : Bool
  mstrId : Option Nat               -- the follow-on MSTR of a CPYM (R95)
  fence : Nat                       -- the train's writes before this id are performed first (R147)
  hand : Bool                       -- issued in handler mode
  ready : Bool                      -- the comparator has matched it (R227)
  origin : Outst                    -- its instruction
  total : Option Nat                -- bytes of a collective in a run that follows, once its original has told
  sent : Option (Nat × Nat × Nat)   -- its unit on the way: the entries from the first id up to the second, and its bytes (R94)
  deriving DecidableEq, Repr

/-- An instruction in a sequencer's queue (R82). -/
structure SeqCmd where
  id : Nat
  w : Nat
  t : Nat
  insn : Instr
  addr : W64                        -- the address register
  idx : Nat                         -- slice index or accumulator index
  dix : W32
  mode : Nat
  sat : Bool
  hand : Bool                       -- issued in handler mode
  started : Bool
  pos : Nat                         -- next row or next chunk pass (R83)
  fault : Option (Cause × W64)
  fence : Nat
  sub : Nat                         -- `StepKey.sub` of its instruction
  outst : Nat                       -- its outstanding instruction
  cpym : Option Nat                 -- the streamer command it follows (R95)
  buf : List Byte                   -- what an ARS has read of its image (R292)
  deriving DecidableEq, Repr

/-- A level of a snapshot domain (R154). -/
structure Level where
  n : Nat
  gen : Nat
  ranges : List (Nat × Nat)
  broken : Bool
  deriving DecidableEq, Repr

/-- A shadow entry (R160). -/
structure Shadow where
  line : Nat
  data : List Byte
  poison : BitVec 4
  oldtag : Nat
  level : Nat
  deriving DecidableEq, Repr

/-- A snapshot command (R158). -/
structure SnapCmd where
  id : Nat
  w : Nat
  t : Nat
  insn : Instr
  op : W64                          -- the address of the list, or the handle
  fence : Nat                       -- the train's writes before this id are performed first (R147)
  released : Bool                   -- an SREJ whose lines are restored and whose release is under way
  deriving DecidableEq, Repr

/-- A snapshot domain (R154, R164, R415). Levels stand innermost first. -/
structure Domain where
  lehr : Nat
  free : Nat
  levels : List Level
  entries : List Shadow
  pools : Cells Nat                 -- by core
  reserves : Cells Nat              -- by home slice
  queue : List SnapCmd
  deriving DecidableEq, Repr

/-- Metadata of a line (R127). -/
structure Meta where
  chk0 : BitVec 14
  chk1 : BitVec 14
  chk2 : BitVec 14
  chk3 : BitVec 14
  tag : Nat
  poison : BitVec 4
  deriving DecidableEq, Repr

/-- A page-frame attribute entry (R171). -/
structure Attr where
  policy : Nat
  pull : Bool
  lost : Bool
  domain : Nat
  vpage : Nat
  pins : BitVec 8
  pulled : BitVec 32
  srcframe : Nat
  deriving DecidableEq, Repr

/-- A lease descriptor (R173). -/
structure Lease where
  base : Nat
  len : Nat
  r : Bool
  w : Bool
  x : Bool
  deriving DecidableEq, Repr

/-- A task record's fields (R184). -/
structure Record where
  entry : W64
  wgcount : Nat
  wgthr : Nat
  prod : Nat
  budget : Nat
  scratch : Nat
  privlim : Nat
  l1split : Nat
  integ : Nat
  audk : Nat
  det : Bool
  coop : Bool
  matrix : Bool
  sysprog : Bool
  evgate : Bool
  prio : Nat
  tenant : Nat
  part : Nat
  lehr : Nat
  seed : W64
  evq : W64
  ckptn : Nat
  slots : List W64
  reads : List (Nat × Nat)
  writes : List (Nat × Nat)
  leases : List Lease
  deriving DecidableEq, Repr

/-- States of R191 and, within them, of R174. -/
inductive TaskSt where
  | edged | gated | held | resolving | waiting | ready | running | retiring | retired
  deriving DecidableEq, Repr

/-- A pinned leaf of a lease (R174, R177). `window` marks the handler window's (R240). -/
structure Pin where
  page : Nat
  level : Nat
  leaf : W64
  window : Bool
  deriving DecidableEq, Repr

/-- How a task or a workgroup ends, for its record of TYPE 4 (R211, R245). -/
structure EndInfo where
  cause : Cause
  pc : W64
  addr : W64
  j : Nat
  wgid : Nat
  deriving DecidableEq, Repr

/-- A value one run logs for its followers (R221, R223, R153): keyed by the logical step. -/
structure LogEntry where
  wgid : Nat
  trn : Nat
  j : Nat
  dix : W32
  sub : Nat
  vals : List W64
  deriving DecidableEq, Repr

/-- A finished run's workgroup digest (R218, R222, R224). -/
structure RunDigest where
  wgid : Nat
  mode : RunMode
  wd : W64
  core : Nat
  attempt : Nat                     -- which run of the interval it belongs to (R231)
  logged : Nat                      -- atomics it logged (R221)
  deriving DecidableEq, Repr

/-- A task in the in-flight table (R188, R191). -/
structure Task where
  sub : Nat                         -- its place in the order of submission, from 1
  rcd : Record
  recAddr : W64
  port : Option Nat
  st : TaskSt
  edges : List Nat                  -- submission numbers it still waits for
  pins : List Pin
  window : Nat × Nat                -- the handler window as it was pinned: first page and pages (R240)
  nextWg : Nat                      -- every workgroup below it has been placed
  ahead : List Nat                  -- further workgroups that have been placed (R197)
  mark : Nat × List Nat             -- the two at the last checkpoint (R229)
  redo : List (Nat × Nat)           -- workgroups of a re-executed interval with their LPIDs (R231)
  endInfo : Option EndInfo
  firstEnd : Option EndInfo         -- the first workgroup that ended by R245
  firstAt : Nat                     -- the cycle in which it did
  dispatched : Bool
  interval : List Nat               -- workgroups that have ended since the last checkpoint closed
  closed : Nat                      -- workgroups of closed checkpoints
  draining : Bool                   -- a checkpoint is closing: nothing new is placed (R229)
  serial : Bool                     -- one workgroup at a time (R230, R231)
  one : Bool                        -- CKPTN taken as 1, for it has exhausted its lehr (R230)
  site : Option Nat                 -- the cluster or pair that re-executes the interval (R231)
  attempts : Nat                    -- mismatches of the interval (R231)
  clusters : List Nat               -- clusters that disagreed or were used (R231)
  digests : List RunDigest
  log : List LogEntry
  audited : List Nat                -- workgroups whose audit is finished or not made
  kept : List (Nat × W64)           -- workgroup digests of kept runs (R218)
  retireStep : Nat
  canceled : Bool
  fuse : Nat                        -- workgroups of its fusion groups, from its dispatch (R198)
  deriving DecidableEq, Repr

/-- A cluster barrier's root (R100). -/
structure Root where
  slot : Nat
  cluster : Nat
  idx : Nat                         -- barrier index, 16 × run mode added
  members : List Nat
  arrived : List Nat
  since : Option Nat
  held : Nat
  deriving DecidableEq, Repr

/-- A completion record that waits for its queue (R102). -/
structure Post where
  slot : Nat
  sub : Nat
  type : Nat
  cause : Nat
  evq : W64
  task : W64
  tenant : Nat
  port : Option Nat
  elapsed : W64
  payload : List Byte               -- bytes 0x18 to 0x3F
  outst : Option (Nat × Nat × Nat)  -- the EVPST that waits for it
  deriving DecidableEq, Repr

/-- An entry of the fabric agent's response table (R207). -/
structure Resp where
  id : Nat
  w : Nat
  t : Nat
  o : Nat
  j : Nat
  pa : Nat
  op : AtomOp
  a : W64
  b : W64
  ready : Bool                      -- level 3: the comparator has matched it (R227)
  rsv : Bool                        -- it holds a shadow reservation (R164)
  answer : Option AtomAnswer        -- the response that waits for its context (R207)
  deriving DecidableEq, Repr

/-- A recorded floating-point atomic of a deterministic task (R215): the chip and slot of its task, its target. -/
structure Deferred where
  chip : Nat
  slot : Nat
  loc : Loc
  bf16 : Bool
  operand : W32
  wgid : Nat
  trn : Nat
  j : Nat
  n : Nat
  deriving DecidableEq, Repr

/-- A collective in progress on this chip (R312): the parts of the participants that have come, this chip's own as far
as it has been read. -/
structure Coll where
  id : Nat
  tenant : Nat
  fn : Nat
  tag : Nat
  cmd : Nat
  ctx : Option Nat                  -- the reduction context of the fabric agent that it holds (R256)
  parts : Cells Contribution        -- by chip
  deriving DecidableEq, Repr

/-- What L2 holds of a guest line (R146). -/
structure Guest where
  data : List Byte
  poison : BitVec 4
  gen : W32
  deriving DecidableEq, Repr

/-- A line present in L2 (R121, R123, R146): its box line number, its way, the tenant that allocated it, its valid and dirty
sectors, and the data of a guest line; a home line's data are main memory's. -/
structure L2Line where
  line : Nat
  way : Nat
  tenant : Nat
  valid : BitVec 4
  dirty : BitVec 4
  guest : Option Guest
  deriving DecidableEq, Repr

/-- A way mask (R122). -/
structure WayMask where
  ways : BitVec 16
  busy : Bool
  removed : BitVec 16               -- ways still to be emptied (R123)
  deriving DecidableEq, Repr

/-- A partition descriptor (R193). -/
structure Part where
  cores : W64
  word1 : W64
  deriving DecidableEq, Repr

/-- A handler descriptor (R240). -/
structure HDesc where
  vec : W64
  wbase : W64
  wlen : W64
  fslots : W64
  deriving DecidableEq, Repr

/-- A leaky bucket (R235) and the clock of its last leak. -/
structure Bucket where
  fill : Nat
  mark : Nat
  leak : Nat
  evt : Bool
  leaked : Nat
  deriving DecidableEq, Repr

/-- A corrected error in a classifier (R234). -/
structure ErrEntry where
  bank : Nat
  row : Nat
  column : Nat
  since : Nat
  deriving DecidableEq, Repr

/-- A virtual channel of a Wituisk port (R255). -/
structure Chan where
  level : Nat                       -- flits in the receive buffer
  paused : Bool                     -- this side has sent a pause
  stopped : Bool                    -- the peer has paused this side
  retries : Nat
  deriving DecidableEq, Repr

/-- A Wituisk port (R255, R10, R236). -/
structure Link where
  up : Bool
  low : Bool
  high : Bool
  dup : Bool
  lost : Bool
  downAt : Nat                      -- supervisor clock when it went down
  chans : List Chan
  deriving DecidableEq, Repr

/-- An Ethernet port (R249, R250). -/
structure Eth where
  drops : Nat
  clock : Int
  gates : List (Nat × BitVec 8)     -- gate control list: interval and open gates
  gatePos : Nat
  gateOpen : BitVec 8
  deriving DecidableEq, Repr

/-- What the chip sends to the host (R252, R423). -/
structure OutFrame where
  port : Nat
  cmd : Nat
  tenant : Nat
  seq : Nat
  addr : W64
  status : Nat
  data : List Byte
  stamp : W64                       -- its port's clock as it was sent (R250)
  deriving DecidableEq, Repr

/-- Power states of R257 to R259. -/
inductive Power where
  | inReset | run | runLow | hold | off | stopped | bootFailed
  deriving DecidableEq, Repr

/-- The operation of a PAGE command (R252). -/
inductive PageOp where
  | unmap | protect | discard | migrate
  deriving DecidableEq, Repr

/-- The operation that a PAGE command's data name (R252). DESIGN CHOICE: notes/assumptions/12.md. -/
def PageOp.ofCode : Nat → Option PageOp
  | 0 => some .unmap
  | 1 => some .protect
  | 2 => some .discard
  | 3 => some .migrate
  | _ => none

/-- What a request of the host asks (R252). -/
inductive HostOp where
  | write | read | submit | cancel | retry | cfgw | cfgr | page | pair | power | repair | attest
  | unknown (cmd : Nat)
  deriving DecidableEq, Repr

/-- A request in the frame engine's queue (R253). -/
structure HostReq where
  op : HostOp
  frame : Frame
  deriving DecidableEq, Repr

/-- What the control core does as an agent of the chip (R7, R130, R188, R189, R328), at virtual addresses of a tenant. DESIGN CHOICE:
notes/assumptions/91.md. -/
inductive ControlOp where
  | load (tenant va n : Nat)
  | store (tenant va : Nat) (data : List Byte)
  | lnch (tenant va : Nat) (d : RemoteData)
  | evpop (tenant va : Nat)
  | trel (tag : W64)
  deriving DecidableEq, Repr

/-- What happens next: an event of spec/opcode_table.json; the lane of a train issues its next instruction; a pre-emption request
reaches a workgroup in whose trains instructions are under way, each after a number of its thread steps (R43); the control core
acts; a resident L2 sector meets an error that its code cannot correct (R121); the management of a port's network loads its gate
control list (R249). -/
inductive Move where
  | event (i : Instr)
  | issue (w t : Nat)
  | cut (w : Nat) (ts : List (Nat × Nat))
  | control (c : ControlOp)
  | upset (line sector : Nat)
  | gates (port : Nat) (list : List (Nat × BitVec 8))
  deriving DecidableEq, Repr

/-- The issuing split: workgroup, train, split. -/
structure Cursor where
  w : Nat
  t : Nat
  p : Nat
  deriving DecidableEq, Repr

/-- The machine. -/
structure State where
  -- chip, board and time
  power : Power
  pinChipId : Nat
  pinHostPort : BitVec 2
  chipId : Nat
  hostPort : BitVec 2
  gated : BitVec 16
  clock : Nat
  supClock : Nat
  agenda : List Move
  free : Nat
  nextId : Nat
  cur : Option Cursor
  fetched : W32                     -- the word being executed
  out : List OutFrame
  hostQ : List HostReq
  mctl : Bool
  thermtrip : Bool                  -- the THERMTRIP pin (R259)
  ctl : List W64                    -- what the control core's last operation gave it
  -- memory
  mem : List Host.Cell
  lineInfo : Cells Meta
  attrs : Cells Attr                -- by box frame number
  l2 : List L2Line                  -- most recently used first
  wayMask : Cells WayMask           -- key 16 × slice + tenant
  bxgen : W32
  tablePool : List Nat
  revivals : List (Nat × Nat)       -- discarded pages a write waits for: tenant and page (R181)
  walks : List WcEntry              -- the walk cache (R178)
  pulls : List Nat                  -- box lines whose pull an access has started (R182)
  -- cores, workgroups, trains
  cores : Cells Core
  wgs : List Wg
  trains : Cells Train              -- key 64 × workgroup + train
  strQ : List StrCmd
  seqQ : List SeqCmd
  regions : List Region
  roots : List Root
  -- tasks
  tasks : Cells Task
  subNext : Nat
  reserved : List Nat               -- cores that the last selection reserved (R196)
  posts : List Post
  doms : Cells Domain
  defer : List Deferred
  resp : List Resp
  -- host registers
  troot : Cells W64
  parts : Cells Part
  tenpol : Cells W64
  hdesc : Cells HDesc
  buckets : Cells Bucket
  paired : BitVec 8
  faulty : BitVec 16
  redOwner : Cells (BitVec 16)
  -- ports, links, errors
  eth : List Eth
  links : List Link
  dead : BitVec 4
  unreach : BitVec 4
  reports : Cells (BitVec 4)
  colls : List Coll
  classif : Cells (List ErrEntry)
  repaired : List (Nat × Nat × Nat) -- rows that post-package repair has replaced (R234): controller, bank, row
  cmps : Cells (List CmpReq)        -- unmatched requests, key 128 × workgroup + 2 × train + copy
  deriving DecidableEq, Repr

/-- Why the model itself stops. -/
inductive Fault where
  /-- `exec` of an instruction word with no issuing split (`State.cur` empty or naming none). Raised by Ops.issue;
  safe: the machine issues an instruction only for a split, and `step` always names one. -/
  | noSplit
  deriving DecidableEq, Repr

/-- What the model does not act on. -/
inductive Refusal where
  /-- An arm of `exec` without a meaning yet. Raised by Dispatch.exec; safe. -/
  | notModelled (mnemonic : String)
  /-- An event term that names no part of the chip or carries another row's command (WellFormed.lean). Raised by
  Ops.event; safe: no such event can occur. -/
  | illFormed
  deriving DecidableEq, Repr

/-- A trap record before any trap (R247: TCAUSE 0). -/
def FaultRec.reset : FaultRec :=
  ⟨.illegal, 0, false, false, 0, 0, false, 0, 0, 0, 0, 0, 0, false⟩

/-- A virtual channel with nothing in it. -/
def Chan.reset : Chan := ⟨0, false, false, 0⟩

/-- A port before training (R255). -/
def Link.reset : Link := ⟨false, false, false, false, false, 0, [.reset, .reset, .reset, .reset]⟩

/-- An Ethernet port at reset (DESIGN CHOICE, notes/assumptions/9.md). -/
def Eth.reset : Eth := ⟨0, 0, [], 0, 0xFF⟩

/-- The machine right after board reset, before bring-up (R257 step 1). DESIGN CHOICE: notes/assumptions/4.md. -/
def State.reset : State where
  power := .inReset
  pinChipId := 0
  pinHostPort := 3
  chipId := 0
  hostPort := 0
  gated := 0
  clock := 0
  supClock := 0
  agenda := []
  free := 0
  nextId := 0
  cur := none
  fetched := 0
  out := []
  hostQ := []
  mctl := false
  thermtrip := false
  ctl := []
  mem := []
  lineInfo := []
  attrs := []
  l2 := []
  wayMask := []
  bxgen := 0
  tablePool := []
  revivals := []
  walks := []
  pulls := []
  cores := []
  wgs := []
  trains := []
  strQ := []
  seqQ := []
  regions := []
  roots := []
  tasks := []
  subNext := 1
  reserved := []
  posts := []
  doms := []
  defer := []
  resp := []
  troot := []
  parts := []
  tenpol := []
  hdesc := []
  buckets := []
  paired := 0
  faulty := 0
  redOwner := []
  eth := [.reset, .reset]
  links := [.reset, .reset, .reset]
  dead := 0
  unreach := 0
  reports := []
  colls := []
  classif := []
  repaired := []
  cmps := []

end Sys2Proof.Machine
end

