-- ==== Sys2Proof/Machine/Cells.lean ====
section
/-! DEFINITION. Sparse maps: lists of key and value in one canonical form (strictly rising keys, no entry equal to what
an unlisted key reads as). -/

namespace Sys2Proof.Machine

/-- The entry of a key. -/
def Cells.look {α : Type} : Cells α → Nat → Option α
  | [], _ => none
  | (a, x) :: m, k => if a = k then some x else Cells.look m k

/-- What a key reads as: its entry, or the default `d`. -/
def Cells.val {α : Type} (m : Cells α) (d : α) (k : Nat) : α := (m.look k).getD d

/-- Set the entry of a key, keeping the keys rising. -/
def Cells.put {α : Type} : Cells α → Nat → α → Cells α
  | [], k, x => [(k, x)]
  | (a, y) :: m, k, x =>
    if k < a then (k, x) :: (a, y) :: m
    else if k = a then (k, x) :: m
    else (a, y) :: Cells.put m k x

/-- Remove the entry of a key. -/
def Cells.del {α : Type} : Cells α → Nat → Cells α
  | [], _ => []
  | (a, y) :: m, k => if k = a then Cells.del m k else (a, y) :: Cells.del m k

/-- Write `x` at a key of a map whose unlisted keys read as `d`: writing `d` removes the entry. -/
def Cells.store {α : Type} [DecidableEq α] (m : Cells α) (d : α) (k : Nat) (x : α) : Cells α :=
  if x = d then m.del k else m.put k x

/-- Every key of the map is above `k`. -/
def Cells.above {α : Type} (k : Nat) (m : Cells α) : Bool := m.all fun e => decide (k < e.1)

/-- Strictly rising keys. -/
def Cells.rising {α : Type} : Cells α → Bool
  | [] => true
  | (a, _) :: m => Cells.above a m && Cells.rising m

/-- The canonical form of a map whose unlisted keys read as `d`. -/
def Cells.wf {α : Type} [DecidableEq α] (d : α) (m : Cells α) : Bool :=
  m.rising && m.all fun e => decide (e.2 ≠ d)

/-- Apply `f` to every value. -/
def Cells.mapVals {α : Type} (f : α → α) (m : Cells α) : Cells α := m.map fun e => (e.1, f e.2)

/-- What a byte of main memory that nothing has written reads as (R257 step 3; DEDUCED, notes/assumptions/1.md). -/
def memDefault : Byte := 0#8

/-- Main memory is in canonical form. -/
def Memory.wf (m : List Host.Cell) : Bool := Cells.wf memDefault m

/-- The byte at a chip offset. -/
def Memory.read (m : List Host.Cell) (a : Nat) : Byte := Cells.val m memDefault a

/-- Write the byte at a chip offset. -/
def Memory.write (m : List Host.Cell) (a : Nat) (b : Byte) : List Host.Cell := Cells.store m memDefault a b

/-- `n` bytes from a chip offset. -/
def Memory.readN (m : List Host.Cell) (a : Nat) : Nat → List Byte
  | 0 => []
  | n + 1 => Memory.read m a :: Memory.readN m (a + 1) n

/-- Write bytes from a chip offset on. -/
def Memory.writeN (m : List Host.Cell) (a : Nat) : List Byte → List Host.Cell
  | [] => m
  | b :: bs => Memory.writeN (Memory.write m a b) (a + 1) bs

end Sys2Proof.Machine
end

