-- ==== Sys2Proof/Machine/Bits.lean ====
section
/-! DEFINITION. Bytes and numbers (R3), bit counts, thread masks, check values (R125), digests (R217). -/

namespace Sys2Proof.Machine

/-- The number whose bytes are given, lowest first (R3). -/
def ofBytes : List Byte → Nat
  | [] => 0
  | b :: bs => b.toNat + 256 * ofBytes bs

/-- The low `n` bytes of a number, lowest first (R3). -/
def toBytes (x : Nat) : Nat → List Byte
  | 0 => []
  | n + 1 => BitVec.ofNat 8 x :: toBytes (x / 256) n

/-- A word of 64 bits from 8 bytes. -/
def word64 (bs : List Byte) : W64 := BitVec.ofNat 64 (ofBytes bs)

/-- Number of set bits among the low `n` (R371). -/
def popcount (x : Nat) : Nat → Nat
  | 0 => 0
  | n + 1 => (if x.testBit n then 1 else 0) + popcount x n

/-- Zero bits above the highest set bit of a `w`-bit value (R314). -/
def leadingZeros (w x : Nat) : Nat := if x % 2 ^ w = 0 then w else w - 1 - (x % 2 ^ w).log2

/-- The least `i` below `n` from `i0` with bit `i` set, else `i0 + n`. -/
def lowestFrom (x : Nat) : Nat → Nat → Nat
  | 0, i => i
  | n + 1, i => if x.testBit i then i else lowestFrom x n (i + 1)

/-- Zero bits below the lowest set bit of a `w`-bit value (R323). -/
def trailingZeros (w x : Nat) : Nat := lowestFrom x w 0

/-- The value whose bit `w - 1 - i` is bit `i` of `x`, for `i` below `w` (R306). -/
def reverseBits (w x : Nat) : Nat → Nat
  | 0 => 0
  | n + 1 => (if x.testBit n then 2 ^ (w - 1 - n) else 0) + reverseBits w x n

/-- The threads of a mask in ascending index. -/
def maskThreads (m : Mask) : List Nat := (List.range 32).filter fun j => m.getLsbD j

/-- The number whose bit `j` is `f j`, for `j` below `n`. -/
def bitsOf (f : Nat → Bool) : Nat → Nat
  | 0 => 0
  | n + 1 => bitsOf f n + if f n then 2 ^ n else 0

/-- The mask of the threads for which `f` holds. -/
def maskOf (f : Nat → Bool) : Mask := BitVec.ofNat 32 (bitsOf f 32)

/-- The number of threads of a mask. -/
def maskCount (m : Mask) : Nat := popcount m.toNat 32

/-- The eight bits of a byte in the opposite order. -/
def reverse8 (b : Nat) : Nat := (b * 0x0202020202 &&& 0x010884422010) % 1023

/-- Bit `i` of the answer is the XOR of the bits `i` and `i + k` of `u`. -/
def crcFeed (u k : Nat) : Nat := u ^^^ (u >>> k)

/-- Bits 0 to 7 of a byte into the CRC of R125, all at once: `q` holds the eight XORs with register bit 13, the first in bit 7.
`crcByte_eq` (Laws/Check.lean) says that this is R125's rule, bit after bit. -/
def crcByte (r : Nat) (b : Byte) : Nat :=
  let q := crcFeed (crcFeed (crcFeed ((r >>> 6) ^^^ reverse8 b.toNat) 1) 2) 4
  ((r <<< 8) ^^^ (q <<< 13) ^^^ (q <<< 5) ^^^ (q <<< 3) ^^^ (q <<< 2) ^^^ q) % 2 ^ 14

/-- The check value of a sector (R125). -/
def checkValue (bs : List Byte) : BitVec 14 := BitVec.ofNat 14 (bs.foldl crcByte 0x3FFF)

/-- Sector `i` of what another chip sent: its 32 bytes. -/
def remoteSector (d : RemoteData) (i : Nat) : List Byte := (List.range 32).map fun k => d.bytes.getD (32 * i + k) 0

/-- Whether sector `i` of what another chip sent is poisoned, as it comes or because its check value fails on the link (R126,
R128). -/
def remoteBad (d : RemoteData) (i : Nat) : Bool :=
  d.poison.getD i false || match d.chk[i]? with
    | some c => c != checkValue (remoteSector d i)
    | none => false

/-- MIX64 of R217. -/
def mix64 (x : W64) : W64 :=
  let x := x ^^^ (x >>> 31)
  let x := x * 0xB4F16C2D93A5E817#64
  let x := x ^^^ (x >>> 29)
  let x := x * 0x8C3D57E91A6BF2C5#64
  x ^^^ (x >>> 32)

/-- FOLD of R217. -/
def fold (d key w : W64) : W64 := mix64 (mix64 (d ^^^ key) ^^^ w)

/-- Sum, modulo 2^48: branch and call targets (R260). -/
def pc48 (x : Nat) : W64 := BitVec.ofNat 64 (x % 2 ^ 48)

/-- `x + 4 × off`, off in `width` bits two's complement, modulo 2^48 (R273). -/
def target (pc : W64) (width off : Nat) : W64 :=
  pc48 (((pc.toNat : Int) + 4 * signedOf width off) % (2 ^ 48 : Int)).toNat

/-- Replace the `i`-th element. -/
def listSet {α : Type} (l : List α) (i : Nat) (x : α) : List α := l.set i x

/-- The first `x` of a range `[a, a + n)` for which `f` holds. -/
def firstFrom (f : Nat → Bool) : Nat → Nat → Option Nat
  | 0, _ => none
  | n + 1, a => if f a then some a else firstFrom f n (a + 1)

/-- Insert into an ascending list. -/
def insertNat (x : Nat) : List Nat → List Nat
  | [] => [x]
  | y :: ys => if x ≤ y then x :: y :: ys else y :: insertNat x ys

/-- Sort ascending. -/
def sortNat : List Nat → List Nat
  | [] => []
  | x :: xs => insertNat x (sortNat xs)

end Sys2Proof.Machine
end

