-- ==== Sys2Proof/Machine/Operands.lean ====
section
/-! DEFINITION. What each instruction names: the v registers its fields name (R36, R261), its destinations (R265), its
form's properties (R21, R263, R265), the prefixes it accepts (R266, R267, R137), and its operand forms: immediates,
effective addresses (R106), slices (R76). -/

namespace Sys2Proof.Machine

/-- A group of `n` registers from `d` (R261). -/
def group (d : BitVec 6) (n : Nat) : List Nat := (List.range n).map fun i => d.toNat + i

/-- The v registers an instruction names, groups included: BUDGET is checked on them (R36, R261). -/
def vNames : Instr → List Nat
  | .add d a b _ => [d.toNat, a.toNat, b.toNat]
  | .addc d a b _ => [d.toNat, a.toNat, b.toNat]
  | .sub d a b _ => [d.toNat, a.toNat, b.toNat]
  | .subb d a b _ => [d.toNat, a.toNat, b.toNat]
  | .mul d a b _ => [d.toNat, a.toNat, b.toNat]
  | .mulhS d a b _ => [d.toNat, a.toNat, b.toNat]
  | .mulhU d a b _ => [d.toNat, a.toNat, b.toNat]
  | .minS d a b _ => [d.toNat, a.toNat, b.toNat]
  | .minU d a b _ => [d.toNat, a.toNat, b.toNat]
  | .maxS d a b _ => [d.toNat, a.toNat, b.toNat]
  | .maxU d a b _ => [d.toNat, a.toNat, b.toNat]
  | .abs d a _ => [d.toNat, a.toNat]
  | .neg d a _ => [d.toNat, a.toNat]
  | .popc d a _ => [d.toNat, a.toNat]
  | .clz d a _ => [d.toNat, a.toNat]
  | .ctz d a _ => [d.toNat, a.toNat]
  | .brev d a _ => [d.toNat, a.toNat]
  | .mov d a _ => [d.toNat, a.toNat]
  | .movVK d _ _ => [d.toNat]
  | .and d a b _ => [d.toNat, a.toNat, b.toNat]
  | .andn d a b _ => [d.toNat, a.toNat, b.toNat]
  | .or d a b _ => [d.toNat, a.toNat, b.toNat]
  | .xor d a b _ => [d.toNat, a.toNat, b.toNat]
  | .not d a _ => [d.toNat, a.toNat]
  | .shl d a b _ => [d.toNat, a.toNat, b.toNat]
  | .shr d a b _ => [d.toNat, a.toNat, b.toNat]
  | .sra d a b _ => [d.toNat, a.toNat, b.toNat]
  | .rot d a b _ => [d.toNat, a.toNat, b.toNat]
  | .bfxU d a b _ => [d.toNat, a.toNat, b.toNat]
  | .bfxS d a b _ => [d.toNat, a.toNat, b.toNat]
  | .mad d a b _ => [d.toNat, a.toNat, b.toNat]
  | .bfi d a b _ => [d.toNat, a.toNat, b.toNat]
  | .lea0 d a b _ => [d.toNat, a.toNat, b.toNat]
  | .lea1 d a b _ => [d.toNat, a.toNat, b.toNat]
  | .lea2 d a b _ => [d.toNat, a.toNat, b.toNat]
  | .lea3 d a b _ => [d.toNat, a.toNat, b.toNat]
  | .cmp _ _ a b _ _ _ => [a.toNat, b.toNat]
  | .sel d a b _ _ => [d.toNat, a.toNat, b.toNat]
  | .divU d a b _ _ => [d.toNat, a.toNat, b.toNat]
  | .remU d a b _ _ => [d.toNat, a.toNat, b.toNat]
  | .divS d a b _ _ => [d.toNat, a.toNat, b.toNat]
  | .remS d a b _ _ => [d.toNat, a.toNat, b.toNat]
  | .fadd d a b _ _ => [d.toNat, a.toNat, b.toNat]
  | .fsub d a b _ _ => [d.toNat, a.toNat, b.toNat]
  | .fmul d a b _ _ => [d.toNat, a.toNat, b.toNat]
  | .fmin d a b _ _ => [d.toNat, a.toNat, b.toNat]
  | .fmax d a b _ _ => [d.toNat, a.toNat, b.toNat]
  | .frnd d a _ _ => [d.toNat, a.toNat]
  | .ffma d a b _ _ => [d.toNat, a.toNat, b.toNat]
  | .ffmaSub d a b _ _ => [d.toNat, a.toNat, b.toNat]
  | .ffmaNeg d a b _ _ => [d.toNat, a.toNat, b.toNat]
  | .fcmp _ _ a b _ _ _ => [a.toNat, b.toNat]
  | .fdiv d a b _ _ => [d.toNat, a.toNat, b.toNat]
  | .fsqrt d s _ _ => [d.toNat, s.toNat]
  | .frcp d s _ _ => [d.toNat, s.toNat]
  | .frsq d s _ _ => [d.toNat, s.toNat]
  | .fsinp d s _ _ => [d.toNat, s.toNat]
  | .fcosp d s _ _ => [d.toNat, s.toNat]
  | .fex2 d s _ _ => [d.toNat, s.toNat]
  | .flg2 d s _ _ => [d.toNat, s.toNat]
  | .packBf16 d a b _ => [d.toNat, a.toNat, b.toNat]
  | .packF16 d a b _ => [d.toNat, a.toNat, b.toNat]
  | .unpkBf16Lo d s _ => [d.toNat, s.toNat]
  | .unpkBf16Hi d s _ => [d.toNat, s.toNat]
  | .unpkF16Lo d s _ => [d.toNat, s.toNat]
  | .unpkF16Hi d s _ => [d.toNat, s.toNat]
  | .cvt d s _ _ _ _ => [d.toNat, s.toNat]
  | .addImm d a _ _ => [d.toNat, a.toNat]
  | .andImm d a _ _ => [d.toNat, a.toNat]
  | .orImm d a _ _ => [d.toNat, a.toNat]
  | .xorImm d a _ _ => [d.toNat, a.toNat]
  | .shlImm d a _ _ => [d.toNat, a.toNat]
  | .shrImm d a _ _ => [d.toNat, a.toNat]
  | .sraImm d a _ _ => [d.toNat, a.toNat]
  | .rotImm d a _ _ => [d.toNat, a.toNat]
  | .cmpImm _ _ a _ _ _ _ => [a.toNat]
  | .movi d _ _ => [d.toNat]
  | .moviHi d _ _ => [d.toNat]
  | .ld d x _ w _ _ => x.toNat :: group d (widthRegs w.toNat)
  | .ldS d x _ _ _ _ => [x.toNat, d.toNat]
  | .st d x _ w _ _ => x.toNat :: group d (widthRegs w.toNat)
  | .atomAdd d x _ _ _ => [x.toNat, d.toNat]
  | .atomAnd d x _ _ _ => [x.toNat, d.toNat]
  | .atomOr d x _ _ _ => [x.toNat, d.toNat]
  | .atomXor d x _ _ _ => [x.toNat, d.toNat]
  | .atomMinS d x _ _ _ => [x.toNat, d.toNat]
  | .atomMaxS d x _ _ _ => [x.toNat, d.toNat]
  | .atomMinU d x _ _ _ => [x.toNat, d.toNat]
  | .atomMaxU d x _ _ _ => [x.toNat, d.toNat]
  | .atomExch32 d x _ _ _ => [x.toNat, d.toNat]
  | .atomCas32 d x _ _ _ => [x.toNat, d.toNat, d.toNat + 1]
  | .atomAdd64 d x _ _ _ => [x.toNat, d.toNat, d.toNat + 1]
  | .atomExch64 d x _ _ _ => [x.toNat, d.toNat, d.toNat + 1]
  | .atomCas64 d x _ _ _ => [x.toNat, d.toNat, d.toNat + 1, d.toNat + 2, d.toNat + 3]
  | .atomFaddF32 d x _ _ _ => [x.toNat, d.toNat]
  | .atomFaddBf16x2 d x _ _ _ => [x.toNat, d.toNat]
  | .xchUp d s _ _ => [d.toNat, s.toNat]
  | .xchDn d s _ _ => [d.toNat, s.toNat]
  | .xchXor d s _ _ => [d.toNat, s.toNat]
  | .xchIdx d s _ => [d.toNat, s.toNat]
  | .xbc d s _ _ => [d.toNat, s.toNat]
  | .xredAddI32 d s _ => [d.toNat, s.toNat]
  | .xredAddF32 d s _ => [d.toNat, s.toNat]
  | .xredMinS d s _ => [d.toNat, s.toNat]
  | .xredMaxS d s _ => [d.toNat, s.toNat]
  | .xredMinF32 d s _ => [d.toNat, s.toNat]
  | .xredMaxF32 d s _ => [d.toNat, s.toNat]
  | .xscnAddI32 d s _ => [d.toNat, s.toNat]
  | .xscnAddF32 d s _ => [d.toNat, s.toNat]
  | .xscnMinS d s _ => [d.toNat, s.toNat]
  | .xscnMaxS d s _ => [d.toNat, s.toNat]
  | .xscnMinF32 d s _ => [d.toNat, s.toNat]
  | .xscnMaxF32 d s _ => [d.toNat, s.toNat]
  | .voteBallot d _ _ => [d.toNat]
  | .xshc d s _ _ => [d.toNat, s.toNat]
  | .calli s _ => [s.toNat]
  | .csrr d c _ => if c.toNat = 1 then [d.toNat] else []
  | _ => []

/-- The v registers an instruction writes. -/
def vDests : Instr → List Nat
  | .add d _ _ _ => [d.toNat]
  | .addc d _ _ _ => [d.toNat]
  | .sub d _ _ _ => [d.toNat]
  | .subb d _ _ _ => [d.toNat]
  | .mul d _ _ _ => [d.toNat]
  | .mulhS d _ _ _ => [d.toNat]
  | .mulhU d _ _ _ => [d.toNat]
  | .minS d _ _ _ => [d.toNat]
  | .minU d _ _ _ => [d.toNat]
  | .maxS d _ _ _ => [d.toNat]
  | .maxU d _ _ _ => [d.toNat]
  | .abs d _ _ => [d.toNat]
  | .neg d _ _ => [d.toNat]
  | .popc d _ _ => [d.toNat]
  | .clz d _ _ => [d.toNat]
  | .ctz d _ _ => [d.toNat]
  | .brev d _ _ => [d.toNat]
  | .mov d _ _ => [d.toNat]
  | .movVK d _ _ => [d.toNat]
  | .and d _ _ _ => [d.toNat]
  | .andn d _ _ _ => [d.toNat]
  | .or d _ _ _ => [d.toNat]
  | .xor d _ _ _ => [d.toNat]
  | .not d _ _ => [d.toNat]
  | .shl d _ _ _ => [d.toNat]
  | .shr d _ _ _ => [d.toNat]
  | .sra d _ _ _ => [d.toNat]
  | .rot d _ _ _ => [d.toNat]
  | .bfxU d _ _ _ => [d.toNat]
  | .bfxS d _ _ _ => [d.toNat]
  | .mad d _ _ _ => [d.toNat]
  | .bfi d _ _ _ => [d.toNat]
  | .lea0 d _ _ _ => [d.toNat]
  | .lea1 d _ _ _ => [d.toNat]
  | .lea2 d _ _ _ => [d.toNat]
  | .lea3 d _ _ _ => [d.toNat]
  | .sel d _ _ _ _ => [d.toNat]
  | .divU d _ _ _ _ => [d.toNat]
  | .remU d _ _ _ _ => [d.toNat]
  | .divS d _ _ _ _ => [d.toNat]
  | .remS d _ _ _ _ => [d.toNat]
  | .fadd d _ _ _ _ => [d.toNat]
  | .fsub d _ _ _ _ => [d.toNat]
  | .fmul d _ _ _ _ => [d.toNat]
  | .fmin d _ _ _ _ => [d.toNat]
  | .fmax d _ _ _ _ => [d.toNat]
  | .frnd d _ _ _ => [d.toNat]
  | .ffma d _ _ _ _ => [d.toNat]
  | .ffmaSub d _ _ _ _ => [d.toNat]
  | .ffmaNeg d _ _ _ _ => [d.toNat]
  | .fdiv d _ _ _ _ => [d.toNat]
  | .fsqrt d _ _ _ => [d.toNat]
  | .frcp d _ _ _ => [d.toNat]
  | .frsq d _ _ _ => [d.toNat]
  | .fsinp d _ _ _ => [d.toNat]
  | .fcosp d _ _ _ => [d.toNat]
  | .fex2 d _ _ _ => [d.toNat]
  | .flg2 d _ _ _ => [d.toNat]
  | .packBf16 d _ _ _ => [d.toNat]
  | .packF16 d _ _ _ => [d.toNat]
  | .unpkBf16Lo d _ _ => [d.toNat]
  | .unpkBf16Hi d _ _ => [d.toNat]
  | .unpkF16Lo d _ _ => [d.toNat]
  | .unpkF16Hi d _ _ => [d.toNat]
  | .cvt d _ _ _ _ _ => [d.toNat]
  | .addImm d _ _ _ => [d.toNat]
  | .andImm d _ _ _ => [d.toNat]
  | .orImm d _ _ _ => [d.toNat]
  | .xorImm d _ _ _ => [d.toNat]
  | .shlImm d _ _ _ => [d.toNat]
  | .shrImm d _ _ _ => [d.toNat]
  | .sraImm d _ _ _ => [d.toNat]
  | .rotImm d _ _ _ => [d.toNat]
  | .movi d _ _ => [d.toNat]
  | .moviHi d _ _ => [d.toNat]
  | .ld d _ _ w _ _ => group d (widthRegs w.toNat)
  | .ldS d _ _ _ _ _ => [d.toNat]
  | .atomAdd d _ _ _ _ => [d.toNat]
  | .atomAnd d _ _ _ _ => [d.toNat]
  | .atomOr d _ _ _ _ => [d.toNat]
  | .atomXor d _ _ _ _ => [d.toNat]
  | .atomMinS d _ _ _ _ => [d.toNat]
  | .atomMaxS d _ _ _ _ => [d.toNat]
  | .atomMinU d _ _ _ _ => [d.toNat]
  | .atomMaxU d _ _ _ _ => [d.toNat]
  | .atomExch32 d _ _ _ _ => [d.toNat]
  | .atomCas32 d _ _ _ _ => [d.toNat]
  | .atomAdd64 d _ _ _ _ => [d.toNat, d.toNat + 1]
  | .atomExch64 d _ _ _ _ => [d.toNat, d.toNat + 1]
  | .atomCas64 d _ _ _ _ => [d.toNat, d.toNat + 1]
  | .atomFaddF32 d _ _ _ _ => [d.toNat]
  | .atomFaddBf16x2 d _ _ _ _ => [d.toNat]
  | .xchUp d _ _ _ => [d.toNat]
  | .xchDn d _ _ _ => [d.toNat]
  | .xchXor d _ _ _ => [d.toNat]
  | .xchIdx d _ _ => [d.toNat]
  | .xbc d _ _ _ => [d.toNat]
  | .xredAddI32 d _ _ => [d.toNat]
  | .xredAddF32 d _ _ => [d.toNat]
  | .xredMinS d _ _ => [d.toNat]
  | .xredMaxS d _ _ => [d.toNat]
  | .xredMinF32 d _ _ => [d.toNat]
  | .xredMaxF32 d _ _ => [d.toNat]
  | .xscnAddI32 d _ _ => [d.toNat]
  | .xscnAddF32 d _ _ => [d.toNat]
  | .xscnMinS d _ _ => [d.toNat]
  | .xscnMaxS d _ _ => [d.toNat]
  | .xscnMinF32 d _ _ => [d.toNat]
  | .xscnMaxF32 d _ _ => [d.toNat]
  | .voteBallot d _ _ => [d.toNat]
  | .xshc d _ _ _ => [d.toNat]
  | .csrr d c _ => if c.toNat = 1 then [d.toNat] else []
  | _ => []

/-- The k registers an instruction writes. -/
def kDests : Instr → List Nat
  | .addK d _ _ => [d.toNat]
  | .subK d _ _ => [d.toNat]
  | .mulK d _ _ => [d.toNat]
  | .mulhSK d _ _ => [d.toNat]
  | .mulhUK d _ _ => [d.toNat]
  | .minSK d _ _ => [d.toNat]
  | .minUK d _ _ => [d.toNat]
  | .maxSK d _ _ => [d.toNat]
  | .maxUK d _ _ => [d.toNat]
  | .absK d _ => [d.toNat]
  | .negK d _ => [d.toNat]
  | .popcK d _ => [d.toNat]
  | .clzK d _ => [d.toNat]
  | .ctzK d _ => [d.toNat]
  | .brevK d _ => [d.toNat]
  | .movK d _ => [d.toNat]
  | .andK d _ _ => [d.toNat]
  | .andnK d _ _ => [d.toNat]
  | .orK d _ _ => [d.toNat]
  | .xorK d _ _ => [d.toNat]
  | .notK d _ => [d.toNat]
  | .shlK d _ _ => [d.toNat]
  | .shrK d _ _ => [d.toNat]
  | .sraK d _ _ => [d.toNat]
  | .rotK d _ _ => [d.toNat]
  | .bfxUK d _ _ => [d.toNat]
  | .bfxSK d _ _ => [d.toNat]
  | .addKImm d _ _ => [d.toNat]
  | .moviK d _ _ => [d.toNat]
  | .cmpK d _ _ _ _ => [d.toNat]
  | .ldk d _ _ w _ => group d (if w.toNat = 4 then 2 else 1)
  | .btst a _ _ => [a.toNat]
  | .digr a _ => [a.toNat]
  | .snap d _ _ => [d.toNat]
  | .sqry d _ _ => [d.toNat]
  | .htak d _ _ => [d.toNat]
  | .hmap d _ _ => [d.toNat]
  | .lnch d _ _ => [d.toNat]
  | .evpop d _ _ => [d.toNat, d.toNat + 1, d.toNat + 2, d.toNat + 3, d.toNat + 4, d.toNat + 5, d.toNat + 6, d.toNat + 7]
  | .trel d _ _ => [d.toNat]
  | .call _ => [30]
  | .calli _ _ => [30]
  | .csrr d c _ => if c.toNat = 1 then [] else [d.toNat]
  | .svc k => [k.toNat]
  | _ => []

/-- The predicate registers an instruction writes. -/
def pDests : Instr → List Nat
  | .addc _ _ _ _ => [6]
  | .subb _ _ _ _ => [6]
  | .cmp p _ _ _ _ _ _ => [p.toNat]
  | .fcmp p _ _ _ _ _ _ => [p.toNat]
  | .cmpImm p _ _ _ _ _ _ => [p.toNat]
  | .voteAny q _ _ => [q.toNat]
  | .voteAll q _ _ => [q.toNat]
  | _ => []

/-- The major opcode of a word; 0 for an event. -/
def major : Instr → Nat
  | .add _ _ _ _ => 1
  | .addc _ _ _ _ => 1
  | .sub _ _ _ _ => 1
  | .subb _ _ _ _ => 1
  | .mul _ _ _ _ => 1
  | .mulhS _ _ _ _ => 1
  | .mulhU _ _ _ _ => 1
  | .minS _ _ _ _ => 1
  | .minU _ _ _ _ => 1
  | .maxS _ _ _ _ => 1
  | .maxU _ _ _ _ => 1
  | .abs _ _ _ => 1
  | .neg _ _ _ => 1
  | .popc _ _ _ => 1
  | .clz _ _ _ => 1
  | .ctz _ _ _ => 1
  | .brev _ _ _ => 1
  | .mov _ _ _ => 1
  | .movVK _ _ _ => 1
  | .addK _ _ _ => 24
  | .subK _ _ _ => 24
  | .mulK _ _ _ => 24
  | .mulhSK _ _ _ => 24
  | .mulhUK _ _ _ => 24
  | .minSK _ _ _ => 24
  | .minUK _ _ _ => 24
  | .maxSK _ _ _ => 24
  | .maxUK _ _ _ => 24
  | .absK _ _ => 24
  | .negK _ _ => 24
  | .popcK _ _ => 24
  | .clzK _ _ => 24
  | .ctzK _ _ => 24
  | .brevK _ _ => 24
  | .movK _ _ => 24
  | .and _ _ _ _ => 2
  | .andn _ _ _ _ => 2
  | .or _ _ _ _ => 2
  | .xor _ _ _ _ => 2
  | .not _ _ _ => 2
  | .shl _ _ _ _ => 2
  | .shr _ _ _ _ => 2
  | .sra _ _ _ _ => 2
  | .rot _ _ _ _ => 2
  | .bfxU _ _ _ _ => 2
  | .bfxS _ _ _ _ => 2
  | .andK _ _ _ => 25
  | .andnK _ _ _ => 25
  | .orK _ _ _ => 25
  | .xorK _ _ _ => 25
  | .notK _ _ => 25
  | .shlK _ _ _ => 25
  | .shrK _ _ _ => 25
  | .sraK _ _ _ => 25
  | .rotK _ _ _ => 25
  | .bfxUK _ _ _ => 25
  | .bfxSK _ _ _ => 25
  | .mad _ _ _ _ => 3
  | .bfi _ _ _ _ => 3
  | .lea0 _ _ _ _ => 3
  | .lea1 _ _ _ _ => 3
  | .lea2 _ _ _ _ => 3
  | .lea3 _ _ _ _ => 3
  | .cmp _ _ _ _ _ _ _ => 4
  | .sel _ _ _ _ _ => 5
  | .divU _ _ _ _ _ => 6
  | .remU _ _ _ _ _ => 6
  | .divS _ _ _ _ _ => 7
  | .remS _ _ _ _ _ => 7
  | .fadd _ _ _ _ _ => 8
  | .fsub _ _ _ _ _ => 8
  | .fmul _ _ _ _ _ => 8
  | .fmin _ _ _ _ _ => 8
  | .fmax _ _ _ _ _ => 8
  | .frnd _ _ _ _ => 8
  | .ffma _ _ _ _ _ => 9
  | .ffmaSub _ _ _ _ _ => 9
  | .ffmaNeg _ _ _ _ _ => 9
  | .fcmp _ _ _ _ _ _ _ => 10
  | .fdiv _ _ _ _ _ => 11
  | .fsqrt _ _ _ _ => 12
  | .frcp _ _ _ _ => 12
  | .frsq _ _ _ _ => 12
  | .fsinp _ _ _ _ => 12
  | .fcosp _ _ _ _ => 12
  | .fex2 _ _ _ _ => 12
  | .flg2 _ _ _ _ => 12
  | .packBf16 _ _ _ _ => 13
  | .packF16 _ _ _ _ => 13
  | .unpkBf16Lo _ _ _ => 13
  | .unpkBf16Hi _ _ _ => 13
  | .unpkF16Lo _ _ _ => 13
  | .unpkF16Hi _ _ _ => 13
  | .hcvt _ _ _ _ _ _ _ _ => 14
  | .cvt _ _ _ _ _ _ => 15
  | .addImm _ _ _ _ => 16
  | .andImm _ _ _ _ => 17
  | .orImm _ _ _ _ => 18
  | .xorImm _ _ _ _ => 19
  | .shlImm _ _ _ _ => 20
  | .shrImm _ _ _ _ => 20
  | .sraImm _ _ _ _ => 20
  | .rotImm _ _ _ _ => 20
  | .cmpImm _ _ _ _ _ _ _ => 21
  | .movi _ _ _ => 22
  | .moviHi _ _ _ => 22
  | .addKImm _ _ _ => 26
  | .moviK _ _ _ => 27
  | .cmpK _ _ _ _ _ => 28
  | .ld _ _ _ _ _ _ => 32
  | .ldS _ _ _ _ _ _ => 33
  | .st _ _ _ _ _ _ => 34
  | .ldk _ _ _ _ _ => 35
  | .stk _ _ _ _ _ => 36
  | .atomAdd _ _ _ _ _ => 37
  | .atomAnd _ _ _ _ _ => 37
  | .atomOr _ _ _ _ _ => 37
  | .atomXor _ _ _ _ _ => 37
  | .atomMinS _ _ _ _ _ => 37
  | .atomMaxS _ _ _ _ _ => 37
  | .atomMinU _ _ _ _ _ => 37
  | .atomMaxU _ _ _ _ _ => 37
  | .atomExch32 _ _ _ _ _ => 38
  | .atomCas32 _ _ _ _ _ => 38
  | .atomAdd64 _ _ _ _ _ => 38
  | .atomExch64 _ _ _ _ _ => 38
  | .atomCas64 _ _ _ _ _ => 38
  | .atomFaddF32 _ _ _ _ _ => 38
  | .atomFaddBf16x2 _ _ _ _ _ => 38
  | .fence _ _ => 39
  | .cpyG2s _ _ _ _ _ _ => 40
  | .cpyS2g _ _ _ _ _ _ => 40
  | .cpytG2s _ _ _ _ _ _ => 40
  | .cpytS2g _ _ _ _ _ _ => 40
  | .cpym _ _ _ _ _ _ _ => 40
  | .bini _ _ _ => 41
  | .barv _ _ => 41
  | .bexp _ _ _ => 41
  | .btst _ _ _ => 41
  | .bwait _ _ _ => 41
  | .clstAg _ _ _ _ => 42
  | .clstRs _ _ _ _ => 42
  | .clstAr _ _ _ _ => 42
  | .clstBc _ _ _ _ => 42
  | .evpst _ _ => 43
  | .rfnc _ => 43
  | .audm _ _ => 43
  | .digr _ _ => 43
  | .snap _ _ _ => 44
  | .sacc _ _ => 44
  | .srej _ _ _ => 44
  | .sqry _ _ _ => 44
  | .hgiv _ _ _ => 45
  | .htak _ _ _ => 45
  | .hmap _ _ _ => 45
  | .hfls _ _ => 45
  | .lnch _ _ _ => 46
  | .evpop _ _ _ => 46
  | .trel _ _ _ => 46
  | .xchUp _ _ _ _ => 48
  | .xchDn _ _ _ _ => 48
  | .xchXor _ _ _ _ => 48
  | .xchIdx _ _ _ => 48
  | .xbc _ _ _ _ => 48
  | .xredAddI32 _ _ _ => 49
  | .xredAddF32 _ _ _ => 49
  | .xredMinS _ _ _ => 49
  | .xredMaxS _ _ _ => 49
  | .xredMinF32 _ _ _ => 49
  | .xredMaxF32 _ _ _ => 49
  | .xscnAddI32 _ _ _ => 49
  | .xscnAddF32 _ _ _ => 49
  | .xscnMinS _ _ _ => 49
  | .xscnMaxS _ _ _ => 49
  | .xscnMinF32 _ _ _ => 49
  | .xscnMaxF32 _ _ _ => 49
  | .voteBallot _ _ _ => 49
  | .voteAny _ _ _ => 49
  | .voteAll _ _ _ => 49
  | .xshc _ _ _ _ => 50
  | .bra _ _ _ => 52
  | .brd _ _ _ => 53
  | .call _ => 54
  | .calli _ _ => 55
  | .ret _ => 56
  | .join => 56
  | .exit _ => 56
  | .maskAnd _ _ => 56
  | .maskSet _ _ => 56
  | .tld _ _ _ _ _ _ _ => 57
  | .tst _ _ _ _ _ _ _ => 58
  | .tzr _ _ _ _ _ _ => 59
  | .azr _ _ _ => 59
  | .ard _ _ _ _ _ _ => 59
  | .awr _ _ _ _ _ _ => 59
  | .asv _ _ _ _ => 59
  | .ars _ _ _ _ => 59
  | .lstat _ _ _ _ => 60
  | .lstatN32 _ _ _ _ => 60
  | .plsw _ => 60
  | .mstr _ _ _ _ _ _ => 61
  | .mstrN32 _ _ _ _ _ _ => 61
  | .immx _ => 62
  | .hintMem _ _ _ => 62
  | .hintAri _ _ => 62
  | .csrr _ _ _ => 63
  | .csrw _ _ => 63
  | .csrwExm _ => 63
  | .csrwStat _ => 63
  | .csrwAcown _ => 63
  | .csrwTvec _ => 63
  | .csrwWdg _ => 63
  | .csrwPrivb _ => 63
  | .trap => 63
  | .rft => 63
  | .svc _ => 63
  | .wait _ => 63
  | .nop _ => 63
  | _ => 0

/-- The LA field of a long-latency instruction (R265); none for every other instruction. -/
def lookahead : Instr → Option Nat
  | .divU _ _ _ l _ => some l.toNat
  | .remU _ _ _ l _ => some l.toNat
  | .divS _ _ _ l _ => some l.toNat
  | .remS _ _ _ l _ => some l.toNat
  | .fdiv _ _ _ l _ => some l.toNat
  | .fsqrt _ _ l _ => some l.toNat
  | .frcp _ _ l _ => some l.toNat
  | .frsq _ _ l _ => some l.toNat
  | .fsinp _ _ l _ => some l.toNat
  | .fcosp _ _ l _ => some l.toNat
  | .fex2 _ _ l _ => some l.toNat
  | .flg2 _ _ l _ => some l.toNat
  | .hcvt _ _ _ _ _ l _ _ => some l.toNat
  | .ld _ _ _ _ l _ => some l.toNat
  | .ldS _ _ _ _ l _ => some l.toNat
  | .st _ _ _ _ l _ => some l.toNat
  | .ldk _ _ _ _ l => some l.toNat
  | .stk _ _ _ _ l => some l.toNat
  | .atomAdd _ _ _ l _ => some l.toNat
  | .atomAnd _ _ _ l _ => some l.toNat
  | .atomOr _ _ _ l _ => some l.toNat
  | .atomXor _ _ _ l _ => some l.toNat
  | .atomMinS _ _ _ l _ => some l.toNat
  | .atomMaxS _ _ _ l _ => some l.toNat
  | .atomMinU _ _ _ l _ => some l.toNat
  | .atomMaxU _ _ _ l _ => some l.toNat
  | .atomExch32 _ _ _ l _ => some l.toNat
  | .atomCas32 _ _ _ l _ => some l.toNat
  | .atomAdd64 _ _ _ l _ => some l.toNat
  | .atomExch64 _ _ _ l _ => some l.toNat
  | .atomCas64 _ _ _ l _ => some l.toNat
  | .atomFaddF32 _ _ _ l _ => some l.toNat
  | .atomFaddBf16x2 _ _ _ l _ => some l.toNat
  | .cpyG2s _ _ _ _ _ l => some l.toNat
  | .cpyS2g _ _ _ _ _ l => some l.toNat
  | .cpytG2s _ _ _ _ _ l => some l.toNat
  | .cpytS2g _ _ _ _ _ l => some l.toNat
  | .cpym _ _ _ _ _ l _ => some l.toNat
  | .bini _ _ l => some l.toNat
  | .barv _ l => some l.toNat
  | .bexp _ _ l => some l.toNat
  | .btst _ _ l => some l.toNat
  | .bwait _ _ l => some l.toNat
  | .clstAg _ _ l _ => some l.toNat
  | .clstRs _ _ l _ => some l.toNat
  | .clstAr _ _ l _ => some l.toNat
  | .clstBc _ _ l _ => some l.toNat
  | .evpst _ l => some l.toNat
  | .rfnc l => some l.toNat
  | .audm _ l => some l.toNat
  | .digr _ l => some l.toNat
  | .snap _ _ l => some l.toNat
  | .sacc _ l => some l.toNat
  | .srej _ l _ => some l.toNat
  | .sqry _ _ l => some l.toNat
  | .hgiv _ _ l => some l.toNat
  | .htak _ _ l => some l.toNat
  | .hmap _ _ l => some l.toNat
  | .hfls _ l => some l.toNat
  | .lnch _ _ l => some l.toNat
  | .evpop _ _ l => some l.toNat
  | .trel _ _ l => some l.toNat
  | .tld _ _ _ _ _ l _ => some l.toNat
  | .tst _ _ _ _ _ l _ => some l.toNat
  | .tzr _ _ _ _ _ l => some l.toNat
  | .azr _ _ l => some l.toNat
  | .ard _ _ _ _ _ l => some l.toNat
  | .awr _ _ _ _ _ l => some l.toNat
  | .asv _ _ _ l => some l.toNat
  | .ars _ _ _ l => some l.toNat
  | .lstat _ _ _ l => some l.toNat
  | .lstatN32 _ _ _ l => some l.toNat
  | .plsw l => some l.toNat
  | .mstr _ _ _ _ _ l => some l.toNat
  | .mstrN32 _ _ _ _ _ l => some l.toNat
  | _ => none

/-- The guard of a per-thread instruction (R262); 7 is always. None for a uniform one. -/
def guardOf : Instr → Option (BitVec 3)
  | .add _ _ _ g => some g
  | .addc _ _ _ g => some g
  | .sub _ _ _ g => some g
  | .subb _ _ _ g => some g
  | .mul _ _ _ g => some g
  | .mulhS _ _ _ g => some g
  | .mulhU _ _ _ g => some g
  | .minS _ _ _ g => some g
  | .minU _ _ _ g => some g
  | .maxS _ _ _ g => some g
  | .maxU _ _ _ g => some g
  | .abs _ _ g => some g
  | .neg _ _ g => some g
  | .popc _ _ g => some g
  | .clz _ _ g => some g
  | .ctz _ _ g => some g
  | .brev _ _ g => some g
  | .mov _ _ g => some g
  | .movVK _ _ g => some g
  | .and _ _ _ g => some g
  | .andn _ _ _ g => some g
  | .or _ _ _ g => some g
  | .xor _ _ _ g => some g
  | .not _ _ g => some g
  | .shl _ _ _ g => some g
  | .shr _ _ _ g => some g
  | .sra _ _ _ g => some g
  | .rot _ _ _ g => some g
  | .bfxU _ _ _ g => some g
  | .bfxS _ _ _ g => some g
  | .mad _ _ _ g => some g
  | .bfi _ _ _ g => some g
  | .lea0 _ _ _ g => some g
  | .lea1 _ _ _ g => some g
  | .lea2 _ _ _ g => some g
  | .lea3 _ _ _ g => some g
  | .cmp _ _ _ _ _ _ g => some g
  | .sel _ _ _ _ g => some g
  | .divU _ _ _ _ g => some g
  | .remU _ _ _ _ g => some g
  | .divS _ _ _ _ g => some g
  | .remS _ _ _ _ g => some g
  | .fadd _ _ _ _ g => some g
  | .fsub _ _ _ _ g => some g
  | .fmul _ _ _ _ g => some g
  | .fmin _ _ _ _ g => some g
  | .fmax _ _ _ _ g => some g
  | .frnd _ _ _ g => some g
  | .ffma _ _ _ _ g => some g
  | .ffmaSub _ _ _ _ g => some g
  | .ffmaNeg _ _ _ _ g => some g
  | .fcmp _ _ _ _ _ _ g => some g
  | .fdiv _ _ _ _ g => some g
  | .fsqrt _ _ _ g => some g
  | .frcp _ _ _ g => some g
  | .frsq _ _ _ g => some g
  | .fsinp _ _ _ g => some g
  | .fcosp _ _ _ g => some g
  | .fex2 _ _ _ g => some g
  | .flg2 _ _ _ g => some g
  | .packBf16 _ _ _ g => some g
  | .packF16 _ _ _ g => some g
  | .unpkBf16Lo _ _ g => some g
  | .unpkBf16Hi _ _ g => some g
  | .unpkF16Lo _ _ g => some g
  | .unpkF16Hi _ _ g => some g
  | .cvt _ _ _ _ _ g => some g
  | .addImm _ _ _ g => some g
  | .andImm _ _ _ g => some g
  | .orImm _ _ _ g => some g
  | .xorImm _ _ _ g => some g
  | .shlImm _ _ _ g => some g
  | .shrImm _ _ _ g => some g
  | .sraImm _ _ _ g => some g
  | .rotImm _ _ _ g => some g
  | .cmpImm _ _ _ _ _ _ g => some g
  | .movi _ _ g => some g
  | .moviHi _ _ g => some g
  | .ld _ _ _ _ _ g => some g
  | .ldS _ _ _ _ _ g => some g
  | .st _ _ _ _ _ g => some g
  | .atomAdd _ _ _ _ g => some g
  | .atomAnd _ _ _ _ g => some g
  | .atomOr _ _ _ _ g => some g
  | .atomXor _ _ _ _ g => some g
  | .atomMinS _ _ _ _ g => some g
  | .atomMaxS _ _ _ _ g => some g
  | .atomMinU _ _ _ _ g => some g
  | .atomMaxU _ _ _ _ g => some g
  | .atomExch32 _ _ _ _ g => some g
  | .atomCas32 _ _ _ _ g => some g
  | .atomAdd64 _ _ _ _ g => some g
  | .atomExch64 _ _ _ _ g => some g
  | .atomCas64 _ _ _ _ g => some g
  | .atomFaddF32 _ _ _ _ g => some g
  | .atomFaddBf16x2 _ _ _ _ g => some g
  | .xchUp _ _ _ g => some g
  | .xchDn _ _ _ g => some g
  | .xchXor _ _ _ g => some g
  | .xchIdx _ _ g => some g
  | .xbc _ _ _ g => some g
  | .xredAddI32 _ _ g => some g
  | .xredAddF32 _ _ g => some g
  | .xredMinS _ _ g => some g
  | .xredMaxS _ _ g => some g
  | .xredMinF32 _ _ g => some g
  | .xredMaxF32 _ _ g => some g
  | .xscnAddI32 _ _ g => some g
  | .xscnAddF32 _ _ g => some g
  | .xscnMinS _ _ g => some g
  | .xscnMaxS _ _ g => some g
  | .xscnMinF32 _ _ g => some g
  | .xscnMaxF32 _ _ g => some g
  | .voteBallot _ _ g => some g
  | .voteAny _ _ g => some g
  | .voteAll _ _ g => some g
  | .xshc _ _ _ g => some g
  | .calli _ g => some g
  | .exit g => some g
  | .csrr _ c g => if c.toNat = 1 then some g else none
  | _ => none

/-- Whether an instruction ends every lookahead window of its split (R265). -/
def endsWindow (i : Instr) : Bool :=
  [0x34, 0x35, 0x36, 0x37, 0x38, 0x3F, 0x27].contains (major i)

/-- Whether an instruction is long-latency (R265). -/
def isLong (i : Instr) : Bool := (lookahead i).isSome

/-- The tile registers that an instruction writes (R82). -/
def tilesWritten : Instr → List Nat
  | .hcvt t _ _ _ _ _ _ _ => [t.toNat]
  | .tld t _ _ _ _ _ _ => [t.toNat]
  | .tzr t _ _ _ _ _ => [t.toNat]
  | .ard t _ _ _ _ _ => [t.toNat]
  | _ => []

/-- Whether the instruction `i` writes a register that is a destination of `l` (R265): vector, uniform, predicate or tile. -/
def overwrites (i l : Instr) : Bool :=
  (vDests i).any (vDests l).contains || (kDests i).any (kDests l).contains || (pDests i).any (pDests l).contains ||
    (tilesWritten i).any (tilesWritten l).contains

/-- Whether a word is itself a prefix (R268). -/
def isPrefix : Instr → Bool
  | .immx _ => true
  | .hintMem _ _ _ => true
  | .hintAri _ _ => true
  | _ => false

/-- The instructions IMMX is accepted before (R266). -/
def takesImmx (p : BitVec 24) : Instr → Bool
  | .addImm _ _ _ _ => true
  | .andImm _ _ _ _ => true
  | .orImm _ _ _ _ => true
  | .xorImm _ _ _ _ => true
  | .cmpImm _ _ _ _ _ _ _ => true
  | .addKImm _ _ _ => true
  | .movi _ _ _ => decide (p.toNat < 65536)
  | _ => false

/-- The instructions HINT.ARI is accepted before (R267); mode 6 only before the two that name a slot (R349). -/
def takesAri (rm : Nat) : Instr → Bool
  | .fadd _ _ _ _ _ => rm != 6
  | .fsub _ _ _ _ _ => rm != 6
  | .fmul _ _ _ _ _ => rm != 6
  | .ffma _ _ _ _ _ => rm != 6
  | .ffmaSub _ _ _ _ _ => rm != 6
  | .ffmaNeg _ _ _ _ _ => rm != 6
  | .frnd _ _ _ _ => rm != 6
  | .fdiv _ _ _ _ _ => rm != 6
  | .fsqrt _ _ _ _ => rm != 6
  | .packBf16 _ _ _ _ => rm != 6
  | .packF16 _ _ _ _ => rm != 6
  | .cvt _ _ _ _ _ _ => rm != 6
  | .hcvt _ _ _ _ _ _ _ _ => true
  | .ard _ _ _ _ _ _ => true
  | _ => false

/-- The orders HINT.MEM may carry before an instruction of a major (R137). -/
def takesMem (ord : Nat) (i : Instr) : Bool :=
  let m := major i
  let acq := ord == 1 || ord == 3
  let noWindow := !acq || lookahead i == some 0
  if m == 0x20 || m == 0x21 || m == 0x23 then (ord == 0 || ord == 1) && noWindow
  else if m == 0x22 || m == 0x24 then ord == 0 || ord == 2
  else if m == 0x25 || m == 0x26 then noWindow
  else false

/-- Check 7 of R276: a pending prefix may stand before the instruction. -/
def prefixOk (p : Option Pfx) (i : Instr) : Bool :=
  match p with
  | none => true
  | some x =>
    match x.kind with
    | .immx v => takesImmx v i
    | .mem _ ord sc => (ord != 0 || sc == 0) && takesMem ord i
    | .ari _ rm => takesAri rm i

/-- The payload of a pending IMMX (R266). -/
def immxOf (p : Option Pfx) : Option (BitVec 24) :=
  match p with
  | some ⟨.immx v, _, _⟩ => some v
  | _ => none

/-- The order and scope of a pending HINT.MEM (R137). -/
def memOf (p : Option Pfx) : Nat × Nat :=
  match p with
  | some ⟨.mem _ ord sc, _, _⟩ => (ord, sc)
  | _ => (0, 0)

/-- The allocation hint of a pending HINT.MEM (R348). -/
def allocOf (p : Option Pfx) : Nat :=
  match p with
  | some ⟨.mem a _ _, _, _⟩ => a
  | _ => 0

/-- The saturate bit and mode code of a pending HINT.ARI (R349). -/
def ariOf (p : Option Pfx) : Option (Bool × Nat) :=
  match p with
  | some ⟨.ari sat rm, _, _⟩ => some (sat, rm)
  | _ => none

/-- The effective immediate of majors 0x10 to 0x13 (R266). -/
def immB (p : Option Pfx) (i : BitVec 11) : W32 :=
  match immxOf p with
  | some v => BitVec.ofNat 32 (v.toNat * 2 ^ 11 + i.toNat)
  | none => i.signExtend 32

/-- The effective immediate of major 0x1A (R266). -/
def immK (p : Option Pfx) (i : BitVec 11) : W64 :=
  match immxOf p with
  | some v => (v ++ i).signExtend 64
  | none => i.signExtend 64

/-- The effective immediate of major 0x15 (R266). -/
def immCmp (p : Option Pfx) (i : BitVec 7) : W32 :=
  match immxOf p with
  | some v => (v ++ i).signExtend 32
  | none => i.signExtend 32

/-- The effective immediate of major 0x16 with H 0 (R266). -/
def immMovi (p : Option Pfx) (i : BitVec 16) : W32 :=
  match immxOf p with
  | some v => BitVec.ofNat 32 (v.toNat % 65536 * 65536 + i.toNat)
  | none => i.setWidth 32

/-- The effective address of LD, ST, ATOM, LDK and STK (R106). -/
def effAddr (base : W64) (off : W32) : W64 := base + off.setWidth 64

/-- A space of R106 with what the address names in it, or no space. -/
inductive Space where
  | glob (va : Nat)
  | share (handle off : Nat)
  | priv (off : Nat)
  | none
  deriving DecidableEq, Repr

/-- The space decoding of R106. -/
def spaceOf (a : W64) : Space :=
  let x := a.toNat
  let top := bitsAt x 60 4
  if top = 0 then (if bitsAt x 48 12 = 0 then .glob (x % 2 ^ 48) else .none)
  else if top = 0xA then (if bitsAt x 28 32 = 0 then .share (bitsAt x 20 8) (x % 2 ^ 20) else .none)
  else if top = 0xB then (if bitsAt x 24 36 = 0 then .priv (x % 2 ^ 24) else .none)
  else .none

/-- Bytes of an access of width code `w` (R270). -/
def widthBytes (w : Nat) : Nat :=
  if w = 5 then 12 else if w = 6 then 1 else 2 ^ w

/-- The alignment of an access of width code `w` (R108). -/
def widthAlign (w : Nat) : Nat := if w = 5 ∨ w = 6 then 4 else 2 ^ w

/-- A slice or accumulator index: the named k register, or zero for field value 0, plus the immediate, as an unsigned
64-bit sum (R76, R261, R274). -/
def indexOf (kval : W64) (x i : BitVec 5) : Nat :=
  ((if x = 0#5 then 0 else kval.toNat) + i.toNat) % 2 ^ 64

/-- Elements per row of a tile (R75). -/
def perRow (f : Fp.Fmt) : Nat :=
  match f.width with
  | 32 => 32
  | 16 => 64
  | 8 => 128
  | 6 => 160
  | _ => 0

end Sys2Proof.Machine
end

