-- ==== Sys2Proof/Machine/Access.lean ====
section
/-! DEFINITION. Named reads and writes of the parts of State: registers (R261, R262), workgroups, trains, splits, cores,
tasks; cause codes and dispositions (R238); ending a task (R246). Every read or write of a register goes through here:
p7 reads as 1 and drops writes. -/

namespace Sys2Proof.Machine

/-- The outcome of a step. -/
abbrev Out := Host.Outcome State Fault Refusal

/-- A core at reset (R85, R86; DESIGN CHOICE, notes/assumptions/6.md). -/
def Core.reset : Core := ⟨[], [], 0, [], [], [], [], 0, 0, false⟩

/-- A barrier register at reset (R97). -/
def Bar.reset : Bar := ⟨0, 0, false, false, false, false, 0, 0, 0, 0, 0, none, 0, false⟩

/-- An empty plane (R78). -/
def Plane.empty : Plane := ⟨0, 0, 0, 0, []⟩

/-- A way mask at reset (R122). -/
def WayMask.reset : WayMask := ⟨0xFFFF, false, 0⟩

/-- A leaky bucket at reset (R235). -/
def Bucket.reset : Bucket := ⟨0, 0x10, 0x100, false, 0⟩

/-- Metadata of a line that nothing has written: the check value of a zero sector four times (R257 step 3). -/
def Meta.zero : Meta := ⟨0x2814, 0x2814, 0x2814, 0x2814, 0, 0⟩

/-- Thread `j`'s v register (R261). -/
def Train.getV (tr : Train) (j r : Nat) : W32 := tr.v.val 0 (64 * j + r)

/-- A k register (R261). -/
def Train.getK (tr : Train) (r : Nat) : W64 := tr.k.val 0 r

/-- A predicate register of all threads; p7 reads as 1 (R262). -/
def Train.getP (tr : Train) (r : Nat) : Mask := if r = 7 then BitVec.allOnes 32 else tr.p.val 0 r

/-- Thread `j`'s predicate. -/
def Train.predOf (tr : Train) (r j : Nat) : Bool := (tr.getP r).getLsbD j

/-- Write thread `j`'s v register. -/
def Train.setV (tr : Train) (j r : Nat) (x : W32) : Train := { tr with v := tr.v.store 0 (64 * j + r) x }

/-- Write a k register. -/
def Train.setK (tr : Train) (r : Nat) (x : W64) : Train := { tr with k := tr.k.store 0 r x }

/-- Write a predicate register in the threads of `m`; a write to p7 is discarded (R315). -/
def Train.setP (tr : Train) (r : Nat) (m : Mask) (x : Mask) : Train :=
  if r = 7 then tr else { tr with p := tr.p.store 0 r ((tr.getP r &&& ~~~m) ||| (x &&& m)) }

/-- Write register `d` of every thread of a list with `f j`: the values are those before the instruction (R286). -/
def Train.writeV (tr : Train) (d : Nat) (f : Nat → W32) : List Nat → Train
  | [] => tr
  | j :: js => (Train.writeV tr d f js).setV j d (f j)

/-- The split with an id. -/
def Train.split? (tr : Train) (p : Nat) : Option Split := tr.splits.find? fun q => q.id == p

/-- Change the split with an id. -/
def Train.updSplit (tr : Train) (p : Nat) (f : Split → Split) : Train :=
  { tr with splits := tr.splits.map fun q => if q.id = p then f q else q }

/-- A workgroup by index. -/
def State.wg? (s : State) (w : Nat) : Option Wg := s.wgs[w]?

/-- Set a workgroup. -/
def State.setWg (s : State) (w : Nat) (g : Wg) : State := { s with wgs := s.wgs.set w g }

/-- Change a workgroup, if it exists. -/
def State.updWg (s : State) (w : Nat) (f : Wg → Wg) : State :=
  match s.wg? w with
  | some g => s.setWg w (f g)
  | none => s

/-- A train of a workgroup. -/
def State.train? (s : State) (w t : Nat) : Option Train := s.trains.look (64 * w + t)

/-- Set a train. -/
def State.setTrain (s : State) (w t : Nat) (tr : Train) : State := { s with trains := s.trains.put (64 * w + t) tr }

/-- Change a train, if it exists. -/
def State.updTrain (s : State) (w t : Nat) (f : Train → Train) : State :=
  match s.train? w t with
  | some tr => s.setTrain w t (f tr)
  | none => s

/-- The indexes of the trains of workgroup `w`. -/
def State.trainsOf (s : State) (w : Nat) : List (Nat × Train) :=
  (s.trains.filter fun e => e.1 / 64 == w).map fun e => (e.1 % 64, e.2)

/-- A core. -/
def State.core (s : State) (n : Nat) : Core := s.cores.val .reset n

/-- Set a core. -/
def State.setCore (s : State) (n : Nat) (c : Core) : State := { s with cores := s.cores.put n c }

/-- A task by its slot. -/
def State.task? (s : State) (slot : Nat) : Option Task := s.tasks.look slot

/-- Set a task. -/
def State.setTask (s : State) (slot : Nat) (t : Task) : State := { s with tasks := s.tasks.put slot t }

/-- Change a task, if it exists. -/
def State.updTask (s : State) (slot : Nat) (f : Task → Task) : State :=
  match s.task? slot with
  | some t => s.setTask slot (f t)
  | none => s

/-- The task of a workgroup: its slot still holds the same submission. -/
def State.taskOf? (s : State) (g : Wg) : Option Task :=
  match s.task? g.slot with
  | some t => if t.sub = g.sub then some t else none
  | none => none

/-- The core on which a workgroup is resident. -/
def Wg.core? (g : Wg) : Option Nat :=
  match g.place with
  | .resident c _ => some c
  | .halting c _ => some c
  | .halted c _ => some c
  | _ => none

/-- The core of a workgroup, or the one it was saved from. -/
def Wg.lastCore (g : Wg) : Nat :=
  match g.place with
  | .resident c _ => c
  | .halting c _ => c
  | .halted c _ => c
  | .saved c => c
  | .ended => 0

/-- Whether a workgroup issues: it is resident and no pre-emption has been delivered (R205). -/
def Wg.runs (g : Wg) : Bool :=
  match g.place with
  | .resident _ _ => true
  | _ => false

/-- Whether a workgroup is on a core and not frozen by a halt (R205). -/
def Wg.live (g : Wg) : Bool :=
  match g.place with
  | .resident _ _ => true
  | .halting _ _ => true
  | _ => false

/-- A barrier register of a workgroup. -/
def Wg.bar (g : Wg) (b : Nat) : Bar := g.bars.val .reset b

/-- Set a barrier register. -/
def Wg.setBar (g : Wg) (b : Nat) (x : Bar) : Wg := { g with bars := g.bars.store .reset b x }

/-- A format slot of a task, 0 beyond f7. -/
def Record.slotW (r : Record) (n : Nat) : W64 := r.slots.getD n 0

/-- Fields of a format slot (R69). -/
def slotElem (x : W64) : Nat := bitsAt x.toNat 0 4

/-- SCALE of a format slot. -/
def slotScale (x : W64) : Bool := bitsAt x.toNat 4 4 == 1

/-- Block size of a format slot in elements. -/
def slotBlk (x : W64) : Nat := if bitsAt x.toNat 8 4 = 0 then 16 else 32

/-- HAD of a format slot: 0, or the block of the Hadamard transform. -/
def slotHad (x : W64) : Nat :=
  if bitsAt x.toNat 12 2 = 1 then 16 else if bitsAt x.toNat 12 2 = 2 then 32 else 0

/-- RM of a format slot. -/
def slotRm (x : W64) : Nat := bitsAt x.toNat 14 3

/-- SAT of a format slot. -/
def slotSat (x : W64) : Bool := bitsAt x.toNat 17 1 == 1

/-- The element format of a slot (R69); F32 for a reserved code, which no task record holds (R186). -/
def slotFmt (x : W64) : Fp.Fmt := (Fp.Fmt.ofCode (slotElem x)).getD .f32

/-- Codes of R238. -/
def Cause.code : Cause → Nat
  | .illegal => 0x01 | .priv => 0x02 | .misaligned => 0x03 | .lease => 0x04 | .handle => 0x05 | .producer => 0x06
  | .budget => 0x07 | .stackLimit => 0x08 | .shadowFull => 0x09 | .aliasing => 0x0A | .pullLost => 0x0B
  | .poison => 0x0C | .detConflict => 0x0D | .barrierTimeout => 0x0E | .xshcTimeout => 0x0F | .accOwner => 0x10
  | .fenceLost => 0x11 | .record => 0x12 | .engine => 0x13 | .svc => 0x14 | .trap => 0x15 | .space => 0x16
  | .mismatch => 0x20 | .digest => 0x21 | .logOverflow => 0x22 | .audit => 0x23

/-- Causes that end the task without the handler (R238). -/
def Cause.endsTask : Cause → Bool
  | .lease => true
  | .pullLost => true
  | .detConflict => true
  | _ => false

/-- Causes after which RFT continues after the instruction: SKIP is 1 in their frame (R238, R242). -/
def Cause.skips : Cause → Bool
  | .fenceLost => true
  | .engine => true
  | .svc => true
  | .trap => true
  | _ => false

/-- A task is ended by a cause: no train of it issues any more, and it retires with TYPE 4 (R246, R192). The first
cause stands. -/
def State.endTask (s : State) (slot : Nat) (e : EndInfo) : State :=
  s.updTask slot fun t => if t.endInfo.isSome then t else { t with endInfo := some e }

/-- The cluster of a core (R9). -/
def clusterOf (core : Nat) : Nat := core / 4

/-- A fresh number for an engine command. -/
def State.fresh (s : State) : Nat × State := (s.nextId, { s with nextId := s.nextId + 1 })

/-- Whether the cores run (R258, R259). -/
def State.clocked (s : State) : Bool := s.power == .run || s.power == .runLow

/-- A fresh reading of the free values (DESIGN CHOICE, notes/assumptions/5.md). -/
def State.drawFree (s : State) : Nat × State := (s.free, { s with free := s.free + 1 })

/-- The value of a CSR that packs a barrier register (R97). -/
def Bar.value (b : Bar) : W64 :=
  BitVec.ofNat 64 (b.expect + b.arrived * 2 ^ 7 + (if b.phase then 2 ^ 14 else 0) + (if b.strm then 2 ^ 15 else 0)
    + (if b.scope then 2 ^ 16 else 0) + (if b.init then 2 ^ 17 else 0) + b.err * 2 ^ 18 + b.pend.toNat * 2 ^ 24)

end Sys2Proof.Machine
end

