-- ==== Sys2Proof/Machine/Mem.lean ====
section
/-! DEFINITION. The home slice (R16, R126 to R128, R160), L1 (R119, R120), L2's own record (R121 to R123), private memory
(R109 to R111), guest lines (R146). All main memory is written through `State.writeHome`. -/

namespace Sys2Proof.Machine

/-- The home slice of a chip offset (R16). -/
def homeSlice (off : Nat) : Nat := bitsAt off 7 5 ^^^ bitsAt off 12 5 ^^^ bitsAt off 17 5

/-- The chip of a box physical address (R167). -/
def chipOf (pa : Nat) : Nat := bitsAt pa 42 2

/-- The chip offset of a box physical address (R167). -/
def offOf (pa : Nat) : Nat := pa % 2 ^ 42

/-- Whether a box physical address is homed on this chip (R16, R17). -/
def State.isLocal (s : State) (pa : Nat) : Bool := chipOf pa == s.chipId

/-- The box physical address of a chip offset of this chip. -/
def State.boxPa (s : State) (off : Nat) : Nat := s.chipId * 2 ^ 42 + off

/-- The destination a global write goes to (R131, R140). -/
def State.destOf (s : State) (pa : Nat) : Dest :=
  if s.isLocal pa then .slice (homeSlice (offOf pa)) else .chip (chipOf pa)

/-- The line a location lies in: kind, owner, line (R134). -/
def Loc.line : Loc → Nat × Nat × Nat
  | .glob pa => (0, 0, pa / 128)
  | .discarded pa => (0, 0, pa / 128)
  | .share w off => (1, w, off / 128)
  | .priv pa => (2, 0, pa / 128)
  | .desc c off => (3, c, off / 128)

/-- Metadata of the line at chip offset `128 × line` (R127). -/
def State.metaOf (s : State) (line : Nat) : Meta := s.lineInfo.val .zero line

/-- Set the metadata of a line. -/
def State.setMeta (s : State) (line : Nat) (m : Meta) : State := { s with lineInfo := s.lineInfo.store .zero line m }

/-- Whether a chip offset lies in the metadata region (R127). -/
def inMetadata (off : Nat) : Bool := decide (Config.metaBase ≤ off) && decide (off < Config.chipEnd)

/-- What bring-up writes into a frame's attribute entry (R257 step 3). -/
def Attr.initial (frame : Nat) : Attr :=
  ⟨if inMetadata (frame % 2 ^ 30 * 4096) then 3 else 0, false, false, 0, 0, 0, 0, 0⟩

/-- The attribute entry of a box frame (R171); unlisted frames hold what bring-up writes, at reset too, where the Reset column gives no value
(DESIGN CHOICE: notes/assumptions/95.md). -/
def State.attrOf (s : State) (frame : Nat) : Attr := s.attrs.val (.initial frame) frame

/-- Set the attribute entry of a box frame. -/
def State.setAttr (s : State) (frame : Nat) (a : Attr) : State := { s with attrs := s.attrs.store (.initial frame) frame a }

/-- Bytes at a chip offset of this chip, as the home holds them. -/
def State.homeBytes (s : State) (off n : Nat) : List Byte := Memory.readN s.mem off n

/-- The check value that is held for sector `i` of a line (R127). -/
def Meta.chk (m : Meta) (i : Nat) : BitVec 14 :=
  match i with
  | 0 => m.chk0
  | 1 => m.chk1
  | 2 => m.chk2
  | _ => m.chk3

/-- The sector at a chip offset fails its verification (R126). -/
def State.checkFails (s : State) (off : Nat) : Bool :=
  (s.metaOf (off / 128)).chk (off / 32 % 4) != checkValue (s.homeBytes (off / 32 * 32) 32)

/-- Whether the sector at a chip offset is poisoned (R127, R128): every reader verifies it, and a failed verification poisons
it (R126). -/
def State.poisonAt (s : State) (off : Nat) : Bool :=
  (s.metaOf (off / 128)).poison.getLsbD (off / 32 % 4) || s.checkFails off

/-- Whether any sector of `n` bytes at a chip offset is poisoned. -/
def State.anyPoison (s : State) (off n : Nat) : Bool :=
  (List.range ((off + n + 31) / 32 - off / 32)).any fun i => s.poisonAt ((off / 32 + i) * 32)

/-- The four poison bits of the line at a chip offset. -/
def State.linePoison (s : State) (off : Nat) : BitVec 4 :=
  BitVec.ofNat 4 (bitsOf (fun i => s.poisonAt (off / 128 * 128 + 32 * i)) 4)

/-- An aligned 8-byte word at a chip offset. -/
def State.homeWord (s : State) (off : Nat) : W64 := word64 (s.homeBytes off 8)

/-- A byte under a bit mask (R124): masked bits from `v`, the others kept. -/
def maskByte (old m v : Byte) : Byte := (old &&& ~~~m) ||| (v &&& m)

/-- The virtual address at which a domain's frame is leased, of a chip offset (R155). -/
def State.domainVa (s : State) (off : Nat) : Nat := (s.attrOf (s.boxPa off / 4096)).vpage * 4096 + off % 4096

/-- Whether a level's ranges contain a virtual address (R154). -/
def Level.covers (l : Level) (va : Nat) : Bool := l.ranges.any fun r => decide (r.1 ≤ va) && decide (va < r.1 + r.2)

/-- The slot of the domain that a frame belongs to (R155). -/
def State.domainOf (s : State) (off : Nat) : Option Nat :=
  let d := (s.attrOf (s.boxPa off / 4096)).domain
  if d = 0 then none else some (d - 1)

/-- The innermost live level whose ranges contain a line (R160). -/
def Domain.levelFor (d : Domain) (va : Nat) : Option Level := d.levels.find? fun l => l.covers va

/-- Give an unused reservation back to a core's pool, or to the free count when the pool is full or no level is live
(R164, R415). -/
def Domain.unreserve (d : Domain) (core : Nat) : Domain :=
  if d.levels.isEmpty || decide (32 ≤ d.pools.val 0 core) then { d with free := d.free + 1 }
  else { d with pools := d.pools.store 0 core (d.pools.val 0 core + 1) }

/-- Take a reservation: from the core's pool, else from the free count (R164, R415); none when both are empty. -/
def Domain.reserve (d : Domain) (core : Nat) : Option Domain :=
  if d.pools.val 0 core ≠ 0 then some { d with pools := d.pools.store 0 core (d.pools.val 0 core - 1) }
  else if d.free ≠ 0 then some { d with free := d.free - 1 }
  else none

/-- Who writes at the home: a train's buffered write with the core whose pool reserved for it, an engine command that
takes its entry as it writes, or anyone else (R164). -/
inductive WriteSrc where
  | train (rsv : Option Nat)
  | engine
  | other
  deriving DecidableEq, Repr

/-- The entry for a copy (R164): the domain left, and whether there was one. -/
def Domain.takeEntry (d : Domain) (slice : Nat) : WriteSrc → Domain × Bool
  | .train (some _) => (d, true)
  | .engine => if d.free ≠ 0 then ({ d with free := d.free - 1 }, true) else (d, false)
  | _ =>
    if d.reserves.val 0 slice ≠ 0 then
      ({ d with reserves := d.reserves.store 0 slice (d.reserves.val 0 slice - 1) }, true)
    else if d.free ≠ 0 then ({ d with free := d.free - 1 }, true)
    else (d, false)

/-- A task at level 2 or 3 whose domain runs low is forced to close a checkpoint (R230). -/
def State.forceCheckpoint (s : State) (slot : Nat) (d : Domain) : State :=
  s.updTask slot fun t =>
    if decide (2 ≤ t.rcd.integ) && decide (d.free < d.lehr / 4) && !t.draining then { t with draining := true } else t

/-- Set a domain. -/
def State.setDom (s : State) (slot : Nat) (d : Domain) : State := { s with doms := s.doms.put slot d }

/-- Copy-on-write of the line that holds a chip offset, for one granted write (R160). -/
def State.copyOnWrite (s : State) (off : Nat) (src : WriteSrc) : State :=
  match s.domainOf off with
  | none => s
  | some slot =>
    match s.doms.look slot with
    | none => s
    | some d =>
      let line := off / 128
      let m := s.metaOf line
      let giveBack := match src with
        | .train (some core) => s.setDom slot (d.unreserve core)
        | _ => s
      match d.levelFor (s.domainVa (line * 128)) with
      | none => giveBack
      | some c =>
        if m.tag = c.gen then giveBack
        else
          let s1 := s.setMeta line { m with tag := c.gen }
          match d.takeEntry (homeSlice off) src with
          | (d', true) =>
            let e : Shadow := ⟨line, s.homeBytes (line * 128) 128, s.linePoison (line * 128), m.tag, c.n⟩
            let d'' := { d' with entries := d'.entries ++ [e] }
            (s1.setDom slot d'').forceCheckpoint slot d''
          | (d', false) =>
            let d'' := { d' with levels := d'.levels.map fun l => if l.n = c.n then { l with broken := true } else l }
            s1.setDom slot d''

/-- Set the check value of a sector from its bytes, and its poison bit (R126, R128). -/
def Meta.withSector (m : Meta) (i : Nat) (chk : BitVec 14) (poison : Bool) : Meta :=
  let p := if poison then m.poison ||| (1#4 <<< i) else m.poison &&& ~~~(1#4 <<< i)
  match i with
  | 0 => { m with chk0 := chk, poison := p }
  | 1 => { m with chk1 := chk, poison := p }
  | 2 => { m with chk2 := chk, poison := p }
  | _ => { m with chk3 := chk, poison := p }

/-- Make the check value of the sector at a chip offset anew (R126). -/
def State.remakeSector (s : State) (sec : Nat) (poison : Bool) : State :=
  let line := sec / 4
  s.setMeta line ((s.metaOf line).withSector (sec % 4) (checkValue (s.homeBytes (sec * 32) 32)) poison)

/-- The set of a line in its home slice (R121). -/
def l2Set (line : Nat) : Nat := bitsAt (line * 128) 7 10 ^^^ bitsAt (line * 128) 17 10

/-- Whether two lines share a set of one slice (R16, R121). -/
def sameSet (a b : Nat) : Bool := homeSlice (offOf (a * 128)) == homeSlice (offOf (b * 128)) && l2Set a == l2Set b

/-- The way mask of a tenant at a slice (R122). -/
def State.wayMaskOf (s : State) (slice tenant : Nat) : WayMask := s.wayMask.val .reset (16 * slice + tenant)

/-- Where a tenant's line goes (R122, R123): a free permitted way, else that of the line used least recently in one.
DEDUCED: notes/assumptions/47.md. -/
def State.pickWay (s : State) (line tenant : Nat) : Option Nat :=
  let ways := (s.wayMaskOf (homeSlice (offOf (line * 128))) tenant).ways
  let set := s.l2.filter fun l => sameSet l.line line
  match firstFrom (fun w => ways.getLsbD w && !(set.any fun l => l.way == w)) 16 0 with
  | some w => some w
  | none => ((set.filter fun l => ways.getLsbD l.way).getLast?).map fun l => l.way

/-- A line comes into a way its tenant may use, in place of what lay there (R121 to R123): all four sectors, none dirty. -/
def State.l2Put (s : State) (line tenant : Nat) (guest : Option Guest) : State :=
  match s.pickWay line tenant with
  | none => s
  | some w =>
    { s with l2 := ⟨line, w, tenant, 0xF, 0, guest⟩ ::
        s.l2.filter fun l => l.line != line && !(sameSet l.line line && l.way == w) }

/-- A line of L2, by its box line number, is used and, by a write, its sectors become dirty (R121, R123): it is now the most recently used. -/
def State.touchL2 (s : State) (line : Nat) (dirty : BitVec 4) : State :=
  { s with l2 := ((s.l2.filter fun l => l.line == line).map fun l => { l with dirty := l.dirty ||| dirty }) ++
      s.l2.filter fun l => l.line != line }

/-- An access of a tenant that is served at the home of a line of this chip (R121, R123): a hit uses the line, a miss brings
it in, but for a UC page (R169). -/
def State.l2Use (s : State) (pa tenant : Nat) : State :=
  if s.l2.any fun l => l.line == pa / 128 then s.touchL2 (pa / 128) 0
  else if (s.attrOf (pa / 4096)).policy = 1 then s
  else s.l2Put (pa / 128) tenant none

/-- A byte with its bit mask at a chip offset. -/
structure HomeByte where
  off : Nat
  mask : Byte
  val : Byte
  deriving DecidableEq, Repr

/-- Put masked bytes into memory. -/
def Memory.merge (m : List Host.Cell) : List HomeByte → List Host.Cell
  | [] => m
  | b :: bs => Memory.merge (Memory.write m b.off (maskByte (Memory.read m b.off) b.mask b.val)) bs

/-- The distinct sectors of a list of bytes. -/
def sectorsOf (bs : List HomeByte) : List Nat := (bs.map fun b => b.off / 32).eraseDups

/-- The distinct lines of a list of bytes. -/
def linesOf (bs : List HomeByte) : List Nat := (bs.map fun b => b.off / 128).eraseDups

/-- Whether the bytes cover a whole sector (R128: such a write clears its poison). -/
def coversSector (bs : List HomeByte) (sec : Nat) : Bool :=
  (List.range 32).all fun i => bs.any fun b => b.off == sec * 32 + i && b.mask == 0xFF#8

/-- The sectors of a line that a list of bytes writes. -/
def sectorMask (bs : List HomeByte) (line : Nat) : BitVec 4 :=
  BitVec.ofNat 4 (bitsOf (fun i => bs.any fun b => b.off / 32 == line * 4 + i) 4)

/-- A write granted at the home (R126, R128, R160): the copy, the bytes, new check values; a partly written sector is verified
and keeps its poison, a wholly written one takes `poison` of the data. -/
def State.writeHome (s : State) (bs : List HomeByte) (src : WriteSrc) (poison : Bool) : State :=
  let s1 := (linesOf bs).foldl (fun s l => (s.copyOnWrite (l * 128) src).touchL2 (s.boxPa (l * 128) / 128) (sectorMask bs l)) s
  let s2 := { s1 with mem := Memory.merge s1.mem bs }
  (sectorsOf bs).foldl (fun t sec =>
    t.remakeSector sec ((s.poisonAt (sec * 32) && !coversSector bs sec) || poison)) s2

/-- Whole bytes at consecutive addresses. -/
def homeBytesAt (off : Nat) (bs : List Byte) : List HomeByte :=
  (List.range bs.length).map fun i => ⟨off + i, 0xFF, bs.getD i 0⟩

/-- A sector of L1 (R119). -/
def Core.sector? (c : Core) (sec : Nat) : Option Sector := c.l1.find? fun x => x.sec == sec

/-- Ways of the L1 for a split (R119). -/
def l1Ways (split : Nat) : Nat := if split = 0 then 20 else if split = 1 then 28 else 36

/-- The lines of a set, most recently used first. -/
def Core.setLines (c : Core) (set : Nat) : List Nat :=
  ((c.l1.filter fun x => x.sec / 4 % 128 == set).map fun x => x.sec / 4).eraseDups

/-- Write a sector back to its home (R111, R119): private data that is dirty. -/
def State.writeBackSector (s : State) (x : Sector) : State :=
  if x.dirty then s.writeHome (homeBytesAt (offOf (x.sec * 32)) x.data) .other x.poison else s

/-- Bring a sector into L1, evicting the least recently used line of its set if the set is full (R119). -/
def State.l1Fill (s : State) (core : Nat) (x : Sector) : State :=
  let c := s.core core
  let set := x.sec / 4 % 128
  let here := c.l1.filter fun y => y.sec != x.sec
  let lines := c.setLines set
  if lines.contains (x.sec / 4) || decide (lines.length < l1Ways c.l1split) then
    s.setCore core { c with l1 := x :: here }
  else
    let victim := lines.getLastD 0
    let s1 := (here.filter fun y => y.sec / 4 == victim).foldl State.writeBackSector s
    (s1.setCore core { s1.core core with l1 := x :: here.filter fun y => y.sec / 4 != victim })

/-- The bytes of a list that lie in a sector, under their masks, over what it holds. -/
def overSector (bs : List HomeByte) (sec : Nat) (data : List Byte) : List Byte :=
  bs.foldl (fun d b => if b.off / 32 = sec then d.set (b.off % 32) (maskByte (d.getD (b.off % 32) 0) b.mask b.val) else d) data

/-- Whether a sector is poisoned after a write (R128): a wholly written one takes `poison` of the data, a partly written one
keeps its own. -/
def poisonAfter (bs : List HomeByte) (sec : Nat) (old poison : Bool) : Bool := (old && !coversSector bs sec) || poison

/-- The sectors of a core's L1 that are present take the bytes of a write, by box physical address (R120, R128, R145); that
uses them (R119). -/
def State.l1Write (s : State) (core : Nat) (bs : List HomeByte) (poison : Bool) : State :=
  (sectorsOf bs).foldl (fun (s : State) sec =>
    let c := s.core core
    match c.sector? sec with
    | some x => s.setCore core { c with
        l1 := { x with data := overSector bs sec x.data, poison := poisonAfter bs sec x.poison poison } ::
          c.l1.filter fun y => y.sec != sec }
    | none => s) s

/-- Invalidate every global line of a core's L1 (ACQUIRE, R140), and what has come for it and was not used yet. -/
def State.l1DropGlobal (s : State) (core : Nat) : State :=
  let c := s.core core
  s.setCore core { c with l1 := c.l1.filter fun x => x.priv, inbox := [] }

/-- Write back every dirty line and invalidate every line (R119). -/
def State.l1Flush (s : State) (core : Nat) : State :=
  let s1 := (s.core core).l1.foldl State.writeBackSector s
  s1.setCore core { s1.core core with l1 := [], inbox := [] }

/-- Write back the dirty private lines of a range of chip offsets (R111, R208). -/
def State.l1WriteBackRange (s : State) (core lo hi : Nat) : State :=
  let mine := fun (x : Sector) => x.priv && decide (lo ≤ offOf (x.sec * 32)) && decide (offOf (x.sec * 32) < hi)
  let s1 := ((s.core core).l1.filter mine).foldl State.writeBackSector s
  let c := s1.core core
  s1.setCore core { c with l1 := c.l1.filter fun x => !mine x }

/-- The sector of private or global memory a core sees at a box physical address: L1's, else the home's. DEDUCED:
notes/assumptions/48.md. -/
def State.sectorSeen (s : State) (core pa : Nat) (priv : Bool) : Sector :=
  match (s.core core).sector? (pa / 32) with
  | some x => x
  | none => ⟨pa / 32, priv, false, s.poisonAt (offOf (pa / 32 * 32)), s.homeBytes (offOf (pa / 32 * 32)) 32⟩

/-- Private bytes are written in L1, their sectors filled first (R111, R128). -/
def State.privWrite (s : State) (core : Nat) (bs : List HomeByte) : State :=
  (sectorsOf bs).foldl (fun (s : State) sec =>
    let x := s.sectorSeen core (sec * 32) true
    s.l1Fill core { x with
      priv := true, dirty := true, data := overSector bs sec x.data, poison := poisonAfter bs sec x.poison false }) s

/-- The chip offset of byte `b` of word `word` of thread `j` (R109). -/
def privOff (pb j word b : Nat) : Nat := pb + (word * 32 + j) * 4 + b

/-- The byte of a share. -/
def Wg.shareByte (g : Wg) (off : Nat) : Byte := g.share.val 0 off

/-- Write a byte of a share. -/
def Wg.setShare (g : Wg) (off : Nat) (v : Byte) : Wg := { g with share := g.share.store 0 off v }

/-- The L2 guest line that serves a train of guest generation `gg` (R146). -/
def State.guest? (s : State) (pa : Nat) (gg : W32) : Option Guest :=
  (s.l2.find? fun l => l.line == pa / 128 && l.guest.any fun g => gg.ule g.gen).bind fun l => l.guest

/-- The bytes of a list that lie in a guest line, over what it holds (R146, R128). -/
def Guest.write (g : Guest) (line : Nat) (bs : List HomeByte) (poison : Bool) : Guest :=
  { g with
    data := bs.foldl (fun d b => if b.off / 128 = line then d.set (b.off % 128) (maskByte (d.getD (b.off % 128) 0) b.mask b.val) else d) g.data
    poison := BitVec.ofNat 4 (bitsOf (fun i =>
      if bs.any fun b => b.off / 32 == line * 4 + i then poisonAfter bs (line * 4 + i) (g.poison.getLsbD i) poison
      else g.poison.getLsbD i) 4) }

/-- A remote store passes the local slice: a present guest sector is updated in place (R146). -/
def State.guestUpdate (s : State) (bs : List HomeByte) (poison : Bool) : State :=
  { s with l2 := s.l2.map fun l =>
      if bs.any fun b => b.off / 128 == l.line then { l with guest := l.guest.map fun g => g.write l.line bs poison } else l }

/-- Every guest line that a condition on its box line number names leaves L2. -/
def State.dropGuests (s : State) (p : Nat → Bool) : State :=
  { s with l2 := s.l2.filter fun l => !(l.guest.isSome && p l.line) }

/-- A filled guest line is kept in the requesting tenant's ways (R123) unless its mask is empty or the hint forbids it
(R348). -/
def State.guestFill (s : State) (pa tenant alloc : Nat) (data : List Byte) (poison : BitVec 4) : State :=
  if alloc = 2 then s else s.l2Put (pa / 128) tenant (some ⟨data, poison, s.bxgen⟩)

end Sys2Proof.Machine
end

