-- ==== Sys2Proof/Machine/Translate.lean ====
section
/-! DEFINITION. Translation and rights (spec/08_translation_and_leases.md R167 to R183), regions and shares (R112 to R118),
private windows (R109, R110), and with them the one resolution of an access, in the order of R239. -/

namespace Sys2Proof.Machine

/-- What kind of access asks for a translation (R173, R175). An atomic needs R and W. -/
inductive Access where
  | load | store | atomic | fetch
  deriving DecidableEq, Repr

/-- Whether rights `r w x` admit an access. -/
def Access.allowed (k : Access) (r w x : Bool) : Bool :=
  match k with
  | .load => r
  | .store => w
  | .atomic => r && w
  | .fetch => x

/-- Fields of a table entry (R169). -/
def leafV (e : W64) : Bool := e.getLsbD 0
/-- LEAF of R169. -/
def leafLeaf (e : W64) : Bool := e.getLsbD 1
/-- R of R169. -/
def leafR (e : W64) : Bool := e.getLsbD 2
/-- W of R169. -/
def leafW (e : W64) : Bool := e.getLsbD 3
/-- X of R169. -/
def leafX (e : W64) : Bool := e.getLsbD 4
/-- POL of R169: 1 is UC. -/
def leafPol (e : W64) : Nat := bitsAt e.toNat 5 1
/-- DISC of R169. -/
def leafDisc (e : W64) : Bool := e.getLsbD 6
/-- PA[43:12] of R169: a box frame number. -/
def leafFrame (e : W64) : Nat := bitsAt e.toNat 12 32

/-- Whether an entry read at level `lv` is malformed (R170); `poisoned` says that its sector is. -/
def entryMalformed (chip lv : Nat) (e : W64) (poisoned : Bool) : Bool :=
  let pa := leafFrame e * 4096
  poisoned || bitsAt e.toNat 7 5 != 0 || bitsAt e.toNat 44 20 != 0
    || (leafLeaf e && lv == 3) || (!leafLeaf e && lv == 0)
    || (!leafLeaf e && (leafR e || leafW e || leafX e || leafPol e != 0 || leafDisc e || chipOf pa != chip))
    || (leafLeaf e && leafFrame e % 512 ^ lv != 0)
    || decide (Config.chipEnd ≤ offOf pa)

/-- What a walk finds (R170): nothing, a malformed entry, or a leaf at a level. -/
inductive Walk where
  | absent
  | malformed
  | leaf (level : Nat) (e : W64)
  deriving DecidableEq, Repr

/-- The chip offset of the entry of an address in a table at a box frame (R169). -/
def entryOff (table va lv : Nat) : Nat := offOf (table * 4096) + 8 * bitsAt va (12 + 9 * lv) 9

/-- The first page of the `512^lv` pages that share an entry at a level with an address. -/
def entryPage (va lv : Nat) : Nat := va / 4096 / 512 ^ lv * 512 ^ lv

/-- The entry that a walk for a tenant reads at a level (R170), and whether its sector is poisoned (R128): the walk cache's, if
it holds one (R178). -/
def State.entryAt (s : State) (tenant va lv table : Nat) : W64 × Bool :=
  match s.walks.find? fun x => x.tenant == tenant && x.level == lv && x.page == entryPage va lv with
  | some x => (x.entry, false)
  | none => (s.homeWord (entryOff table va lv), s.poisonAt (entryOff table va lv))

/-- The walk from a table at box frame `table`, level `lv - 1` downwards (R170). An entry in a poisoned sector is malformed
(R128), whatever its V; DEDUCED: notes/assumptions/79.md. -/
def State.walkFrom (s : State) (tenant va : Nat) : Nat → Nat → Walk
  | 0, _ => .malformed
  | lv + 1, table =>
    let (e, poisoned) := s.entryAt tenant va lv table
    if !leafV e && !poisoned then .absent
    else if entryMalformed s.chipId lv e poisoned then .malformed
    else if leafLeaf e then .leaf lv e
    else s.walkFrom tenant va lv (leafFrame e)

/-- WALK of R170 from the tenant's root (R168). -/
def State.walk (s : State) (tenant va : Nat) : Walk :=
  let r := s.troot.val 0 tenant
  if r.getLsbD 0 then s.walkFrom tenant va 4 (bitsAt r.toNat 12 32) else .absent

/-- The non-leaf entries on the way of a walk (R178). -/
def State.pathFrom (s : State) (tenant va : Nat) : Nat → Nat → List WcEntry
  | 0, _ => []
  | lv + 1, table =>
    let (e, poisoned) := s.entryAt tenant va lv table
    if !leafV e || entryMalformed s.chipId lv e poisoned || leafLeaf e then []
    else ⟨tenant, lv, entryPage va lv, e⟩ :: s.pathFrom tenant va lv (leafFrame e)

/-- The same from the tenant's root. -/
def State.walkPath (s : State) (tenant va : Nat) : List WcEntry :=
  let r := s.troot.val 0 tenant
  if r.getLsbD 0 then s.pathFrom tenant va 4 (bitsAt r.toNat 12 32) else []

/-- Whether a page of `512^level` pages from `page` holds the page of `va`. -/
def pageCovers (page level va : Nat) : Bool := decide (page ≤ va / 4096) && decide (va / 4096 < page + 512 ^ level)

/-- The pinned leaf of a task's lease at an address (R174). -/
def Task.pinFor (t : Task) (va : Nat) : Option Pin := t.pins.find? fun p => pageCovers p.page p.level va

/-- A lease covers an address. -/
def Lease.covers (l : Lease) (va : Nat) : Bool := decide (l.base ≤ va) && decide (va < l.base + l.len)

/-- Whether a task's handler window, as it was pinned, covers an address (R240). -/
def Task.windowCovers (t : Task) (va : Nat) : Bool := decide (t.window.1 ≤ va / 4096) && decide (va / 4096 < t.window.1 + t.window.2)

/-- The rights of a task's leases at an address (R173). -/
def Task.leaseRights (t : Task) (va : Nat) : Bool × Bool × Bool :=
  let ls := t.rcd.leases.filter fun l => l.covers va
  (ls.any Lease.r, ls.any Lease.w, ls.any Lease.x)

/-- Whether the task's leases admit an access at an address (R173, R175); the window is admitted in handler mode alone, whatever
leases it overlaps (R240, R244). No lease reaches the descriptor range (R202). -/
def Task.admits (t : Task) (hmode : Bool) (va : Nat) (k : Access) : Bool :=
  let (r, w, x) := t.leaseRights va
  decide (va < Config.ctxVa) && if t.windowCovers va then hmode else k.allowed r w x

/-- A translation (R178): a translation-cache entry of the core, else a walk. -/
def State.tcLookup (s : State) (core tenant va : Nat) : Option TcEntry :=
  (s.core core).tc.find? fun e => e.tenant == tenant && pageCovers e.page e.level va

/-- What a translation answers. -/
inductive Xlate where
  | ok (pa : Nat) (disc uc : Bool)
  | lease
  | aliasing
  | pullLost
  deriving DecidableEq, Repr

/-- The box physical address of `va` in a leaf at a level. -/
def leafPa (e : W64) (level va : Nat) : Nat := leafFrame e * 4096 + va % (4096 * 512 ^ level)

/-- A leaf answers, unless its frame's policy differs (R172) or its chip is lost (R174, R237). -/
def State.useLeaf (s : State) (e : W64) (level va : Nat) : Xlate :=
  let pa := leafPa e level va
  if leafPol e != (s.attrOf (pa / 4096)).policy then .aliasing
  else if s.dead.getLsbD (chipOf pa) || s.unreach.getLsbD (chipOf pa) then .pullLost
  else .ok pa (leafDisc e) (leafPol e == 1)

/-- A post-copy pull is not finished for the line at a box physical address (R182): an access waits. DEDUCED:
notes/assumptions/74.md. -/
def State.pullPending (s : State) (pa : Nat) : Bool :=
  let a := s.attrOf (pa / 4096)
  a.pull && !a.lost && !a.pulled.getLsbD (pa / 128 % 32)

/-- The line at a box physical address is lost with its pull source (R183). -/
def State.pullLost (s : State) (pa : Nat) : Bool :=
  let a := s.attrOf (pa / 4096)
  a.lost && !a.pulled.getLsbD (pa / 128 % 32)

/-- An access starts the pulls of the lines that it waits for (R182). -/
def State.askPulls (s : State) (pas : List Nat) : State :=
  { s with pulls := s.pulls ++ ((pas.filter s.pullPending).map fun pa => pa / 128).eraseDups.filter fun l => !s.pulls.contains l }

/-- The table entry that a walk must read from a line whose pull is not finished (R182), by box physical address. -/
def State.pullOnWalk (s : State) (tenant va : Nat) : Nat → Nat → Option Nat
  | 0, _ => none
  | lv + 1, table =>
    let pa := s.boxPa (entryOff table va lv)
    let hit := s.walks.any fun x => x.tenant == tenant && x.level == lv && x.page == entryPage va lv
    if !hit && s.pullPending pa then some pa
    else
      let (e, poisoned) := s.entryAt tenant va lv table
      if !leafV e || entryMalformed s.chipId lv e poisoned || leafLeaf e then none
      else s.pullOnWalk tenant va lv (leafFrame e)

/-- The same for an address that a tenant translates on a core; none where the core's translation cache holds its page. -/
def State.walkPull (s : State) (core tenant va : Nat) : Option Nat :=
  let r := s.troot.val 0 tenant
  if (s.tcLookup core tenant va).isSome || !r.getLsbD 0 then none
  else s.pullOnWalk tenant va 4 (bitsAt r.toNat 12 32)

/-- Translate one address for a task on a core (R175, R177, R178). -/
def State.translate (s : State) (core : Nat) (t : Task) (hmode : Bool) (va : Nat) (k : Access) : Xlate :=
  if !t.admits hmode va k then .lease
  else
    match s.tcLookup core t.rcd.tenant va with
    | some e => s.useLeaf e.leaf e.level va
    | none =>
      match s.walk t.rcd.tenant va, t.pinFor va with
      | .leaf lv e, some p =>
        match s.useLeaf e lv va with
        | .aliasing => .aliasing
        | r => if (e ||| 0x40#64) = (p.leaf ||| 0x40#64) ∧ lv = p.level then r else .lease
      | _, _ => .lease

/-- The walk cache keeps the non-leaf entries that a walk has read, 256 of them, the newest (R178; DESIGN CHOICE: the spec names
no replacement, notes/assumptions/80.md). -/
def State.keepPath (s : State) (es : List WcEntry) : State :=
  { s with walks := (es.filter (fun x => !s.walks.contains x) ++ s.walks).take 256 }

/-- A walk that succeeds for a page of a live lease fills the core's translation cache (R178): the newest 2,048 entries stay
(DESIGN CHOICE: the spec names no replacement, notes/assumptions/80.md). -/
def State.tcFill (s : State) (core : Nat) (t : Task) (va : Nat) : State :=
  match s.tcLookup core t.rcd.tenant va with
  | some _ => s
  | none =>
    match s.walk t.rcd.tenant va, t.pinFor va with
    | .leaf lv e, some p =>
      if (e ||| 0x40#64) = (p.leaf ||| 0x40#64) ∧ lv = p.level then
        let c := s.core core
        let entry : TcEntry := ⟨t.rcd.tenant, entryPage va lv, lv, e, if t.windowCovers va then (true, true, true) else t.leaseRights va⟩
        (s.keepPath (s.walkPath t.rcd.tenant va)).setCore core { c with tc := (entry :: c.tc).take 2048 }
      else s
    | _, _ => s

/-- The cluster group of a workgroup (R114): shadows and replays stand apart from the runs they follow (R347). -/
def Wg.group (g : Wg) : Nat :=
  clusterOf g.lastCore + match g.mode with
    | .shadow => 16
    | .replay => 32
    | _ => 0

/-- The live region that a handle names for workgroup `w` (R114): one that it holds, wherever it was made (R46), or one of
its cluster group. -/
def State.region? (s : State) (w slot group handle : Nat) : Option Region :=
  match s.regions.find? fun r => r.handle == handle && r.holder == w with
  | some r => some r
  | none => s.regions.find? fun r => r.slot == slot && r.cluster == group && r.handle == handle

/-- The region of creator `w` that holds a byte of its share. -/
def State.regionAt? (s : State) (w off : Nat) : Option Region :=
  s.regions.find? fun r => r.creator == w && decide (r.off ≤ off) && decide (off < r.off + r.len)

/-- Whether workgroup `w` may reach a byte of the share of `owner`: no region it does not hold lies there (R113, R115). -/
def State.mayTouch (s : State) (w owner off : Nat) : Bool :=
  match s.regionAt? owner off with
  | some r => r.holder == w && r.offered.isNone
  | none => true

/-- A fault of one access with the address it reports (R239). -/
abbrev AccessFault := Cause × W64

/-- Where a scratchpad range of `n` bytes lies (R113): the locations, or the fault. -/
def State.shareLocs (s : State) (w : Nat) (g : Wg) (size : Nat) (handle off n : Nat) (a : W64) :
    Except AccessFault (List Loc) :=
  if handle = 0 then
    if size < off + n then .error (.space, a)
    else if (List.range n).all fun i => s.mayTouch w w (off + i) then
      .ok ((List.range n).map fun i => .share w (off + i))
    else .error (.handle, a)
  else
    match s.region? w g.slot g.group handle with
    | none => .error (.handle, a)
    | some r =>
      if r.len < off + n then .error (.space, a)
      else if (List.range n).all fun i => s.mayTouch w r.creator (r.off + off + i) then
        .ok ((List.range n).map fun i => .share r.creator (r.off + off + i))
      else .error (.handle, a)

/-- The task's share size and the descriptor a handler may reach at an address of the range of R202: its own context's,
or that of the context ACOWN names (R408). -/
def State.descAt? (s : State) (core : Nat) (g : Wg) (va : Nat) : Option (Nat × Nat) :=
  let c := (va - Config.ctxVa) / 64
  let off := (va - Config.ctxVa) % 64
  let acc := s.core core
  if c = g.ctx.toNat ∨ (acc.valid ∧ c = acc.owner.toNat) then some (c, off) else none

/-- Where a global range of `n` bytes lies (R175, R179, R202, R408): the locations, or the fault. -/
def State.globLocs (s : State) (core : Nat) (g : Wg) (t : Task) (hmode : Bool) (va n : Nat) (k : Access) (a : W64) :
    Except AccessFault (List Loc) :=
  if Config.ctxVa ≤ va then
    let okStore := decide (0x10 ≤ va % 64) && decide (va % 64 + n ≤ 0x30)
    match s.descAt? core g va with
    | some (c, off) =>
      if hmode && (k == .load || (k == .store && okStore)) && decide (off + n ≤ 64) then
        .ok ((List.range n).map fun i => .desc c (off + i))
      else .error (.lease, a)
    | none => .error (.lease, a)
  else
    (List.range n).foldr (fun i acc =>
      match s.translate core t hmode (va + i) k with
      | .ok pa disc _ =>
        match acc with
        | .ok ls => .ok ((if disc then Loc.discarded pa else Loc.glob pa) :: ls)
        | .error e => .error e
      | .lease => .error (.lease, a)
      | .aliasing => .error (.aliasing, a)
      | .pullLost => .error (.pullLost, a)) (.ok [])

/-- Where a private range of `n` bytes lies (R109, R110): the locations, or the fault. -/
def privLocs (tr : Train) (j off n : Nat) (a : W64) : Except AccessFault (List Loc) :=
  if n = 0 then .ok []
  else if tr.privb.toNat ≤ (off + n - 1) / 4 then .error (.stackLimit, a)
  else .ok ((List.range n).map fun i => .priv (privOff tr.pb j ((off + i) / 4) ((off + i) % 4)))

/-- Who resolves an access: a train of a workgroup on a core. -/
structure Who where
  w : Nat
  g : Wg
  tr : Train
  task : Task
  core : Nat

/-- Resolve an access of thread `j` of `n` bytes at `a`, aligned to `al`, in the order of R239. `privOk` says whether its
class reaches the private space (R107). -/
def State.resolve (s : State) (c : Who) (j : Nat) (a : W64) (n al : Nat) (k : Access) (privOk : Bool) :
    Except AccessFault (List Loc) :=
  match spaceOf a with
  | .none => .error (.space, a)
  | .priv off =>
    if !privOk then .error (.space, a)
    else if !aligned a.toNat al then .error (.misaligned, a)
    else privLocs c.tr j off n a
  | .share h off =>
    if !aligned a.toNat al then .error (.misaligned, a)
    else s.shareLocs c.w c.g c.task.rcd.scratch h off n a
  | .glob va =>
    if !aligned a.toNat al then .error (.misaligned, a)
    else s.globLocs c.core c.g c.task c.tr.hmode va n k a

/-- The translation caches learn the page of a global address (R178). -/
def State.learn (s : State) (c : Who) (a : W64) : State :=
  match spaceOf a with
  | .glob va => if va < Config.ctxVa then s.tcFill c.core c.task va else s
  | _ => s

/-- The lines that a task's access on a core waits for before it can be translated (R182). -/
def State.walkPulls (s : State) (c : Who) (as : List W64) : List Nat :=
  as.filterMap fun a => match spaceOf a with
    | .glob va => s.walkPull c.core c.task.rcd.tenant va
    | _ => none

/-- A leaf with DISC cleared. -/
def reviveLeaf (e : W64) : W64 := e &&& ~~~0x40#64

end Sys2Proof.Machine
end

