-- ==== Sys2Proof/Machine/Order.lean ====
section
/-! DEFINITION. RELEASE and ACQUIRE of R140, fence markers (R141), scope demotion (R144), FENCE_LOST (R151). Other files
use them unchanged. Scopes are the codes of R137: 0 train, 1 workgroup, 2 cluster, 3 chip, 4 box. -/

namespace Sys2Proof.Machine

/-- A tenant's CHIPONLY (R194). -/
def State.chipOnly (s : State) (tenant : Nat) : Bool := (s.tenpol.val 0 tenant).getLsbD 0

/-- The scope an order of a tenant runs at (R144). -/
def State.runScope (s : State) (tenant sc : Nat) : Nat := if sc = 4 ∧ s.chipOnly tenant then 3 else sc

/-- SCOPE_DEMOTED is set by a demoted order (R144). DEDUCED: notes/assumptions/22.md. -/
def State.noteDemoted (s : State) (w t tenant sc : Nat) : State :=
  if sc = 4 ∧ s.chipOnly tenant then s.updTrain w t fun tr => { tr with demoted := true } else s

/-- Whether a marker to a destination belongs to a release of scope `sc` (R140). -/
def markerInScope (sc : Nat) : Dest → Bool
  | .chip _ => sc == 4
  | _ => true

/-- Whether a destination is a chip marked dead or unreachable (R151, R236). -/
def State.destDead (s : State) : Dest → Bool
  | .chip c => s.dead.getLsbD c || s.unreach.getLsbD c
  | _ => false

/-- The port of this chip that leads to another (R9). -/
def State.portTo (s : State) (chip : Nat) : Nat := (chip + 3 - s.chipId) % 4

/-- Whether a virtual channel towards a chip takes flits (R255): its link is up, and the peer has not paused it. -/
def State.chanOpen (s : State) (chip chan : Nat) : Bool :=
  match s.links[s.portTo chip]? with
  | some l => l.up && !(l.chans.getD chan .reset).stopped
  | none => false

/-- A message of a virtual channel is taken from its receive buffer; at 16 flits the channel is resumed (R255). -/
def Chan.take (c : Chan) : Chan := { c with level := c.level - 1, paused := c.paused && decide (16 < c.level - 1) }

/-- Change a virtual channel of the port at an index. -/
def State.updChan (s : State) (port chan : Nat) (f : Chan → Chan) : State :=
  match s.links[port]? with
  | some l => { s with links := s.links.set port { l with chans := l.chans.set chan (f (l.chans.getD chan .reset)) } }
  | none => s

/-- A message of another chip is taken. -/
def State.takeFlit (s : State) (chip chan : Nat) : State := s.updChan (s.portTo chip) chan Chan.take

/-- The same for an answer about a destination. -/
def State.takeAnswer (s : State) : Dest → State
  | .chip c => s.takeFlit c 1
  | _ => s

/-- Whether a write may leave towards its destination: any time on this chip, on an open channel to another (R255). -/
def State.mayGo (s : State) : Dest → Bool
  | .chip c => s.destDead (.chip c) || s.chanOpen c 0
  | _ => true

/-- Whether a destination is another chip. -/
def destIsChip : Dest → Bool
  | .chip _ => true
  | _ => false

/-- An entry is still in the store buffer: it has not left towards its destination (R134). -/
def SbEntry.inBuffer (e : SbEntry) : Bool := e.stage == .held || e.stage == .compare

/-- Whether a split's loads read an entry (R134, R29). -/
def SbEntry.forwardsTo (e : SbEntry) (p : Nat) : Bool := e.vis || e.owners.contains p

/-- Whether writes of a train to a destination, from id `lo` up to id `hi`, are not acknowledged: entries, and atomics whose
answer is not back (R136, R140, R141). -/
def State.unfenced (s : State) (w t : Nat) (tr : Train) (d : Dest) (lo hi : Nat) : Bool :=
  (tr.sb.any fun e => e.dest == d && decide (lo ≤ e.id) && decide (e.id < hi)) ||
    s.resp.any fun r => r.w == w && r.t == t && s.destOf r.pa == d && decide (lo ≤ r.o) && decide (r.o < hi)

/-- The marker of a destination. -/
def Train.marker? (tr : Train) (d : Dest) : Option Marker := tr.markers.find? fun m => m.dest == d

/-- A destination is fenced for a release of the writes before id `u` (R140, R141): its marker was acknowledged, its chip is
dead, or it needed none. -/
def State.fenced (s : State) (tr : Train) (u : Nat) (d : Dest) : Bool :=
  s.destDead d || match tr.marker? d with
    | some m => m.acked && decide (u ≤ m.upto)
    | none => true

/-- Send a marker to a destination behind everything the train has written to it (R140); one that already is behind it
serves. -/
def State.sendMarker (s : State) (w t u : Nat) (tr : Train) (d : Dest) : Train :=
  let keep := match tr.marker? d with
    | some m => m.acked && !s.unfenced w t tr d m.upto u
    | none => false
  { tr with markers := ⟨d, u, keep⟩ :: tr.markers.filter fun x => x.dest != d }

/-- USED and the markers after a release: acknowledged destinations leave USED (R140), but for what was written to them
since. -/
def State.settleMarkers (s : State) (w t : Nat) (tr : Train) (u : Nat) (ds : List Dest) : Train :=
  let gone := fun (d : Dest) => ds.contains d && !s.destDead d
  { tr with
    used := tr.used.filter fun d => !gone d || s.unfenced w t tr d u tr.nextId
    markers := tr.markers.filter fun m => !gone m.dest }

/-- How a RELEASE stands: finished, waiting, or finished with FENCE_LOST (R151). -/
inductive Rel where
  | done (s : State)
  | wait (s : State)
  | lost (s : State)

/-- A RELEASE whose markers are sent waits for them, and then is finished (R140): `u` is the id that its writes lie below. -/
def State.releaseFrom (s : State) (w t p sc u : Nat) (tr : Train) : Rel :=
  let ds := tr.used.filter (markerInScope sc)
  if ds.all (s.fenced tr u) then
    let s' := s.setTrain w t ((s.settleMarkers w t tr u ds).updSplit p fun q => { q with rel := none })
    if ds.any s.destDead then .lost s' else .done s'
  else .wait (s.setTrain w t (tr.updSplit p fun q => { q with rel := some u }))

/-- RELEASE(sc) for split `p` of a train (R140); `sc` is the scope it runs at. It waits until the buffer is empty, sends its
markers once, and then waits for them. -/
def State.release (s : State) (w t p sc : Nat) : Rel :=
  match s.train? w t with
  | none => .done s
  | some tr =>
    if sc = 0 then
      .done (s.setTrain w t { tr with sb := tr.sb.map fun e => if e.owners.contains p then { e with vis := true } else e })
    else
      match (tr.split? p).bind Split.rel with
      | some u => s.releaseFrom w t p sc u tr
      | none =>
        if tr.sb.any fun e => e.inBuffer && !e.owners.isEmpty then .wait s
        else s.releaseFrom w t p sc tr.nextId
          ((tr.used.filter (markerInScope sc)).foldl (s.sendMarker w t tr.nextId) tr)

/-- The next BXGEN; a wrap invalidates every guest line (R140, R146). -/
def State.bumpBxgen (s : State) : State :=
  let n := s.bxgen + 1
  State.dropGuests { s with bxgen := n } fun _ => decide (n = 0)

/-- ACQUIRE(sc) for a train (R140). -/
def State.acquire (s : State) (w t sc : Nat) : State :=
  let s1 := if 2 ≤ sc then
      match s.wg? w with
      | some g => s.l1DropGlobal g.lastCore
      | none => s
    else s
  if sc = 4 then
    let s2 := s1.bumpBxgen
    s2.updTrain w t fun tr => { tr with gg := s2.bxgen }
  else s1

end Sys2Proof.Machine
end

