-- ==== Sys2Proof/Machine/Ops.lean ====
section
/-! DEFINITION. The operations every meaning shares: the issuing split (`Ctx`), what stops an issue (R265, R276, R239),
advancing past an instruction (R24, R44), instruction fetch (R260), raising a fault (R40, R238), taking a trap (R241,
R242), ending work (R245, R246), long-latency bookkeeping (R41), events of agents. -/

namespace Sys2Proof.Machine

/-! ### The issuing split -/

/-- What an instruction reads of the machine as it issues. -/
structure Ctx where
  w : Nat
  t : Nat
  p : Nat
  g : Wg
  tr : Train
  sp : Split
  task : Task
  core : Nat
  insn : Instr
  word : W32

/-- The issuing split named by `State.cur`. -/
def State.ctx? (s : State) (i : Instr) : Option Ctx :=
  match s.cur with
  | none => none
  | some k =>
    match s.wg? k.w, s.train? k.w k.t with
    | some g, some tr =>
      match tr.split? k.p, s.taskOf? g, g.core? with
      | some sp, some task, some core => some ⟨k.w, k.t, k.p, g, tr, sp, task, core, i, s.fetched⟩
      | _, _, _ => none
    | _, _ => none

/-- Who resolves an access of the issuing split. -/
def Ctx.who (c : Ctx) : Who := ⟨c.w, c.g, c.tr, c.task, c.core⟩

/-- The following instruction's address (R260). -/
def Ctx.next (c : Ctx) : W64 := pc48 (c.sp.pc.toNat + 4)

/-- Whether an instruction is per-thread (R21). -/
def isPerThread (i : Instr) : Bool :=
  match i with
  | .brd _ _ _ => true
  | _ => (guardOf i).isSome

/-- The threads that act: EXM, under the guard, without those already done (R20, R42, R262). -/
def Ctx.active (c : Ctx) : Mask :=
  let m := c.sp.exm &&& ~~~c.sp.done
  match guardOf c.insn with
  | some g => m &&& c.tr.getP g.toNat
  | none => m

/-- The acting threads in ascending index (R20). -/
def Ctx.threads (c : Ctx) : List Nat := maskThreads c.active

/-- Issue cycles (R20, R21, R23, R34, R399, R403). -/
def Ctx.cycles (c : Ctx) : Nat :=
  match c.insn with
  | .xshc _ _ _ _ => if c.sp.exm = 0 then 0 else 32
  | i =>
    if major i = 0x30 ∨ major i = 0x31 then 2 * maskCount c.active
    else if isPerThread i then maskCount (c.sp.exm &&& ~~~c.sp.done) else 1

/-- The lane of a train (R11). -/
def laneOf (trn : Nat) : Nat := trn % 32

/-- Every part of an instruction has its answer (R41). -/
def Outst.finished (o : Outst) : Bool :=
  o.loads.all (fun l => l.value.isSome) && o.waitsFor.isNone && o.atoms.isEmpty

/-- Splits that wait for anything at all issue again (Wait.retry), and those whose instructions have completed; of another
split's instruction its results are enough, for its own window hides them (R265, R327). -/
def Train.wake (tr : Train) : Train :=
  { tr with splits := tr.splits.map fun p =>
      match p.wait with
      | .retry => { p with wait := .ready }
      | .lehr => { p with wait := .ready }
      | .outst ids =>
        if tr.outst.any fun o => ids.contains o.id && (o.split == p.id || !o.finished) then p else { p with wait := .ready }
      | _ => p }

/-- Something has happened: every waiting split looks again. -/
def State.wake (s : State) : State := { s with trains := Cells.mapVals Train.wake s.trains }

/-! ### Advancing -/

/-- The split of an instruction that has completed its issue: it goes to `pc` (R24, R44). -/
def Split.advance (sp : Split) (pc : W64) (hmode : Bool) : Split :=
  { sp with
    pc := pc, dix := if hmode then sp.dix else sp.dix + 1, pfx := none, done := 0, wait := .ready, part := none, rel := none }

/-- The lookahead windows of a split's earlier instructions count one instruction (R265). -/
def Train.closeWindows (tr : Train) (p before : Nat) : Train :=
  { tr with outst := tr.outst.map fun o =>
      if o.split = p ∧ o.id < before then { o with window := o.window - 1 } else o }

/-- What tells the issues of a train's splits with one DIX apart: the place in the handler, the split's lowest thread. -/
def Train.subOf (tr : Train) (p : Nat) : Nat :=
  (if tr.hmode then tr.hcount + 1 else 0) * 32 + match tr.split? p with
    | some q => trailingZeros 32 q.member.toNat
    | none => 0

/-- The same of the issuing instruction. -/
def Ctx.sub (c : Ctx) : Nat := c.tr.subOf c.p

/-- The step key of the issuing instruction. -/
def Ctx.key (c : Ctx) : StepKey := ⟨c.sp.dix, c.sub, 0⟩

/-- Count an issue: the train's issues (R30), the lane's (R32), the handler's; the clock. -/
def State.countIssue (s : State) (c : Ctx) : State :=
  let co := s.core c.core
  let lane := laneOf c.tr.trn
  let n := co.lanes.val 0 lane + 1
  let s1 := { s.setCore c.core { co with lanes := co.lanes.put lane n } with clock := s.clock + c.cycles }
  s1.updTrain c.w c.t fun tr =>
    { (tr.updSplit c.p fun q => { q with last := n }) with
      issues := tr.issues + 1, hcount := if c.tr.hmode then tr.hcount + 1 else tr.hcount }

/-- An instruction has completed its issue; its split goes to `pc`. -/
def State.retireTo (s : State) (c : Ctx) (pc : W64) : State :=
  ((s.countIssue c).updTrain c.w c.t fun tr =>
    (tr.updSplit c.p fun q => q.advance pc c.tr.hmode).closeWindows c.p c.tr.nextId).wake

/-- An instruction has completed its issue; its split goes on. -/
def State.retire (s : State) (c : Ctx) : State := s.retireTo c c.next

/-- Set why the issuing split waits; its instruction issues again later. DEDUCED: notes/assumptions/13.md. -/
def State.stall (s : State) (c : Ctx) (x : Wait) : State :=
  s.updTrain c.w c.t fun tr => tr.updSplit c.p fun q => { q with wait := x }

/-- Threads of an instruction that have been performed are not performed again (R42). -/
def State.noteDone (s : State) (c : Ctx) (m : Mask) : State :=
  s.updTrain c.w c.t fun tr => tr.updSplit c.p fun q => { q with done := q.done ||| m }

/-- A prefix waits for the word it modifies (R268). -/
def State.retirePrefix (s : State) (c : Ctx) (k : PrefixKind) : State :=
  ((s.countIssue c).updTrain c.w c.t fun tr =>
    tr.updSplit c.p fun q =>
      { q with pc := c.next, dix := if c.tr.hmode then q.dix else q.dix + 1, wait := .ready,
               pfx := some ⟨k, c.sp.pc, c.word⟩ }).wake

/-! ### Instruction fetch -/

/-- What a fetch finds (R128, R175, R182, R260): its word, a fault, or a line that must come first, from another chip or by a
pull. -/
inductive Fetch where
  | word (x : W32)
  | fault (cause : Cause)
  | remote (pa : Nat)
  deriving DecidableEq, Repr

/-- A sector that a fetch finds on a core: in L1 unless the page is UC (R120, R169), or just come for it. -/
def Core.fetchSector? (c : Core) (uc : Bool) (pa : Nat) : Option Sector :=
  match if uc then none else c.sector? (pa / 32) with
  | some x => some x
  | none => c.inbox.find? fun x => x.sec == pa / 32

/-- The sector at a chip offset as its home holds it. -/
def State.homeSector (s : State) (pa : Nat) : Sector :=
  ⟨pa / 32, false, false, s.poisonAt (offOf (pa / 32 * 32)), s.homeBytes (offOf (pa / 32 * 32)) 32⟩

/-- The word at an address of a sector, unless it is poisoned (R128). -/
def Sector.fetch (x : Sector) (pa : Nat) : Fetch :=
  if x.poison then .fault .poison else .word (BitVec.ofNat 32 (ofBytes ((x.data.drop (pa % 32)).take 4)))

/-- Fetch the word at an address for a task on a core. -/
def State.fetchAt (s : State) (core : Nat) (t : Task) (hmode : Bool) (va : Nat) : Fetch :=
  match s.walkPull core t.rcd.tenant va with
  | some pa => .remote pa
  | none =>
    match s.translate core t hmode va .fetch with
    | .lease => .fault .lease
    | .aliasing => .fault .aliasing
    | .pullLost => .fault .pullLost
    | .ok pa disc uc =>
      if disc then .word 0
      else if s.pullLost pa then .fault .pullLost
      else if s.pullPending pa then .remote pa
      else
        match (s.core core).fetchSector? uc pa with
        | some x => x.fetch pa
        | none => if s.isLocal pa then (s.homeSector pa).fetch pa else .remote pa

/-- Whether a write from a core to a sector has been granted at its home on this chip, or is on its way to another chip, and its
acknowledgement is not back (R15, R145): what the home answers after it comes behind it. -/
def State.ackDue (s : State) (core sec : Nat) : Bool :=
  s.trains.any fun e => e.2.sb.any fun x => x.core == core && (x.stage == .granted || (x.stage == .sent && destIsChip x.dest)) &&
    x.bytes.any fun b => match b.loc with
      | .glob pa => pa / 32 == sec
      | _ => false

/-- What a fetch leaves behind (R119, R120, R178): its page in the translation cache, and its sector, now used, in L1; a UC page
leaves none (R169). -/
def State.noteFetch (s : State) (core : Nat) (t : Task) (hmode : Bool) (va : Nat) : State :=
  match s.translate core t hmode va .fetch with
  | .ok pa false uc =>
    let x := ((s.core core).fetchSector? uc pa).getD (s.homeSector pa)
    let s1 := s.tcFill core t va
    let s2 := s1.setCore core { s1.core core with inbox := (s1.core core).inbox.filter fun y => y.sec != pa / 32 }
    if uc then s2
    else
      let s3 := if s.isLocal pa && ((s.core core).fetchSector? uc pa).isNone then s2.l2Use pa t.rcd.tenant else s2
      if s.ackDue core (pa / 32) then s3 else s3.l1Fill core x
  | _ => s

/-- The budget that a word marks (R37). -/
def markOf (x : W32) : Nat :=
  match Sys2Proof.decode x with
  | some (.nop d) => if 1 ≤ d.toNat ∧ d.toNat ≤ 8 then 8 * d.toNat else 64
  | _ => 64

/-- The budget of the function at `T` (R37): the mark at `T - 4`; none while its line is on its way. -/
def State.budgetAt (s : State) (core : Nat) (t : Task) (hmode : Bool) (target : W64) : Except Nat Nat :=
  match s.fetchAt core t hmode (pc48 (target.toNat + 2 ^ 48 - 4)).toNat with
  | .word x => .ok (markOf x)
  | .fault _ => .ok 64
  | .remote pa => .error pa

/-! ### Long-latency instructions -/

/-- It has faulted. -/
def Outst.faulted (o : Outst) : Bool := o.fault.isSome

/-- Instructions that are not kept for RFT (R41 step 4). -/
def Train.live (tr : Train) : List Outst := tr.outst.filter fun o => !o.kept

/-- An outstanding instruction of the issuing split. DEDUCED: notes/assumptions/14.md. -/
def Ctx.newOutst (c : Ctx) (tr : Train) (m : Mask) : Outst where
  id := tr.nextId
  split := c.p
  pc := c.sp.pc
  pfx := c.sp.pfx
  word := c.word
  insn := c.insn
  dix := c.sp.dix
  exm := m
  window := (lookahead c.insn).getD 0
  loads := []
  writes := []
  done := c.sp.exm &&& c.sp.done
  fault := none
  waitsFor := none
  atoms := []
  kept := false
  ops := []
  sub := c.sub
  acq := none

/-- Add an outstanding instruction. -/
def State.addOutst (s : State) (c : Ctx) (m : Mask) (f : Outst → Outst) : State :=
  s.updTrain c.w c.t fun tr =>
    { tr with outst := tr.outst ++ [f (c.newOutst tr m)], nextId := tr.nextId + 1 }

/-- Change the outstanding instruction with an id. -/
def Train.updOutst (tr : Train) (o : Nat) (f : Outst → Outst) : Train :=
  { tr with outst := tr.outst.map fun x => if x.id = o then f x else x }

/-- The outstanding instruction with an id. -/
def Train.outst? (tr : Train) (o : Nat) : Option Outst := tr.outst.find? fun x => x.id == o

/-- A register write (R41). -/
def Train.applyWrite (tr : Train) : RegWrite → Train
  | .v j d x => tr.setV j d x
  | .k d x => tr.setK d x

/-- An instruction completes: its registers are written and it leaves (R41). -/
def Train.complete (tr : Train) (o : Outst) : Train :=
  let tr1 := o.writes.foldl Train.applyWrite tr
  { tr1 with outst := tr1.outst.filter fun x => x.id != o.id }

/-- The parts of a faulted instruction that have completed write their registers; it stays (R41). -/
def Train.deliver (tr : Train) (o : Outst) : Train :=
  (o.writes.foldl Train.applyWrite tr).updOutst o.id fun x => { x with writes := [] }

/-- A long-latency instruction all of whose results are known at issue: its writes wait for its completion (R41). -/
def State.finishLater (s : State) (c : Ctx) (ws : List RegWrite) : State :=
  (s.addOutst c c.active fun o => { o with writes := ws, done := c.active }).retire c

/-- A request for sectors that a fetch or a fill of core `core` waits for (R117, R120): no instruction's own; `split` is 64 where
no split waits for it. -/
def lineOutst (g : Wg) (id split core : Nat) (locs : List Loc) (clock : Nat) : Outst :=
  ⟨id, split, 0, none, 0, .nop 0, 0, 0, 0, [⟨0, 0, locs, false, none, false, clock, false, g.ctx, g.ctxgen⟩], [], 0, none, none, [], false,
    [BitVec.ofNat 64 core], 0, none⟩

/-- The locations of the sector at a box physical address. -/
def sectorLocs (pa : Nat) : List Loc := (List.range 32).map fun i => .glob (pa / 32 * 32 + i)

/-- The line at a physical address is fetched; the split waits for it. -/
def State.askLine (s : State) (c : Ctx) (pa : Nat) : State :=
  match s.train? c.w c.t with
  | none => s
  | some tr =>
    let o := lineOutst c.g tr.nextId c.p c.core (sectorLocs pa) s.clock
    ((s.setTrain c.w c.t { tr with outst := tr.outst ++ [o], nextId := tr.nextId + 1 }).askPulls [pa]).stall c (.outst [o.id])

/-! ### Checked pairs -/

/-- An item for the comparator of a level-3 task (R227). -/
def State.note (s : State) (w t : Nat) (key : StepKey) (item : CmpItem) (entry : Option Nat) : State :=
  match s.wg? w with
  | none => s
  | some g =>
    match s.taskOf? g with
    | none => s
    | some task =>
      if task.rcd.integ = 3 then
        s.updTrain w t fun tr => { tr with cmp := tr.cmp ++ [⟨key, item, entry, s.clock⟩] }
      else s

/-- A control transfer leaves these splits (R227). -/
def State.noteControl (s : State) (c : Ctx) (ps : List (W64 × Mask)) : State := s.note c.w c.t c.key (.control ps) none

/-- Whether a run follows another one's log: a trailing copy, a shadow or a replay (R153, R221, R223). -/
def RunMode.follows (m : RunMode) : Bool := m != .primary

/-! ### Faults -/

/-- The record of a fault of the issuing instruction (R242). -/
def Ctx.fault (c : Ctx) (cause : Cause) (addr : W64) (j : Nat) (uni ct : Bool) (done : Mask) : FaultRec where
  cause := cause
  j := j
  uni := uni
  ct := ct
  addr := addr
  pc := match c.sp.pfx with
    | some x => x.pc
    | none => c.sp.pc
  pfx := c.sp.pfx.isSome
  insn := c.word
  pword := match c.sp.pfx with
    | some x => x.word
    | none => 0
  dix := c.sp.dix
  done := done
  exm := c.sp.exm
  rpc := c.next
  skip := cause.skips

/-- How a fault ends a task or a workgroup (R211). -/
def FaultRec.endInfo (r : FaultRec) (wgid : Nat) : EndInfo := ⟨r.cause, r.pc, r.addr, r.j, wgid⟩

/-- The address of a train's frame (R240, R247), in the window as its task pinned it: 0 without a slot. -/
def Wg.frameVa (g : Wg) (t : Task) (trn : Nat) : W64 :=
  match g.fslot with
  | some n => BitVec.ofNat 64 (4096 * t.window.1 + 8192 * n + 128 * trn)
  | none => 0

/-- Bytes 0x00 to 0x2F of a frame (R242). -/
def FaultRec.bytes (r : FaultRec) : List Byte :=
  let bit := fun (b : Bool) (n : Nat) => if b then 2 ^ n else 0
  toBytes (r.cause.code + r.j * 2 ^ 8 + bit r.uni 13 + bit r.ct 14 + bit r.pfx 15 + bit r.skip 16
    + r.dix.toNat * 2 ^ 32) 8
  ++ toBytes r.pc.toNat 8 ++ toBytes r.rpc.toNat 8 ++ toBytes (r.done.toNat + r.exm.toNat * 2 ^ 32) 8
  ++ toBytes r.addr.toNat 8 ++ toBytes (r.insn.toNat + r.pword.toNat * 2 ^ 32) 8

/-- A whole frame with k28 to k31 (R242). -/
def frameBytes (r : FaultRec) (tr : Train) : List Byte :=
  r.bytes ++ toBytes (tr.getK 28).toNat 8 ++ toBytes (tr.getK 29).toNat 8 ++ toBytes (tr.getK 30).toNat 8
    ++ toBytes (tr.getK 31).toNat 8 ++ List.replicate 48 0

/-- A workgroup has ended. -/
def State.markWgEnded (s : State) (w : Nat) : State :=
  s.updWg w fun g => { g with place := .ended }

/-- The reservations of a train's entries that are discarded return to their pools (R164, R245). -/
def State.returnReservations (s : State) (slot : Nat) (tr : Train) : State :=
  tr.sb.foldl (fun (s : State) e => match e.rsv, s.doms.look slot with
    | some core, some d => if e.inBuffer then s.setDom slot (d.unreserve core) else s
    | _, _ => s) s

/-- Atomics of a workgroup that have not left are dropped, and their reservations return; remote ones complete (R207, R227). -/
def State.dropAtomics (s : State) (w : Nat) : State :=
  let mine := fun (r : Resp) => r.w == w && (!r.ready || s.isLocal r.pa)
  let s1 := { s with resp := s.resp.filter fun r => !mine r }
  match s.wg? w with
  | none => s1
  | some g =>
    ((s.resp.filter mine).filter fun r => r.rsv).foldl (fun (s : State) _ => match s.doms.look g.slot with
      | some d => s.setDom g.slot (d.unreserve g.lastCore)
      | none => s) s1

/-- Stop every train of a workgroup: outstanding loads are dropped, store-buffer entries discarded (R245 step 2). -/
def State.stopTrains (s : State) (w : Nat) : State :=
  let s1 : State := (match s.wg? w with
    | some g => (s.trainsOf w).foldl (fun (s : State) (e : Nat × Train) => s.returnReservations g.slot e.2) s
    | none => s)
  let s1 := s1.dropAtomics w
  { s1 with trains := s1.trains.map fun e =>
      if e.1 / 64 = w then
        (e.1, { e.2 with
          splits := [], outst := [], pend := none, hmode := false, ended := true
          sb := e.2.sb.filter fun x => !x.inBuffer })
      else e }

/-- A task ends by a fault (R246). -/
def State.endBy (s : State) (g : Wg) (r : FaultRec) : State := s.endTask g.slot (r.endInfo g.wgid)

/-- How the write of a frame stands: made, or on its way to its home; to be tried again; or it meets a fault. -/
inductive FrameWrite where
  | ok (s : State)
  | wait (s : State)
  | fault (cause : Cause)

/-- A trap frame that has not been performed at its home (R241): a write that the whole train sees and no split owns. -/
def SbEntry.isFrame (e : SbEntry) : Bool := e.vis && e.owners.isEmpty

/-- Whether a frame's write at a box address goes behind what the train has written before: entries of the frame's lines until they are
acknowledged, which forward to the handler's loads otherwise, and entries on their way to the same destination (R15, R134, R241). -/
def State.frameBehind (s : State) (tr : Train) (pa : Nat) : Bool :=
  tr.sb.any fun e => e.bytes.any (fun b => b.loc.line == (Loc.glob pa).line) || (e.stage == .sent && e.dest == s.destOf pa)

/-- Write a frame (R241 step 3), behind the train's own writes of its lines. Once its page holds data (R181, R182) it is written at its home; a home of another chip receives it as
a write on its way, and in a checked pair the comparator takes it first, as any store (R226, R227). A trailing copy, a shadow and a
replay leave memory alone (R226, R221, R223). -/
def State.writeFrame (s : State) (w t : Nat) (g : Wg) (task : Task) (core : Nat) (r : FaultRec) (bs : List Byte) : FrameWrite :=
  match s.train? w t with
  | none => .ok s
  | some tr =>
    let va := (g.frameVa task tr.trn).toNat
    match s.walkPull core task.rcd.tenant va with
    | some pa => .wait (s.askPulls [pa])
    | none =>
      match s.translate core task true va .store with
      | .lease => .fault .lease
      | .aliasing => .fault .aliasing
      | .pullLost => .fault .pullLost
      | .ok pa disc _ =>
        let bytes := (List.range 128).map fun i => (⟨.glob (pa + i), 0xFF, bs.getD i 0⟩ : SbByte)
        let key : StepKey := ⟨r.dix, tr.subOf tr.hsplit, 1⟩
        if g.mode.follows then .ok (s.note w t key (.store bytes) none)
        else if s.frameBehind tr pa then .wait s
        else if disc then .wait { s with revivals := if s.revivals.contains (task.rcd.tenant, va / 4096) then s.revivals
            else s.revivals ++ [(task.rcd.tenant, va / 4096)] }
        else if s.pullLost pa then .fault .pullLost
        else if s.pullPending pa then .wait (s.askPulls [pa])
        else if s.isLocal pa && task.rcd.integ != 3 then
          .ok (((s.l2Use pa task.rcd.tenant).writeHome (homeBytesAt (offOf pa) bs) .other false).l1Write core (homeBytesAt pa bs) false)
        else
          let d := s.destOf pa
          let stage : Stage := if task.rcd.integ = 3 then .compare else .held
          .ok ((s.note w t key (.store bytes) (some tr.nextId)).updTrain w t fun tr =>
            { tr with
              sb := tr.sb ++ [⟨tr.nextId, [], true, d, bytes, stage, none, ⟨r.pc, BitVec.ofNat 64 va, 0⟩, false, 0, 0⟩]
              nextId := tr.nextId + 1
              used := if tr.used.contains d then tr.used else d :: tr.used })

/-- The handler is entered (R241 steps 3 to 5): the frame, HMODE, VEC. -/
def State.enterHandler (s : State) (w t p : Nat) (g : Wg) (task : Task) (core : Nat) (r : FaultRec) : State :=
  match s.train? w t with
  | none => s
  | some tr =>
    let later := fun (s : State) => s.updTrain w t fun tr => { tr with pend := some r, hsplit := p }
    if tr.tvec = 0 then s.endBy g r
    else
      match s.budgetAt core task true tr.tvec with
      | .error pa =>
        (later (s.setTrain w t { tr with
          outst := tr.outst ++ [lineOutst g tr.nextId p core (sectorLocs pa) s.clock]
          nextId := tr.nextId + 1 })).askPulls [pa]
      | .ok b =>
        if task.rcd.budget < b then s.endBy g { r with cause := .budget }
        else
          match s.writeFrame w t g task core r (frameBytes r tr) with
          | .fault cause => s.endBy g { r with cause := cause }
          | .wait s1 => later s1
          | .ok s1 =>
            (s1.updTrain w t fun tr =>
              { (tr.updSplit p fun q => { q with pc := tr.tvec, pfx := none, done := 0, wait := .ready, part := none, rel := none }) with
                hmode := true, hsplit := p, hcount := 0, trap := r, pend := none
                rdone := ((tr.split? p).map fun q => q.done).getD 0
                tcause := BitVec.ofNat 17 (ofBytes (r.bytes.take 8)) }).note w t ⟨r.dix, tr.subOf p, 2⟩ (.control [(tr.tvec, r.exm)]) none

/-- A split goes back to the start of the instruction it stands at, its prefix included (R268). -/
def Split.rewind (q : Split) : Split :=
  let q := { q with part := none, rel := none }
  match q.pfx with
  | some x => { q with pc := x.pc, pfx := none, dix := q.dix - 1 }
  | none => q

/-- The threads of an instruction whose part has completed, as its frame names them (R41). -/
def Outst.doneOf (o : Outst) (exm : Mask) : Mask := exm &&& o.done

/-- Whether a trap of a train waits for its entry (R41, R241). -/
def Train.trapDue (tr : Train) : Bool := tr.pend.isSome || tr.live.any Outst.faulted

/-- Whether every outstanding instruction of a train has completed or faulted, every part of it (R241 step 1, R41).
DEDUCED: notes/assumptions/15.md. -/
def Train.quiet (tr : Train) : Bool := tr.live.all Outst.finished

/-- What an instruction's completion makes its train observe: its acquire (R138), and the scope of an SREJ demoted (R379). -/
def State.joined (s : State) (w t : Nat) (x : Outst) : State :=
  let s1 := match x.acq with
    | some sc => s.acquire w t sc
    | none => s
  match x.insn, (s.wg? w).bind fun g => s.taskOf? g with
  | .srej _ _ sc, some task => s1.noteDemoted w t task.rcd.tenant sc.toNat
  | _, _ => s1

/-- Entering the handler for the earliest fault (R241): completed instructions write their registers, later faulted
ones are kept, a fault found at issue behind an earlier one is dropped and its instruction kept. -/
def State.takeTrap (s : State) (w t : Nat) : State :=
  match s.wg? w, s.train? w t with
  | some g, some tr =>
    match s.taskOf? g with
    | none => s
    | some task =>
      if tr.trapDue && tr.quiet then
        let fin := tr.live.filter fun o => o.finished && !o.faulted
        let tr1 := tr.live.foldl (fun (tr : Train) o => if o.faulted then tr.deliver o else tr.complete o) tr
        let s0 := fin.foldl (fun s o => s.joined w t o) s
        match tr1.live.find? Outst.faulted with
        | some o =>
          match o.fault, tr1.split? o.split with
          | some r, some q =>
            let q' := q.rewind
            let r' := { r with rpc := q'.pc, exm := q.exm, done := if r.uni then 0 else o.doneOf q.exm }
            let back := match tr1.pend with
              | some f => (tr1.updSplit tr1.hsplit fun q => { q with done := if f.uni then 0 else f.done })
              | none => tr1
            let tr2 := { back with
              splits := back.splits.map Split.rewind
              outst := back.outst.map fun x => if x.faulted then { x with kept := true } else x
              pend := none }
            let s1 := s0.setTrain w t tr2
            if tr.hmode || r.cause.endsTask then s1.endBy g r'
            else s1.enterHandler w t o.split g task g.lastCore r'
          | _, _ => s0.setTrain w t tr1
        | none =>
          match tr1.pend with
          | some r => (s0.setTrain w t { tr1 with pend := none }).enterHandler w t tr1.hsplit g task g.lastCore r
          | none => s0.setTrain w t tr1
      else s
  | _, _ => s

/-- A fault of the issuing instruction: it ends the task, or goes to the handler once nothing is outstanding (R41,
R238, R241, R244). -/
def State.raise (s : State) (c : Ctx) (r : FaultRec) : State :=
  if c.tr.hmode || r.cause.endsTask then s.endBy c.g r
  else
    (s.updTrain c.w c.t fun tr => { tr with pend := some r, hsplit := c.p }).takeTrap c.w c.t

/-- A fault before any thread steps (R276, R239): J is 0, and no thread is done. -/
def State.raiseIssue (s : State) (c : Ctx) (cause : Cause) (addr : W64) : State :=
  s.raise c (c.fault cause addr 0 (!isPerThread c.insn) false 0)

/-- A uniform fault (R40). -/
def State.raiseUniform (s : State) (c : Ctx) (cause : Cause) (addr : W64) : State :=
  s.raise c (c.fault cause addr 0 true false 0)

/-- A fault at the step of thread `j` (R40): threads of EXM below `j` are done. -/
def State.raiseStep (s : State) (c : Ctx) (cause : Cause) (addr : W64) (j : Nat) : State :=
  s.raise c (c.fault cause addr j false false ((c.sp.exm &&& BitVec.ofNat 32 (2 ^ j - 1)) ||| (c.sp.exm &&& c.sp.done)))

/-- A completion-time fault of an outstanding instruction (R41). -/
def Outst.ctFault (o : Outst) (cause : Cause) (addr : W64) (j : Nat) : FaultRec where
  cause := cause
  j := j
  uni := !isPerThread o.insn
  ct := true
  addr := addr
  pc := match o.pfx with
    | some x => x.pc
    | none => o.pc
  pfx := o.pfx.isSome
  insn := o.word
  pword := match o.pfx with
    | some x => x.word
    | none => 0
  dix := o.dix
  done := 0
  exm := 0
  rpc := 0
  skip := cause.skips

/-- An outstanding instruction has faulted: the lowest faulting thread is the one reported (R41). -/
def State.faultOutst (s : State) (w t o : Nat) (cause : Cause) (addr : W64) (j : Nat) : State :=
  s.updTrain w t fun tr => tr.updOutst o fun x =>
    match x.fault with
    | some r => if j < r.j then { x with fault := some (x.ctFault cause addr j) } else x
    | none => { x with fault := some (x.ctFault cause addr j) }

/-! ### Issue -/

/-- What stands before an issue: nothing, instructions that must complete, something else, or a fault. -/
inductive Stop where
  | go
  | await (ids : List Nat)
  | again
  | trap (cause : Cause)
  deriving DecidableEq, Repr

/-- The instructions an issue waits for (R265, R331). -/
def Ctx.awaits (c : Ctx) : List Nat :=
  let all := match c.insn with
    | .exit _ => true
    | _ => false
  (c.tr.live.filter fun o => (all && o.split != c.p && !o.finished) || (all && o.split == c.p) ||
    (o.split == c.p && (o.window == 0 || endsWindow c.insn || overwrites c.insn o.insn))).map fun o => o.id

/-- A fifth long-latency instruction of a train (R41). -/
def Ctx.fifth (c : Ctx) : Bool :=
  isLong c.insn && decide (Config.outstanding ≤ (c.tr.live.filter fun o => isLong o.insn).length)

/-- Instructions of handler mode only (R275, R292, R374). -/
def needsHandler : Instr → Bool
  | .csrwAcown _ => true
  | .csrwTvec _ => true
  | .csrwWdg _ => true
  | .csrwPrivb _ => true
  | .rft => true
  | .asv _ _ _ _ => true
  | .ars _ _ _ _ => true
  | _ => false

/-- Instructions of a task with SYSPROG 1 only (R188, R328, R396). -/
def needsSysprog : Instr → Bool
  | .lnch _ _ _ => true
  | .evpop _ _ _ => true
  | .trel _ _ _ => true
  | _ => false

/-- Instructions of the producer train only (R39). -/
def needsProducer (i : Instr) : Bool := major i == 0x28 || major i == 0x2A

/-- Instructions of a task with MATRIX 1 only (R187, R318). -/
def needsMatrix : Instr → Bool
  | .cpym _ _ _ _ _ _ _ => true
  | i => [0x0E, 0x39, 0x3A, 0x3B, 0x3C, 0x3D].contains (major i)

/-- The checks of R276 and of R239 at issue, in their order, and MATRIX (R187). -/
def Ctx.check (c : Ctx) : Stop :=
  if !c.insn.wf || !prefixOk c.sp.pfx c.insn || (isPrefix c.insn && c.sp.pfx.isSome) then .trap .illegal
  else if (vNames c.insn).any fun r => decide (c.task.rcd.budget ≤ r) then .trap .budget
  else if (needsHandler c.insn && !c.tr.hmode) || (needsSysprog c.insn && !c.task.rcd.sysprog) then .trap .priv
  else if needsProducer c.insn && c.tr.trn != c.task.rcd.prod then .trap .producer
  else if needsMatrix c.insn && !c.task.rcd.matrix then .trap .illegal
  else .go

/-- What stands before the issue of an instruction (R265, R41, R276, R239). -/
def Ctx.stop (c : Ctx) : Stop :=
  if !c.awaits.isEmpty then .await c.awaits
  else if c.fifth then
    let own := (c.tr.live.filter fun o => o.split == c.p).map fun o => o.id
    if own.isEmpty then .again else .await own
  else c.check

/-- Issue an instruction word of the split that `State.cur` names: `body` is its own effect. -/
def issue (i : Instr) (s : State) (body : Ctx → State → State) : Out :=
  match s.ctx? i with
  | none => .fault .noSplit
  | some c =>
    match c.stop with
    | .await ids => .next (s.stall c (.outst ids))
    | .again => .next (s.stall c .retry)
    | .trap cause => .next (s.raiseIssue c cause 0)
    | .go => .next (body c s)

/-- An event of an agent or of the world outside (spec/95): every waiting split then looks again. `ok` is the event's
own form (WellFormed.lean): it names a part of the chip. -/
def event (ok : Bool) (s : State) (k : State → State) : Out :=
  if ok then .next (k s).wake else .refused .illFormed

/-- A per-thread computation: each acting thread's `d` takes `f` of its own registers (R286). -/
def perThread (d : BitVec 6) (f : Ctx → Nat → W32) (c : Ctx) (s : State) : State :=
  (s.updTrain c.w c.t fun tr => tr.writeV d.toNat (f c) c.threads).retire c

/-- A per-thread computation that writes a predicate. -/
def perThreadP (p : BitVec 3) (f : Ctx → Nat → Bool) (c : Ctx) (s : State) : State :=
  (s.updTrain c.w c.t fun tr => tr.setP p.toNat c.active (maskOf (f c))).retire c

/-- A uniform computation (R286). -/
def uniform (d : Nat) (f : Ctx → W64) (c : Ctx) (s : State) : State :=
  (s.updTrain c.w c.t fun tr => tr.setK d (f c)).retire c

/-- A per-thread long-latency computation (R327, R41). -/
def perThreadLong (d : BitVec 6) (f : Ctx → Nat → W32) (c : Ctx) (s : State) : State :=
  s.finishLater c (c.threads.map fun j => .v j d.toNat (f c j))

/-- A thread's v register. -/
def Ctx.v (c : Ctx) (r : BitVec 6) (j : Nat) : W32 := c.tr.getV j r.toNat

/-- A k register. -/
def Ctx.k (c : Ctx) (r : BitVec 6) : W64 := c.tr.getK r.toNat

/-- A k register of a 5-bit field. -/
def Ctx.k5 (c : Ctx) (r : BitVec 5) : W64 := c.tr.getK r.toNat

end Sys2Proof.Machine
end

