-- ==== Sys2Proof/Machine/Arith.lean ====
section
/-! DEFINITION. Per-thread and uniform integer instructions, compare and select, immediates, division (R287 to R290, R302,
R306, R314, R315, R323, R326, R355, R358, R360 to R362, R365, R366, R368, R371, R375, R381, R382, R386, R401). Each
operation is one function on words of its width; each meaning applies it. -/

namespace Sys2Proof.Machine

/-- ABS (R287). -/
def absW {w : Nat} (a : BitVec w) : BitVec w := if a.msb then -a else a

/-- MULH.S (R365). -/
def mulhSW {w : Nat} (a b : BitVec w) : BitVec w := BitVec.ofInt w (a.toInt * b.toInt / (2 ^ w : Int))

/-- MULH.U (R365). -/
def mulhUW {w : Nat} (a b : BitVec w) : BitVec w := BitVec.ofNat w (a.toNat * b.toNat / 2 ^ w)

/-- MIN.S (R360). -/
def minSW {w : Nat} (a b : BitVec w) : BitVec w := if a.slt b then a else b

/-- MIN.U (R360). -/
def minUW {w : Nat} (a b : BitVec w) : BitVec w := if a.ult b then a else b

/-- MAX.S (R360). -/
def maxSW {w : Nat} (a b : BitVec w) : BitVec w := if a.slt b then b else a

/-- MAX.U (R360). -/
def maxUW {w : Nat} (a b : BitVec w) : BitVec w := if a.ult b then b else a

/-- POPC (R371). -/
def popcW {w : Nat} (a : BitVec w) : BitVec w := BitVec.ofNat w (popcount a.toNat w)

/-- CLZ (R314). -/
def clzW {w : Nat} (a : BitVec w) : BitVec w := BitVec.ofNat w (leadingZeros w a.toNat)

/-- CTZ (R323). -/
def ctzW {w : Nat} (a : BitVec w) : BitVec w := BitVec.ofNat w (trailingZeros w a.toNat)

/-- BREV (R306). -/
def brevW {w : Nat} (a : BitVec w) : BitVec w := BitVec.ofNat w (reverseBits w a.toNat w)

/-- SHL by a register's amount modulo the width (R382). -/
def shlW {w : Nat} (a b : BitVec w) : BitVec w := a <<< (b.toNat % w)

/-- SHR (R382). -/
def shrW {w : Nat} (a b : BitVec w) : BitVec w := a >>> (b.toNat % w)

/-- SRA (R382). -/
def sraW {w : Nat} (a b : BitVec w) : BitVec w := a.sshiftRight (b.toNat % w)

/-- ROT: left by an amount modulo the width (R375). -/
def rotW {w : Nat} (a b : BitVec w) : BitVec w := a.rotateLeft (b.toNat % w)

/-- The position and length that BFX and BFI read from S2, and the length cut to the width (R302). -/
def fieldOf {w : Nat} (b : BitVec w) : Nat × Nat :=
  let pos := bitsAt b.toNat 0 8
  let len := bitsAt b.toNat 8 8
  (pos, if w ≤ pos then 0 else min len (w - pos))

/-- BFX.U (R302). -/
def bfxUW {w : Nat} (a b : BitVec w) : BitVec w := BitVec.ofNat w (bitsAt a.toNat (fieldOf b).1 (fieldOf b).2)

/-- BFX.S (R302). -/
def bfxSW {w : Nat} (a b : BitVec w) : BitVec w :=
  let (pos, l) := fieldOf b
  if l = 0 then 0 else BitVec.ofInt w (signedOf l (bitsAt a.toNat pos l))

/-- BFI (R302): `d` is the old destination. -/
def bfiW {w : Nat} (d a b : BitVec w) : BitVec w :=
  let (pos, l) := fieldOf b
  let mask := BitVec.ofNat w ((2 ^ l - 1) <<< pos)
  (d &&& ~~~mask) ||| ((a <<< pos) &&& mask)

/-- LEA.n (R355). -/
def leaW (n : Nat) (a b : W32) : W32 := a + b * BitVec.ofNat 32 (2 ^ n)

/-- Unsigned quotient (R326, R52). -/
def divUW (a b : W32) : W32 := if b = 0 then BitVec.allOnes 32 else a.udiv b

/-- Unsigned remainder (R326, R52). -/
def remUW (a b : W32) : W32 := if b = 0 then a else a.umod b

/-- Signed quotient, truncated toward zero (R326, R52). -/
def divSW (a b : W32) : W32 := if b = 0 then BitVec.allOnes 32 else BitVec.ofInt 32 (a.toInt.tdiv b.toInt)

/-- Signed remainder, of the dividend's sign (R326, R52). -/
def remSW (a b : W32) : W32 := if b = 0 then a else BitVec.ofInt 32 (a.toInt.tmod b.toInt)

/-- A per-thread instruction of two v registers. -/
def threadBin (i : Instr) (d a b : BitVec 6) (f : W32 → W32 → W32) (s : State) : Out :=
  issue i s (perThread d fun c j => f (c.v a j) (c.v b j))

/-- A per-thread instruction of one v register. -/
def threadUn (i : Instr) (d a : BitVec 6) (f : W32 → W32) (s : State) : Out :=
  issue i s (perThread d fun c j => f (c.v a j))

/-- A per-thread instruction of a v register and an immediate, which a prefix may widen (R266). -/
def threadImm (i : Instr) (d a : BitVec 6) (m : BitVec 11) (f : W32 → W32 → W32) (s : State) : Out :=
  issue i s (perThread d fun c j => f (c.v a j) (immB c.sp.pfx m))

/-- A uniform instruction of two k registers. -/
def trainBin (i : Instr) (d a b : BitVec 6) (f : W64 → W64 → W64) (s : State) : Out :=
  issue i s (uniform d.toNat fun c => f (c.k a) (c.k b))

/-- A uniform instruction of one k register. -/
def trainUn (i : Instr) (d a : BitVec 6) (f : W64 → W64) (s : State) : Out :=
  issue i s (uniform d.toNat fun c => f (c.k a))

/-- A long-latency per-thread instruction of two v registers (R327). -/
def threadLong (i : Instr) (d a b : BitVec 6) (f : W32 → W32 → W32) (s : State) : Out :=
  issue i s (perThreadLong d fun c j => f (c.v a j) (c.v b j))

/-- Carry chains: each acting thread's `d` and p6 (R289, R386). -/
def threadCarry (i : Instr) (d a b : BitVec 6) (f : W32 → W32 → Bool → W32 × Bool) (s : State) : Out :=
  issue i s fun c s =>
    let r := fun j => f (c.v a j) (c.v b j) (c.tr.predOf 6 j)
    (s.updTrain c.w c.t fun tr =>
      (tr.writeV d.toNat (fun j => (r j).1) c.threads).setP 6 c.active (maskOf fun j => (r j).2)).retire c

/-- ADD (R288). -/
def execAdd (d a b : BitVec 6) (g : BitVec 3) (s : State) : Out :=
  threadBin (.add d a b g) d a b (· + ·) s

/-- ADDC (R289). -/
def execAddc (d a b : BitVec 6) (g : BitVec 3) (s : State) : Out :=
  threadCarry (.addc d a b g) d a b addCarry s

/-- SUB (R386). -/
def execSub (d a b : BitVec 6) (g : BitVec 3) (s : State) : Out :=
  threadBin (.sub d a b g) d a b (· - ·) s

/-- SUBB (R386). -/
def execSubb (d a b : BitVec 6) (g : BitVec 3) (s : State) : Out :=
  threadCarry (.subb d a b g) d a b subBorrow s

/-- MUL (R365). -/
def execMul (d a b : BitVec 6) (g : BitVec 3) (s : State) : Out :=
  threadBin (.mul d a b g) d a b (· * ·) s

/-- MULH.S (R365). -/
def execMulhS (d a b : BitVec 6) (g : BitVec 3) (s : State) : Out :=
  threadBin (.mulhS d a b g) d a b mulhSW s

/-- MULH.U (R365). -/
def execMulhU (d a b : BitVec 6) (g : BitVec 3) (s : State) : Out :=
  threadBin (.mulhU d a b g) d a b mulhUW s

/-- MIN.S (R360). -/
def execMinS (d a b : BitVec 6) (g : BitVec 3) (s : State) : Out :=
  threadBin (.minS d a b g) d a b minSW s

/-- MIN.U (R360). -/
def execMinU (d a b : BitVec 6) (g : BitVec 3) (s : State) : Out :=
  threadBin (.minU d a b g) d a b minUW s

/-- MAX.S (R360). -/
def execMaxS (d a b : BitVec 6) (g : BitVec 3) (s : State) : Out :=
  threadBin (.maxS d a b g) d a b maxSW s

/-- MAX.U (R360). -/
def execMaxU (d a b : BitVec 6) (g : BitVec 3) (s : State) : Out :=
  threadBin (.maxU d a b g) d a b maxUW s

/-- ABS (R287). -/
def execAbs (d a : BitVec 6) (g : BitVec 3) (s : State) : Out :=
  threadUn (.abs d a g) d a absW s

/-- NEG (R366). -/
def execNeg (d a : BitVec 6) (g : BitVec 3) (s : State) : Out :=
  threadUn (.neg d a g) d a (- ·) s

/-- POPC (R371). -/
def execPopc (d a : BitVec 6) (g : BitVec 3) (s : State) : Out :=
  threadUn (.popc d a g) d a popcW s

/-- CLZ (R314). -/
def execClz (d a : BitVec 6) (g : BitVec 3) (s : State) : Out :=
  threadUn (.clz d a g) d a clzW s

/-- CTZ (R323). -/
def execCtz (d a : BitVec 6) (g : BitVec 3) (s : State) : Out :=
  threadUn (.ctz d a g) d a ctzW s

/-- BREV (R306). -/
def execBrev (d a : BitVec 6) (g : BitVec 3) (s : State) : Out :=
  threadUn (.brev d a g) d a brevW s

/-- MOV (R361). -/
def execMov (d a : BitVec 6) (g : BitVec 3) (s : State) : Out :=
  threadUn (.mov d a g) d a id s

/-- MOV of a k register into a v register (R361). -/
def execMovVK (d a : BitVec 6) (g : BitVec 3) (s : State) : Out :=
  issue (.movVK d a g) s (perThread d fun c _ => (c.k a).setWidth 32)

/-- ADD of k registers (R288). -/
def execAddK (d a b : BitVec 6) (s : State) : Out :=
  trainBin (.addK d a b) d a b (· + ·) s

/-- SUB of k registers (R386). -/
def execSubK (d a b : BitVec 6) (s : State) : Out :=
  trainBin (.subK d a b) d a b (· - ·) s

/-- MUL of k registers (R365). -/
def execMulK (d a b : BitVec 6) (s : State) : Out :=
  trainBin (.mulK d a b) d a b (· * ·) s

/-- MULH.S of k registers (R365). -/
def execMulhSK (d a b : BitVec 6) (s : State) : Out :=
  trainBin (.mulhSK d a b) d a b mulhSW s

/-- MULH.U of k registers (R365). -/
def execMulhUK (d a b : BitVec 6) (s : State) : Out :=
  trainBin (.mulhUK d a b) d a b mulhUW s

/-- MIN.S of k registers (R360). -/
def execMinSK (d a b : BitVec 6) (s : State) : Out :=
  trainBin (.minSK d a b) d a b minSW s

/-- MIN.U of k registers (R360). -/
def execMinUK (d a b : BitVec 6) (s : State) : Out :=
  trainBin (.minUK d a b) d a b minUW s

/-- MAX.S of k registers (R360). -/
def execMaxSK (d a b : BitVec 6) (s : State) : Out :=
  trainBin (.maxSK d a b) d a b maxSW s

/-- MAX.U of k registers (R360). -/
def execMaxUK (d a b : BitVec 6) (s : State) : Out :=
  trainBin (.maxUK d a b) d a b maxUW s

/-- ABS of a k register (R287). -/
def execAbsK (d a : BitVec 6) (s : State) : Out :=
  trainUn (.absK d a) d a absW s

/-- NEG of a k register (R366). -/
def execNegK (d a : BitVec 6) (s : State) : Out :=
  trainUn (.negK d a) d a (- ·) s

/-- POPC of a k register (R371). -/
def execPopcK (d a : BitVec 6) (s : State) : Out :=
  trainUn (.popcK d a) d a popcW s

/-- CLZ of a k register (R314). -/
def execClzK (d a : BitVec 6) (s : State) : Out :=
  trainUn (.clzK d a) d a clzW s

/-- CTZ of a k register (R323). -/
def execCtzK (d a : BitVec 6) (s : State) : Out :=
  trainUn (.ctzK d a) d a ctzW s

/-- BREV of a k register (R306). -/
def execBrevK (d a : BitVec 6) (s : State) : Out :=
  trainUn (.brevK d a) d a brevW s

/-- MOV of k registers (R361). -/
def execMovK (d a : BitVec 6) (s : State) : Out :=
  trainUn (.movK d a) d a id s

/-- AND (R290). -/
def execAnd (d a b : BitVec 6) (g : BitVec 3) (s : State) : Out :=
  threadBin (.and d a b g) d a b (· &&& ·) s

/-- ANDN (R290). -/
def execAndn (d a b : BitVec 6) (g : BitVec 3) (s : State) : Out :=
  threadBin (.andn d a b g) d a b (fun x y => x &&& ~~~y) s

/-- OR (R368). -/
def execOr (d a b : BitVec 6) (g : BitVec 3) (s : State) : Out :=
  threadBin (.or d a b g) d a b (· ||| ·) s

/-- XOR (R401). -/
def execXor (d a b : BitVec 6) (g : BitVec 3) (s : State) : Out :=
  threadBin (.xor d a b g) d a b (· ^^^ ·) s

/-- NOT (R366). -/
def execNot (d a : BitVec 6) (g : BitVec 3) (s : State) : Out :=
  threadUn (.not d a g) d a (~~~ ·) s

/-- SHL (R382). -/
def execShl (d a b : BitVec 6) (g : BitVec 3) (s : State) : Out :=
  threadBin (.shl d a b g) d a b shlW s

/-- SHR (R382). -/
def execShr (d a b : BitVec 6) (g : BitVec 3) (s : State) : Out :=
  threadBin (.shr d a b g) d a b shrW s

/-- SRA (R382). -/
def execSra (d a b : BitVec 6) (g : BitVec 3) (s : State) : Out :=
  threadBin (.sra d a b g) d a b sraW s

/-- ROT (R375). -/
def execRot (d a b : BitVec 6) (g : BitVec 3) (s : State) : Out :=
  threadBin (.rot d a b g) d a b rotW s

/-- BFX.U (R302). -/
def execBfxU (d a b : BitVec 6) (g : BitVec 3) (s : State) : Out :=
  threadBin (.bfxU d a b g) d a b bfxUW s

/-- BFX.S (R302). -/
def execBfxS (d a b : BitVec 6) (g : BitVec 3) (s : State) : Out :=
  threadBin (.bfxS d a b g) d a b bfxSW s

/-- AND of k registers (R290). -/
def execAndK (d a b : BitVec 6) (s : State) : Out :=
  trainBin (.andK d a b) d a b (· &&& ·) s

/-- ANDN of k registers (R290). -/
def execAndnK (d a b : BitVec 6) (s : State) : Out :=
  trainBin (.andnK d a b) d a b (fun x y => x &&& ~~~y) s

/-- OR of k registers (R368). -/
def execOrK (d a b : BitVec 6) (s : State) : Out :=
  trainBin (.orK d a b) d a b (· ||| ·) s

/-- XOR of k registers (R401). -/
def execXorK (d a b : BitVec 6) (s : State) : Out :=
  trainBin (.xorK d a b) d a b (· ^^^ ·) s

/-- NOT of a k register (R366). -/
def execNotK (d a : BitVec 6) (s : State) : Out :=
  trainUn (.notK d a) d a (~~~ ·) s

/-- SHL of k registers (R382). -/
def execShlK (d a b : BitVec 6) (s : State) : Out :=
  trainBin (.shlK d a b) d a b shlW s

/-- SHR of k registers (R382). -/
def execShrK (d a b : BitVec 6) (s : State) : Out :=
  trainBin (.shrK d a b) d a b shrW s

/-- SRA of k registers (R382). -/
def execSraK (d a b : BitVec 6) (s : State) : Out :=
  trainBin (.sraK d a b) d a b sraW s

/-- ROT of k registers (R375). -/
def execRotK (d a b : BitVec 6) (s : State) : Out :=
  trainBin (.rotK d a b) d a b rotW s

/-- BFX.U of k registers (R302). -/
def execBfxUK (d a b : BitVec 6) (s : State) : Out :=
  trainBin (.bfxUK d a b) d a b bfxUW s

/-- BFX.S of k registers (R302). -/
def execBfxSK (d a b : BitVec 6) (s : State) : Out :=
  trainBin (.bfxSK d a b) d a b bfxSW s

/-- MAD (R358). -/
def execMad (d a b : BitVec 6) (g : BitVec 3) (s : State) : Out :=
  issue (.mad d a b g) s (perThread d fun c j => c.v a j * c.v b j + c.v d j)

/-- BFI (R302). -/
def execBfi (d a b : BitVec 6) (g : BitVec 3) (s : State) : Out :=
  issue (.bfi d a b g) s (perThread d fun c j => bfiW (c.v d j) (c.v a j) (c.v b j))

/-- LEA.0 (R355). -/
def execLea0 (d a b : BitVec 6) (g : BitVec 3) (s : State) : Out :=
  threadBin (.lea0 d a b g) d a b (leaW 0) s

/-- LEA.1 (R355). -/
def execLea1 (d a b : BitVec 6) (g : BitVec 3) (s : State) : Out :=
  threadBin (.lea1 d a b g) d a b (leaW 1) s

/-- LEA.2 (R355). -/
def execLea2 (d a b : BitVec 6) (g : BitVec 3) (s : State) : Out :=
  threadBin (.lea2 d a b g) d a b (leaW 2) s

/-- LEA.3 (R355). -/
def execLea3 (d a b : BitVec 6) (g : BitVec 3) (s : State) : Out :=
  threadBin (.lea3 d a b g) d a b (leaW 3) s

/-- CMP (R315). -/
def execCmp (p m : BitVec 3) (a b : BitVec 6) (u : BitVec 1) (k g : BitVec 3) (s : State) : Out :=
  issue (.cmp p m a b u k g) s (perThreadP p fun c j =>
    combine m.toNat (c.tr.predOf p.toNat j) (condInt k.toNat (u == 1) (c.v a j) (c.v b j)))

/-- SEL (R381). -/
def execSel (d a b : BitVec 6) (p g : BitVec 3) (s : State) : Out :=
  issue (.sel d a b p g) s (perThread d fun c j => if c.tr.predOf p.toNat j then c.v a j else c.v b j)

/-- DIV.U (R326). -/
def execDivU (d a b : BitVec 6) (l : BitVec 4) (g : BitVec 3) (s : State) : Out :=
  threadLong (.divU d a b l g) d a b divUW s

/-- REM.U (R326). -/
def execRemU (d a b : BitVec 6) (l : BitVec 4) (g : BitVec 3) (s : State) : Out :=
  threadLong (.remU d a b l g) d a b remUW s

/-- DIV.S (R326). -/
def execDivS (d a b : BitVec 6) (l : BitVec 4) (g : BitVec 3) (s : State) : Out :=
  threadLong (.divS d a b l g) d a b divSW s

/-- REM.S (R326). -/
def execRemS (d a b : BitVec 6) (l : BitVec 4) (g : BitVec 3) (s : State) : Out :=
  threadLong (.remS d a b l g) d a b remSW s

/-- ADD immediate (R288). -/
def execAddImm (d a : BitVec 6) (i : BitVec 11) (g : BitVec 3) (s : State) : Out :=
  threadImm (.addImm d a i g) d a i (· + ·) s

/-- AND immediate (R290). -/
def execAndImm (d a : BitVec 6) (i : BitVec 11) (g : BitVec 3) (s : State) : Out :=
  threadImm (.andImm d a i g) d a i (· &&& ·) s

/-- OR immediate (R368). -/
def execOrImm (d a : BitVec 6) (i : BitVec 11) (g : BitVec 3) (s : State) : Out :=
  threadImm (.orImm d a i g) d a i (· ||| ·) s

/-- XOR immediate (R401). -/
def execXorImm (d a : BitVec 6) (i : BitVec 11) (g : BitVec 3) (s : State) : Out :=
  threadImm (.xorImm d a i g) d a i (· ^^^ ·) s

/-- SHL immediate (R382). -/
def execShlImm (d a : BitVec 6) (n : BitVec 5) (g : BitVec 3) (s : State) : Out :=
  threadUn (.shlImm d a n g) d a (fun x => shlW x (n.setWidth 32)) s

/-- SHR immediate (R382). -/
def execShrImm (d a : BitVec 6) (n : BitVec 5) (g : BitVec 3) (s : State) : Out :=
  threadUn (.shrImm d a n g) d a (fun x => shrW x (n.setWidth 32)) s

/-- SRA immediate (R382). -/
def execSraImm (d a : BitVec 6) (n : BitVec 5) (g : BitVec 3) (s : State) : Out :=
  threadUn (.sraImm d a n g) d a (fun x => sraW x (n.setWidth 32)) s

/-- ROT immediate (R375). -/
def execRotImm (d a : BitVec 6) (n : BitVec 5) (g : BitVec 3) (s : State) : Out :=
  threadUn (.rotImm d a n g) d a (fun x => rotW x (n.setWidth 32)) s

/-- CMP immediate (R315). -/
def execCmpImm (p m : BitVec 3) (a : BitVec 6) (k : BitVec 3) (u : BitVec 1) (i : BitVec 7) (g : BitVec 3) (s : State) : Out :=
  issue (.cmpImm p m a k u i g) s (perThreadP p fun c j =>
    combine m.toNat (c.tr.predOf p.toNat j) (condInt k.toNat (u == 1) (c.v a j) (immCmp c.sp.pfx i)))

/-- MOVI (R362). -/
def execMovi (d : BitVec 6) (i : BitVec 16) (g : BitVec 3) (s : State) : Out :=
  issue (.movi d i g) s (perThread d fun c _ => immMovi c.sp.pfx i)

/-- MOVI.HI (R362). -/
def execMoviHi (d : BitVec 6) (i : BitVec 16) (g : BitVec 3) (s : State) : Out :=
  issue (.moviHi d i g) s (perThread d fun c j => i ++ (c.v d j).setWidth 16)

/-- ADD immediate of a k register (R288). -/
def execAddKImm (d a : BitVec 6) (i : BitVec 11) (s : State) : Out :=
  issue (.addKImm d a i) s (uniform d.toNat fun c => c.k a + immK c.sp.pfx i)

/-- MOVI.Q (R362). -/
def execMoviK (d : BitVec 6) (i : BitVec 16) (q : BitVec 2) (s : State) : Out :=
  issue (.moviK d i q) s (uniform d.toNat fun c => c.k d &&& ~~~(0xFFFF#64 <<< (16 * q.toNat)) ||| i.setWidth 64 <<< (16 * q.toNat))

/-- CMP of k registers (R315). -/
def execCmpK (d a b : BitVec 6) (u : BitVec 1) (k : BitVec 3) (s : State) : Out :=
  issue (.cmpK d a b u k) s (uniform d.toNat fun c => if condInt k.toNat (u == 1) (c.k a) (c.k b) then 1 else 0)

end Sys2Proof.Machine
end

