-- ==== Sys2Proof/Machine/Float.lean ====
section
/-! DEFINITION. Per-thread floating point, conversions, pack and unpack (R324, R333 to R336, R338, R369, R397, with R59,
R63, R70, R72, R73). -/

namespace Sys2Proof.Machine

/-- The rounding of result element `e` of thread `j`: a HINT.ARI, else the mode and bit given (R59, R63). -/
def Ctx.rnd (c : Ctx) (mode : Nat) (sat : Bool) (j e : Nat) : Fp.Rnd :=
  let (m, b) := match ariOf c.sp.pfx with
    | some (b, m) => (m, b)
    | none => (mode, sat)
  Fp.Rnd.at (Fp.Mode.ofCode m) b c.task.rcd.seed.toNat c.sp.dix.toNat j e

/-- The rounding of an instruction with neither RM nor slot (R59): RNE unless a HINT.ARI says otherwise. -/
def Ctx.rne (c : Ctx) (j e : Nat) : Fp.Rnd := c.rnd 0 false j e

/-- The format of a type code: F32, F16x2, BF16x2 (R269). -/
def typeFmt (t : Nat) : Fp.Fmt := if t = 1 then .f16 else if t = 2 then .bf16 else .f32

/-- Apply an operation to each element of a type (R333): `f e bitsOf` gives element `e`, where `bitsOf x` is that
element's pattern in a register. -/
def perElem (t : Nat) (f : Fp.Fmt → Nat → (W32 → Nat) → Nat) : W32 :=
  if t = 0 then BitVec.ofNat 32 (f .f32 0 fun x => x.toNat)
  else BitVec.ofNat 32 (f (typeFmt t) 0 (fun x => bitsAt x.toNat 0 16)
    + f (typeFmt t) 1 (fun x => bitsAt x.toNat 16 16) * 65536)

/-- One element of FADD (R333). -/
def faddE (f : Fp.Fmt) (a b : Nat) (r : Fp.Rnd) : Nat :=
  Fp.round f (Fp.add (r.mode == .rd) (Fp.decode f a) (Fp.decode f b)) r

/-- One element of FSUB (R333). -/
def fsubE (f : Fp.Fmt) (a b : Nat) (r : Fp.Rnd) : Nat :=
  Fp.round f (Fp.add (r.mode == .rd) (Fp.decode f a) (Fp.decode f b).negate) r

/-- One element of FMUL (R333). -/
def fmulE (f : Fp.Fmt) (a b : Nat) (r : Fp.Rnd) : Nat :=
  Fp.round f (Fp.mul (Fp.decode f a) (Fp.decode f b)) r

/-- One element of FFMA (R338): `ns` inverts the product, `nd` the addend. -/
def ffmaE (f : Fp.Fmt) (ns nd : Bool) (a b d : Nat) (r : Fp.Rnd) : Nat :=
  let p := Fp.mul (Fp.decode f a) (Fp.decode f b)
  let q := Fp.decode f d
  Fp.round f (Fp.add (r.mode == .rd) (if ns then p.negate else p) (if nd then q.negate else q)) r

/-- One element of CVT (R324): an equal pair keeps every pattern but a NaN. -/
def cvtE (from' to' : Fp.Fmt) (x : Nat) (r : Fp.Rnd) : W32 :=
  let bits := x % 2 ^ from'.width
  let v := Fp.decode from' bits
  BitVec.ofNat 32 (Fp.fill to' (if from' = to' ∧ v ≠ .nan then bits else Fp.round to' v r))

/-- A per-thread floating-point instruction of two registers. -/
def floatBin (i : Instr) (d a b : BitVec 6) (t : BitVec 2) (f : Fp.Fmt → Nat → Nat → Fp.Rnd → Nat) (s : State) : Out :=
  issue i s (perThread d fun c j =>
    perElem t.toNat fun fm e bits => f fm (bits (c.v a j)) (bits (c.v b j)) (c.rne j e))

/-- FFMA and its kinds. -/
def floatFma (i : Instr) (d a b : BitVec 6) (t : BitVec 2) (ns nd : Bool) (s : State) : Out :=
  issue i s (perThread d fun c j =>
    perElem t.toNat fun fm e bits => ffmaE fm ns nd (bits (c.v a j)) (bits (c.v b j)) (bits (c.v d j)) (c.rne j e))

/-- A long-latency function of one F32 register (R335). -/
def floatFun (i : Instr) (d a : BitVec 6) (f : Fp.Val → Fp.Rnd → Nat) (s : State) : Out :=
  issue i s (perThreadLong d fun c j => BitVec.ofNat 32 (f (Fp.decode .f32 (c.v a j).toNat) (c.rne j 0)))

/-- PACK (R369): two F32 values rounded into `f`. -/
def floatPack (i : Instr) (d a b : BitVec 6) (f : Fp.Fmt) (s : State) : Out :=
  issue i s (perThread d fun c j =>
    let half := fun (x : W32) e => Fp.round f (Fp.decode .f32 x.toNat) (c.rne j e)
    BitVec.ofNat 32 (half (c.v a j) 0 + half (c.v b j) 1 * 65536))

/-- UNPK (R397): one half, exactly, as F32. -/
def floatUnpack (i : Instr) (d a : BitVec 6) (f : Fp.Fmt) (lo : Nat) (s : State) : Out :=
  issue i s (perThread d fun c j =>
    BitVec.ofNat 32 (Fp.round .f32 (Fp.decode f (bitsAt (c.v a j).toNat lo 16)) .rne))

/-- FADD (R333). -/
def execFadd (d a b : BitVec 6) (t : BitVec 2) (g : BitVec 3) (s : State) : Out :=
  floatBin (.fadd d a b t g) d a b t faddE s

/-- FSUB (R333). -/
def execFsub (d a b : BitVec 6) (t : BitVec 2) (g : BitVec 3) (s : State) : Out :=
  floatBin (.fsub d a b t g) d a b t fsubE s

/-- FMUL (R333). -/
def execFmul (d a b : BitVec 6) (t : BitVec 2) (g : BitVec 3) (s : State) : Out :=
  floatBin (.fmul d a b t g) d a b t fmulE s

/-- FMIN (R333, R72). -/
def execFmin (d a b : BitVec 6) (t : BitVec 2) (g : BitVec 3) (s : State) : Out :=
  floatBin (.fmin d a b t g) d a b t (fun f a b _ => Fp.minMax f false a b) s

/-- FMAX (R333, R72). -/
def execFmax (d a b : BitVec 6) (t : BitVec 2) (g : BitVec 3) (s : State) : Out :=
  floatBin (.fmax d a b t g) d a b t (fun f a b _ => Fp.minMax f true a b) s

/-- FRND (R333, R72). -/
def execFrnd (d a : BitVec 6) (t : BitVec 2) (g : BitVec 3) (s : State) : Out :=
  issue (.frnd d a t g) s (perThread d fun c j =>
    perElem t.toNat fun fm e bits => Fp.toIntegral fm (Fp.decode fm (bits (c.v a j))) (c.rne j e))

/-- FFMA (R338). -/
def execFfma (d a b : BitVec 6) (t : BitVec 2) (g : BitVec 3) (s : State) : Out :=
  floatFma (.ffma d a b t g) d a b t false false s

/-- FFMA.SUB (R338). -/
def execFfmaSub (d a b : BitVec 6) (t : BitVec 2) (g : BitVec 3) (s : State) : Out :=
  floatFma (.ffmaSub d a b t g) d a b t false true s

/-- FFMA.NEG (R338). -/
def execFfmaNeg (d a b : BitVec 6) (t : BitVec 2) (g : BitVec 3) (s : State) : Out :=
  floatFma (.ffmaNeg d a b t g) d a b t true false s

/-- FCMP (R334). -/
def execFcmp (p m : BitVec 3) (a b : BitVec 6) (t : BitVec 2) (k g : BitVec 3) (s : State) : Out :=
  issue (.fcmp p m a b t k g) s (perThreadP p fun c j =>
    let f := typeFmt t.toNat
    let x := fun (r : W32) => r.toNat % 2 ^ f.width
    combine m.toNat (c.tr.predOf p.toNat j) (condFloat k.toNat f (x (c.v a j)) (x (c.v b j))))

/-- FDIV (R336). -/
def execFdiv (d a b : BitVec 6) (l : BitVec 4) (g : BitVec 3) (s : State) : Out :=
  issue (.fdiv d a b l g) s (perThreadLong d fun c j =>
    BitVec.ofNat 32 (Fp.div .f32 (Fp.decode .f32 (c.v a j).toNat) (Fp.decode .f32 (c.v b j).toNat) (c.rne j 0)))

/-- FSQRT (R335, R72). -/
def execFsqrt (d a : BitVec 6) (l : BitVec 4) (g : BitVec 3) (s : State) : Out :=
  floatFun (.fsqrt d a l g) d a (Fp.sqrt .f32) s

/-- FRCP (R335, R73). -/
def execFrcp (d a : BitVec 6) (l : BitVec 4) (g : BitVec 3) (s : State) : Out :=
  floatFun (.frcp d a l g) d a (fun x _ => Fp.rcp .f32 x) s

/-- FRSQ (R335, R73). -/
def execFrsq (d a : BitVec 6) (l : BitVec 4) (g : BitVec 3) (s : State) : Out :=
  floatFun (.frsq d a l g) d a (fun x _ => Fp.rsq .f32 x) s

/-- FSINP (R335, R73). -/
def execFsinp (d a : BitVec 6) (l : BitVec 4) (g : BitVec 3) (s : State) : Out :=
  floatFun (.fsinp d a l g) d a (fun x _ => Fp.fsinp x) s

/-- FCOSP (R335, R73). -/
def execFcosp (d a : BitVec 6) (l : BitVec 4) (g : BitVec 3) (s : State) : Out :=
  floatFun (.fcosp d a l g) d a (fun x _ => Fp.fcosp x) s

/-- FEX2 (R335, R73). -/
def execFex2 (d a : BitVec 6) (l : BitVec 4) (g : BitVec 3) (s : State) : Out :=
  floatFun (.fex2 d a l g) d a (fun x _ => Fp.fex2 x) s

/-- FLG2 (R335, R73). -/
def execFlg2 (d a : BitVec 6) (l : BitVec 4) (g : BitVec 3) (s : State) : Out :=
  floatFun (.flg2 d a l g) d a (fun x _ => Fp.flg2 x) s

/-- PACK (R369). -/
def execPackBf16 (d a b : BitVec 6) (g : BitVec 3) (s : State) : Out :=
  floatPack (.packBf16 d a b g) d a b .bf16 s

/-- PACK (R369). -/
def execPackF16 (d a b : BitVec 6) (g : BitVec 3) (s : State) : Out :=
  floatPack (.packF16 d a b g) d a b .f16 s

/-- UNPK (R397). -/
def execUnpkBf16Lo (d a : BitVec 6) (g : BitVec 3) (s : State) : Out :=
  floatUnpack (.unpkBf16Lo d a g) d a .bf16 0 s

/-- UNPK (R397). -/
def execUnpkBf16Hi (d a : BitVec 6) (g : BitVec 3) (s : State) : Out :=
  floatUnpack (.unpkBf16Hi d a g) d a .bf16 16 s

/-- UNPK (R397). -/
def execUnpkF16Lo (d a : BitVec 6) (g : BitVec 3) (s : State) : Out :=
  floatUnpack (.unpkF16Lo d a g) d a .f16 0 s

/-- UNPK (R397). -/
def execUnpkF16Hi (d a : BitVec 6) (g : BitVec 3) (s : State) : Out :=
  floatUnpack (.unpkF16Hi d a g) d a .f16 16 s

/-- CVT (R324, R70). -/
def execCvt (d a : BitVec 6) (f t : BitVec 4) (r g : BitVec 3) (s : State) : Out :=
  issue (.cvt d a f t r g) s (perThread d fun c j =>
    cvtE ((Fp.Fmt.ofCode f.toNat).getD .f32) ((Fp.Fmt.ofCode t.toNat).getD .f32) (c.v a j).toNat
      (c.rnd r.toNat false j 0))

end Sys2Proof.Machine
end

