-- ==== Sys2Proof/Machine/Regions.lean ====
section
/-! DEFINITION. Scratchpad arrays as accesses see them: bytes and poison of shares, mapped regions with their line states,
fills and write-backs (R113 to R118, R128), descriptors (R202). -/

namespace Sys2Proof.Machine

/-- Change the region of creator `w` at an offset. -/
def State.updRegion (s : State) (w off : Nat) (f : Region → Region) : State :=
  { s with regions := s.regions.map fun r =>
      if r.creator = w ∧ r.off ≤ off ∧ off < r.off + r.len then f r else r }

/-- The poison of a share's sector (R128). -/
def State.sharePoisonAt (s : State) (w off : Nat) : Bool :=
  match s.wg? w with
  | some g => g.sharePoison.val false (off / 32)
  | none => false

/-- A byte of a share. -/
def State.shareAt (s : State) (w off : Nat) : Byte :=
  match s.wg? w with
  | some g => g.shareByte off
  | none => 0

/-- Set the poison of a share's sector. -/
def State.setSharePoison (s : State) (w sec : Nat) (p : Bool) : State :=
  s.updWg w fun g => { g with sharePoison := g.sharePoison.store false sec p }

/-- Write bytes of a share under bit masks; a mapped region's sectors become dirty (R117), a wholly written sector's poison
becomes `poison` and a partly written one keeps its own (R128). -/
def State.writeShare (s : State) (w : Nat) (bs : List HomeByte) (poison : Bool) : State :=
  let s1 := s.updWg w fun g => bs.foldl (fun g b => g.setShare b.off (maskByte (g.shareByte b.off) b.mask b.val)) g
  (sectorsOf bs).foldl (fun s sec =>
    let p := (s.sharePoisonAt w (sec * 32) && !coversSector bs sec) || poison
    (s.setSharePoison w sec p).updRegion w (sec * 32) fun r =>
      if r.map.isSome then
        let line := (sec * 32 - r.off) / 128
        let i := (sec * 32 - r.off) / 32 % 4
        { r with lines := r.lines.put line ⟨(match r.lines.look line with
          | some l => l.dirty
          | none => 0) ||| (1#4 <<< i)⟩ }
      else r) s1

/-- What a fill of a region's line finds (R117, R172, R182, R183). -/
inductive Fill where
  | ready (bytes : List Byte) (poison : BitVec 4)
  | ask (pa core : Nat)             -- the line must come to that core first: from another chip, or by a pull
  | wait
  | ends (cause : Cause)

/-- The 128-byte line of a global address, read at its home for workgroup `w` (R117, R316): from this chip's memory, or once the
line of another chip has come to its core. -/
def State.readLine (s : State) (w va : Nat) (k : Access) : Fill :=
  match s.wg? w with
  | none => .wait
  | some g =>
    match s.taskOf? g with
    | none => .wait
    | some t =>
      match s.walkPull g.lastCore t.rcd.tenant (va / 128 * 128) with
      | some pa => .ask pa g.lastCore
      | none =>
        match s.translate g.lastCore t false (va / 128 * 128) k with
        | .lease => .ends .lease
        | .aliasing => .ends .lease
        | .pullLost => .ends .pullLost
        | .ok pa disc _ =>
          if disc then .ready (List.replicate 128 0) 0
          else if s.pullLost pa then .ends .pullLost
          else if s.pullPending pa then .ask pa g.lastCore
          else if s.isLocal pa then .ready (s.homeBytes (offOf pa) 128) (s.linePoison (offOf pa))
          else
            let xs := (List.range 4).filterMap fun i => (s.core g.lastCore).inbox.find? fun x => x.sec == pa / 32 + i
            if xs.length = 4 then
              .ready (xs.flatMap fun x => x.data) (BitVec.ofNat 4 (bitsOf (fun i => (xs.map fun x => x.poison).getD i false) 4))
            else .ask pa g.lastCore

/-- The share bytes that lie in lines of which they cover every byte: a write of them fills nothing (R117). -/
def partLines (locs : List Loc) : List Loc :=
  locs.filter fun l => match l with
    | .share w off => !((List.range 128).all fun i => locs.contains (.share w (off / 128 * 128 + i)))
    | _ => true

/-- The absent mapped lines under share bytes: creator, region offset, line, address (R117). -/
def State.absentLines (s : State) (locs : List Loc) : List (Nat × Nat × Nat × Nat) :=
  (locs.filterMap fun l => match l with
    | .share w off =>
      match s.regionAt? w off with
      | some r =>
        match r.map with
        | some v =>
          let line := (off - r.off) / 128
          if (r.lines.look line).isSome then none else some (w, r.off, line, v + 128 * line)
        | none => none
      | none => none
    | _ => none).eraseDups

/-- Put a filled line into its region (R117). -/
def State.putLine (s : State) (w roff line : Nat) (bytes : List Byte) (poison : BitVec 4) : State :=
  let base := roff + 128 * line
  let s1 := s.updWg w fun g => (List.range 128).foldl (fun g i => g.setShare (base + i) (bytes.getD i 0)) g
  let s2 := (List.range 4).foldl (fun s i => s.setSharePoison w (base / 32 + i) (poison.getLsbD i)) s1
  s2.updRegion w base fun r => { r with lines := r.lines.put line ⟨0⟩ }

/-- What has come to a creator's core for a line is used (R117). -/
def State.takeInbox (s : State) (w va : Nat) : State :=
  match s.wg? w with
  | none => s
  | some g =>
    match s.taskOf? g with
    | none => s
    | some t =>
      match s.translate g.lastCore t false (va / 128 * 128) .load with
      | .ok pa _ _ =>
        let c := s.core g.lastCore
        if c.inbox.any fun x => x.sec / 4 == pa / 128 then
          s.setCore g.lastCore { c with inbox := c.inbox.filter fun x => x.sec / 4 != pa / 128 }
        else s
      | _ => s

/-- Fill every absent line under share bytes; the first that cannot be filled is the answer (R117). -/
def State.fillLines (s : State) : List (Nat × Nat × Nat × Nat) → Except Fill State
  | [] => .ok s
  | (w, roff, line, va) :: ls =>
    match s.readLine w va .load with
    | .ready bs p => ((s.takeInbox w va).putLine w roff line bs p).fillLines ls
    | f => .error f

/-- The locations of the line at a box physical address. -/
def lineLocs (pa : Nat) : List Loc := (List.range 128).map fun i => .glob (pa / 128 * 128 + i)

/-- A request of a train for a line has no answer yet. -/
def Train.asksFor (tr : Train) (pa : Nat) : Bool := tr.outst.any fun o => o.loads.any fun l => l.locs == lineLocs pa && l.value.isNone

/-- Whether an access that needs lines filled first can go on: they can be filled, their fill ends a task, or one must be asked
for and has not been. -/
def State.fillGoes (s : State) (tr : Train) (locs : List Loc) : Bool :=
  match s.fillLines (s.absentLines locs) with
  | .ok _ => true
  | .error (.ask pa _) => !tr.asksFor pa
  | .error (.ends _) => true
  | .error _ => false

/-- Ask for a line, once, for a fill of core `core`: of another chip (R117, R146), or one whose pull is not finished (R182). -/
def State.askFor (s : State) (w t pa core : Nat) : State :=
  match s.wg? w with
  | none => s
  | some g =>
    (s.updTrain w t fun tr =>
      if tr.asksFor pa then tr
      else { tr with outst := tr.outst ++ [lineOutst g tr.nextId 64 core (lineLocs pa) s.clock], nextId := tr.nextId + 1 }).askPulls [pa]

/-- The workgroup whose live context has a number (R202): the leading copy of a pair. -/
def State.ctxWg? (s : State) (ctx : Nat) : Option Wg :=
  s.wgs.find? fun g => g.ctx.toNat == ctx && g.mode != .trail && (s.taskOf? g).isSome

/-- The 64 bytes of a context descriptor (R202). -/
def Wg.descBytes (g : Wg) : List Byte :=
  toBytes g.ctx.toNat 8 ++ toBytes g.accBase.toNat 8 ++ toBytes g.accSaved.toNat 32 ++ toBytes g.saveBase.toNat 8
    ++ List.replicate 8 0

/-- A byte of a descriptor. -/
def State.descByte (s : State) (ctx off : Nat) : Byte :=
  match s.ctxWg? ctx with
  | some g => g.descBytes.getD off 0
  | none => 0

/-- Write a byte of a descriptor's ACCSAVED map, at 0x10 to 0x2F (R202, R408); a checked pair shares one (R226). -/
def State.writeDesc (s : State) (ctx off : Nat) (mask val : Byte) : State :=
  if 0x10 ≤ off ∧ off < 0x30 then
    { s with wgs := s.wgs.map fun g =>
        if g.ctx.toNat = ctx ∧ (s.taskOf? g).isSome then
          let old := toBytes g.accSaved.toNat 32
          let i := off - 0x10
          { g with accSaved := BitVec.ofNat 256 (ofBytes (old.set i (maskByte (old.getD i 0) mask val))) }
        else g }
  else s

end Sys2Proof.Machine
end

