-- ==== Sys2Proof/Machine/Logs.lean ====
section
/-! DEFINITION. Digests (R217 to R220) and the logs that a follower takes its values from (R153, R221, R223). -/

namespace Sys2Proof.Machine

/-- A byte that a step writes: its global virtual address, bit mask and value. -/
structure WByte where
  va : Nat
  mask : Byte
  val : Byte
  deriving DecidableEq, Repr

/-- The aligned 8-byte words of written bytes, ascending: address, byte mask, bytes with unwritten bits zero (R217). -/
def foldWords (bs : List WByte) : List (Nat × Nat × W64) :=
  let words := sortNat (bs.map fun b => b.va / 8).eraseDups
  words.map fun w =>
    let at' := fun i => bs.findRev? fun b => b.va == 8 * w + i
    let m := bitsOf (fun i => (at' i).isSome) 8
    let v := ofBytes ((List.range 8).map fun i => match at' i with
      | some b => b.val &&& b.mask
      | none => 0)
    (8 * w, m, BitVec.ofNat 64 v)

/-- The key of a fold (R217, R219). -/
def foldKey (va m : Nat) (atomic engine : Bool) : W64 :=
  BitVec.ofNat 64 (m * 2 ^ 56 + va % 2 ^ 48 / 8 * 8) ||| (if atomic then 1#64 <<< 48 else 0)
    ||| (if engine then 1#64 <<< 49 else 0)

/-- Fold written bytes into a digest (R217; bit 49 for an engine command, R219). -/
def foldBytes (d : W64) (bs : List WByte) (engine : Bool) : W64 :=
  (foldWords bs).foldl (fun d (va, m, w) => fold d (foldKey va m false engine) w) d

/-- Thread `j`'s digest (R217). -/
def Train.digest (tr : Train) (j : Nat) : W64 := tr.dig.val Config.digest0 j

/-- Set thread `j`'s digest. -/
def Train.setDigest (tr : Train) (j : Nat) (d : W64) : Train := { tr with dig := tr.dig.store Config.digest0 j d }

/-- The keys and words of written bytes (R217; bit 49 for an engine command, R219). -/
def foldsOf (bs : List WByte) (engine : Bool) : List (W64 × W64) :=
  (foldWords bs).map fun (va, m, w) => (foldKey va m false engine, w)

/-- Fold keys and words into thread `j`'s digest; those of thread 0 stand behind its unfinished TSTs (R217, R394). -/
def Train.foldIn (tr : Train) (j : Nat) (fs : List (W64 × W64)) : Train :=
  if j = 0 ∧ !tr.dq.isEmpty then { tr with dq := tr.dq ++ [⟨0, true, fs⟩] }
  else tr.setDigest j (fs.foldl (fun d f => fold d f.1 f.2) (tr.digest j))

/-- Fold what stands before the first unfinished TST. -/
def settleDq (d : W64) : List DigItem → W64 × List DigItem
  | [] => (d, [])
  | x :: rest => if x.done then settleDq (x.folds.foldl (fun d f => fold d f.1 f.2) d) rest else (d, x :: rest)

/-- Thread 0's digest after items have finished. -/
def Train.settleDigest (tr : Train) : Train :=
  let (d, rest) := settleDq (tr.digest 0) tr.dq
  { tr.setDigest 0 d with dq := rest }

/-- A TST has been issued: its place in thread 0's digest (R394). -/
def Train.dqOpen (tr : Train) (id : Nat) : Train := { tr with dq := tr.dq ++ [⟨id, false, []⟩] }

/-- It has completed, with these folds. -/
def Train.dqClose (tr : Train) (id : Nat) (fs : List (W64 × W64)) : Train :=
  Train.settleDigest { tr with dq := tr.dq.map fun x => if x.id = id then { x with done := true, folds := fs } else x }

/-- It will never complete. -/
def Train.dqDrop (tr : Train) (id : Nat) : Train := Train.settleDigest { tr with dq := tr.dq.filter fun x => x.id != id }

/-- Fold a step's written bytes into thread `j`'s digest. -/
def Train.foldStore (tr : Train) (j : Nat) (bs : List WByte) : Train := tr.foldIn j (foldsOf bs false)

/-- Fold an atomic into thread `j`'s digest: its operand, or compare value and new value, as the word (R217). -/
def Train.foldAtomic (tr : Train) (j va size : Nat) (ws : List W64) : Train :=
  tr.foldIn j (ws.map fun w => (foldKey (va / 8 * 8) ((2 ^ size - 1) * 2 ^ (va % 8)) true false, w))

/-- The train digest TD (R218). -/
def Train.td (tr : Train) : W64 :=
  (maskThreads tr.launched).foldl (fun d j => fold d (BitVec.ofNat 64 j) (tr.digest j)) Config.digest0

/-- The workgroup digest WD (R218). -/
def State.wd (s : State) (w : Nat) : W64 :=
  let ts := s.trainsOf w
  let d := ts.foldl (fun d e => fold d (BitVec.ofNat 64 e.1) e.2.td) Config.digest0
  ts.foldl (fun d e => fold d (BitVec.ofNat 64 (0x40 + e.1)) e.2.ed) d

/-- Bytes as the words of a log entry. -/
def packBytes : Nat → List Byte → List W64
  | 0, _ => []
  | n + 1, bs => if bs.isEmpty then [] else word64 (bs.take 8) :: packBytes n (bs.drop 8)

/-- `n` bytes of a log entry's words. -/
def unpackBytes (ws : List W64) (n : Nat) : List Byte := (ws.flatMap fun w => toBytes w.toNat 8).take n

/-- Whether a workgroup of a level-1 task is audited (R221). -/
def Task.chosen (t : Task) (wgid : Nat) : Bool :=
  t.rcd.integ == 1 && (wgid + t.rcd.seed.toNat % 2 ^ 32) % 2 ^ t.rcd.audk == 0

/-- Whether a workgroup is replayed: itself audited, or a member of a fusion group with an audited one. -/
def Task.audits (t : Task) (wgid : Nat) : Bool :=
  (List.range t.fuse).any fun i => t.chosen (wgid / t.fuse * t.fuse + i)

/-- Whether an access of a run is logged for its follower: every load and atomic at level 2, global ones at level 3 (R153,
R223), atomics alone at level 1 (R221). -/
def Task.logs (t : Task) (wgid : Nat) (glob atomic : Bool) : Bool :=
  t.rcd.integ == 2 || (t.rcd.integ == 3 && glob) || (atomic && t.audits wgid)

/-- Whether a follower takes an access from the log. -/
def RunMode.takesLog (m : RunMode) (glob atomic : Bool) : Bool :=
  match m with
  | .primary => false
  | .trail => glob
  | .shadow => true
  | .replay => atomic

/-- Log a value; an audited run that has logged 4,096 atomics counts on, and is not audited (R221, R222). -/
def State.logValue (s : State) (w trn j : Nat) (dix : W32) (sub : Nat) (glob atomic : Bool) (vals : List W64) : State :=
  match s.wg? w with
  | none => s
  | some g =>
    match s.taskOf? g with
    | none => s
    | some t =>
      if g.mode = .primary ∧ t.logs g.wgid glob atomic then
        let s1 := s.updTask g.slot fun t => { t with log := t.log ++ [⟨g.wgid, trn, j, dix, sub, vals⟩] }
        if atomic then s1.setWg w { g with atomLog := g.atomLog + 1 } else s1
      else s

/-- Whether the load log of a level-2 primary is full (R223): its steps stall until its shadow has consumed entries. How many it holds is
the supervisor's. -/
def State.logFull (s : State) (g : Wg) : Bool :=
  g.mode == .primary && match s.taskOf? g with
    | some t => t.rcd.integ == 2 && decide (Config.loadLog ≤ t.log.length)
    | none => false

/-- Whether a log entry is the one of a step. -/
def LogEntry.isFor (e : LogEntry) (wgid trn j : Nat) (dix : W32) (sub : Nat) : Bool :=
  e.wgid == wgid && e.trn == trn && e.j == j && e.dix == dix && e.sub == sub

/-- Remove the first element for which `f` holds. -/
def dropFirst {α : Type} (f : α → Bool) : List α → List α
  | [] => []
  | x :: xs => if f x then xs else x :: dropFirst f xs

/-- A follower takes the value of a step from the log, once (R221, R223). DEDUCED: notes/assumptions/24.md. -/
def State.takeLog (s : State) (w trn j : Nat) (dix : W32) (sub : Nat) : Option (List W64 × State) :=
  match s.wg? w with
  | none => none
  | some g =>
    match s.taskOf? g with
    | none => none
    | some t =>
      match t.log.find? fun e => e.isFor g.wgid trn j dix sub with
      | some e => some (e.vals, s.updTask g.slot fun t =>
          { t with log := dropFirst (fun e => e.isFor g.wgid trn j dix sub) t.log })
      | none => none

/-- The cause with a code (R238). -/
def causeOf (n : Nat) : Cause :=
  ([.illegal, .priv, .misaligned, .lease, .handle, .producer, .budget, .stackLimit, .shadowFull, .aliasing, .pullLost,
    .poison, .detConflict, .barrierTimeout, .xshcTimeout, .accOwner, .fenceLost, .record, .engine, .svc, .trap, .space,
    .mismatch, .digest, .logOverflow, .audit].find? fun c => c.code == n).getD .illegal

/-- The registers that receive the results of a command (R188, R189, R329, R343 to R346, R376, R389). -/
def cmdRegs (i : Instr) (vs : List W64) : List RegWrite :=
  match i with
  | .lnch d _ _ => [.k d.toNat (vs.getD 0 0)]
  | .trel d _ _ => [.k d.toNat (vs.getD 0 0)]
  | .snap d _ _ => [.k d.toNat (vs.getD 0 0)]
  | .sqry d _ _ => [.k d.toNat (vs.getD 0 0)]
  | .htak d _ _ => [.k d.toNat (vs.getD 0 0)]
  | .hmap d _ _ => [.k d.toNat (vs.getD 0 0)]
  | .svc k => [.k k.toNat (vs.getD 0 0)]
  | .evpop d _ _ => (List.range 8).map fun n => .k (d.toNat + n) (vs.getD n 0)
  | _ => []

/-- Whether each copy of a checked pair performs a command itself (R347). DEDUCED: notes/assumptions/26.md. -/
def byEachCopy : Instr → Bool
  | .hgiv _ _ _ => true
  | .htak _ _ _ => true
  | .hmap _ _ _ => true
  | .hfls _ _ => true
  | _ => false

/-- Whether a run takes the result of a command from its original (R221, R223, R227, R347). -/
def RunMode.takesResult (m : RunMode) (i : Instr) : Bool :=
  match m with
  | .primary => false
  | .trail => !byEachCopy i
  | _ => true

/-- Log the result of a command for the runs that follow (R221, R223, R227): under thread number 32. DEDUCED:
notes/assumptions/25.md. -/
def State.logResult (s : State) (w trn : Nat) (x : Outst) (vals : List W64) : State :=
  match s.wg? w with
  | none => s
  | some g =>
    match s.taskOf? g with
    | none => s
    | some t =>
      if g.mode = .primary ∧ (t.rcd.integ = 2 ∨ (t.rcd.integ = 3 ∧ !byEachCopy x.insn) ∨ t.audits g.wgid) then
        s.updTask g.slot fun t => { t with log := t.log ++ [⟨g.wgid, trn, 32, x.dix, x.sub, vals⟩] }
      else s

/-- A command has its results: its instruction may complete (R41). -/
def State.finishCommand (s : State) (w t o : Nat) (vs : List W64) : State :=
  match s.train? w t with
  | none => s
  | some tr =>
    match tr.outst? o with
    | none => s
    | some x =>
      (s.logResult w tr.trn x (0 :: vs)).updTrain w t fun tr => tr.updOutst o fun x =>
        { x with waitsFor := none, writes := x.writes ++ cmdRegs x.insn vs }

/-- A command has met a uniform completion-time fault (R41). -/
def State.faultCommand (s : State) (w t o : Nat) (cause : Cause) (addr : W64) : State :=
  match s.train? w t with
  | none => s
  | some tr =>
    match tr.outst? o with
    | none => s
    | some x =>
      ((s.logResult w tr.trn x [1, BitVec.ofNat 64 cause.code, addr]).faultOutst w t o cause addr 0).updTrain w t
        fun tr => tr.updOutst o fun x => { x with waitsFor := none }

/-- A uniform fault of a command at issue, logged for the runs that take its result (R221, R223). -/
def State.raiseLogged (s : State) (c : Ctx) (cause : Cause) (addr : W64) : State :=
  let logs := c.g.mode == .primary && (c.task.rcd.integ == 2 || (c.task.rcd.integ == 3 && !byEachCopy c.insn) || c.task.audits c.g.wgid)
  let s1 := if logs then s.updTask c.g.slot fun t =>
      { t with log := t.log ++ [⟨c.g.wgid, c.tr.trn, 32, c.sp.dix, c.sub, [2, BitVec.ofNat 64 cause.code, addr]⟩] }
    else s
  s1.raiseUniform c cause addr

/-- The result of a command from the log: what the original received, its fault included. -/
def Outst.answerResult (x : Outst) (vals : List W64) : Outst :=
  let y := { x with loads := x.loads.map fun l => { l with value := some [] } }
  match vals with
  | 1 :: code :: addr :: _ => { y with fault := some (x.ctFault (causeOf code.toNat) addr 0) }
  | _ :: vs => { y with writes := x.writes ++ cmdRegs x.insn vs }
  | [] => y

/-- Issue a command that takes effect once: a follower waits for its original's result, a checked pair for its
comparator, every other run performs it now (R221, R223, R227). -/
def State.issueOnce (s : State) (c : Ctx) (ops : List W64) (perform : State → Nat → State) : State :=
  match s.train? c.w c.t with
  | none => s
  | some tr =>
    let o := tr.nextId
    let checked := c.task.rcd.integ == 3
    if c.g.mode = .shadow ∨ c.g.mode = .replay then
      match s.takeLog c.w c.tr.trn 32 c.sp.dix c.sub with
      | none => s.stall c .retry
      | some (2 :: code :: addr :: _, s1) => s1.raiseUniform c (causeOf code.toNat) addr
      | some (vals, s1) => (s1.addOutst c 0 fun x => Outst.answerResult { x with ops := ops } vals).retire c
    else if c.g.mode.takesResult c.insn then
      let s1 := (s.addOutst c 0 fun x =>
        { x with ops := ops, loads := [⟨32, 0, [], true, none, false, s.clock, false, c.g.ctx, c.g.ctxgen⟩] }).retire c
      if checked then s1.note c.w c.t c.key (.command c.insn ops) none else s1
    else
      let s1 := (s.addOutst c 0 fun x => { x with ops := ops, waitsFor := some 0 }).retire c
      if checked && !byEachCopy c.insn then s1.note c.w c.t c.key (.command c.insn ops) (some o) else perform (if checked then s1.note c.w c.t c.key (.command c.insn ops) none else s1) o

end Sys2Proof.Machine
end

