-- ==== Sys2Proof/Machine/LoadStore.lean ====
section
/-! DEFINITION. LD, LDK, ST, STK (R352 to R354, R383 to R385): steps in ascending thread index (R20, R133), the store
buffer (R134), reservations (R164), digests (R217). A load's value is fixed, and a store is performed, by the events of
MemEvents.lean. -/

namespace Sys2Proof.Machine

/-- How one thread's step ends. -/
inductive StepRes where
  | ok (s : State)
  | fault (s : State) (cause : Cause) (addr : W64)
  | wait (s : State) (x : Wait)

/-- Steps of threads in ascending index until one does not complete (R20, R40): the state, and who stopped. -/
def eachThread (f : State → Nat → StepRes) (s : State) : List Nat → State × Option (Nat × StepRes)
  | [] => (s, none)
  | j :: js =>
    match f s j with
    | .ok s' => eachThread f s' js
    | .fault s' c a => (s', some (j, .fault s' c a))
    | .wait s' x => (s', some (j, .wait s' x))

/-- Threads below `j`. -/
def belowMask (j : Nat) : Mask := BitVec.ofNat 32 (2 ^ j - 1)

/-- Whether a location is global (R217, R227). -/
def Loc.isGlobal : Loc → Bool
  | .glob _ => true
  | .discarded _ => true
  | .desc _ _ => true
  | _ => false

/-- The box physical address of a global location. -/
def Loc.box : Loc → Option Nat
  | .glob pa => some pa
  | _ => none

/-- The destination of writes to a location from a core (R131, R140). -/
def State.locDest (s : State) (core : Nat) : Loc → Dest
  | .glob pa => s.destOf pa
  | .discarded pa => s.destOf pa
  | .share w _ =>
    match s.wg? w with
    | some g => if g.lastCore = core then .own else .peer g.lastCore
    | none => .own
  | .priv _ => .own
  | .desc _ _ => .own

/-- The domain of a train whose live levels' ranges hold the line at a chip offset (R164). -/
def State.needsEntry (s : State) (slot off : Nat) : Option Domain :=
  match s.domainOf off, s.doms.look slot with
  | some n, some d => if n = slot ∧ (d.levelFor (s.domainVa (off / 128 * 128))).isSome then some d else none
  | _, _ => none

/-- Whether only the supervisor's level 0 covers a line of a task at level 2 or 3 (R230). -/
def Domain.onlyLevel0 (d : Domain) (va : Nat) : Bool := (d.levels.filter fun l => l.covers va).all fun l => l.n == 0

/-- The answer to an exhausted lehr at a step (R164, R230). -/
def State.exhausted (s : State) (t : Task) (d : Domain) (off : Nat) (a : W64) : StepRes :=
  if 2 ≤ t.rcd.integ ∧ d.onlyLevel0 (s.domainVa (off / 128 * 128)) then .wait s .lehr else .fault s .shadowFull a

/-- Buffered entries of a train: they have not left (R134). Engine writes on their way take no entry. -/
def Train.held (tr : Train) : Nat := (tr.sb.filter fun e => e.inBuffer && !e.owners.isEmpty).length

/-- Count of writes of a train that are not performed or acknowledged, by destination (R136): an entry each, and a remote
atomic each. -/
def State.ust (s : State) (w t : Nat) (f : Dest → Bool) : Nat :=
  match s.train? w t with
  | some tr => (tr.sb.filter fun e => f e.dest && !e.owners.isEmpty).length
      + (s.resp.filter fun r => r.w == w && r.t == t && f (s.destOf r.pa)).length
  | none => 0

/-- The counter of a destination stands at its limit (R136). -/
def State.ustFull (s : State) (w t : Nat) (d : Dest) : Bool :=
  let same := fun (x : Dest) => match x, d with
    | .own, .own => true
    | .peer _, .peer _ => true
    | .slice _, .slice _ => true
    | .chip _, .chip _ => true
    | _, _ => false
  decide (0xFFFF ≤ s.ust w t same)

/-- Add a destination to USED (R140). -/
def Train.noteUsed (tr : Train) (d : Dest) : Train := if tr.used.contains d then tr else { tr with used := d :: tr.used }

/-- Put one byte into the entry of this issue for its line, or open an entry (R134): entries of the issue have ids from
`start` on. -/
def Train.putByte (tr : Train) (p start : Nat) (src : StoreSrc) (d : Dest) (rsv : Option Nat) (b : SbByte) : Train :=
  let mine := fun (e : SbEntry) => decide (start ≤ e.id) && e.owners.contains p && e.inBuffer &&
    e.bytes.any fun x => x.loc.line == b.loc.line
  if tr.sb.any mine then
    { tr with sb := tr.sb.map fun e =>
        if mine e then { e with bytes := e.bytes.filter (fun x => x.loc != b.loc || x.mask != b.mask) ++ [b] } else e }
  else
    Train.noteUsed { tr with
      sb := tr.sb ++ [⟨tr.nextId, [p], false, d, [b], .held, rsv, src, false, 0, 0⟩], nextId := tr.nextId + 1 } d

/-- Whether a byte finds an entry of this issue. -/
def Train.hasEntry (tr : Train) (p start : Nat) (b : SbByte) : Bool :=
  tr.sb.any fun e => decide (start ≤ e.id) && e.owners.contains p && e.inBuffer &&
    e.bytes.any fun x => x.loc.line == b.loc.line

/-- The distinct lines of bytes that find no entry yet, by one byte of each. -/
def Train.newLines (tr : Train) (p start : Nat) : List SbByte → List SbByte
  | [] => []
  | b :: bs =>
    let rest := Train.newLines tr p start bs
    if tr.hasEntry p start b || rest.any fun x => x.loc.line == b.loc.line then rest else b :: rest

/-- Reserve a shadow entry for each new line of a range (R164): the state, or why the step stops. -/
def State.reserveLines (s : State) (c : Ctx) (a : W64) : List SbByte → StepRes
  | [] => .ok s
  | b :: bs =>
    match b.loc with
    | .glob pa =>
      if s.isLocal pa && c.g.mode == .primary then
        match s.needsEntry c.g.slot (offOf pa) with
        | some d =>
          match d.reserve c.core with
          | some d' => State.reserveLines (s.setDom c.g.slot d') c a bs
          | none => s.exhausted c.task d (offOf pa) a
        | none => State.reserveLines s c a bs
      else State.reserveLines s c a bs
    | _ => State.reserveLines s c a bs

/-- The page of a discarded location that a write revives first (R181). -/
def discPage (va : Nat) (locs : List Loc) : Option Nat :=
  if locs.any fun l => match l with
    | .discarded _ => true
    | _ => false
  then some (va / 4096) else none

/-- Ask for the revival of a discarded page (R181). -/
def State.askRevival (s : State) (tenant page : Nat) : State :=
  if s.revivals.contains (tenant, page) then s else { s with revivals := s.revivals ++ [(tenant, page)] }

/-- A store's bytes at locations. -/
def storeBytes (locs : List Loc) (bs : List (Byte × Byte)) : List SbByte :=
  (List.range locs.length).map fun i => ⟨locs.getD i (.priv 0), (bs.getD i (0, 0)).1, (bs.getD i (0, 0)).2⟩

/-- Whether a run performs its stores to a location: shadows and replays perform none to the global space (R221, R223);
their own shares and private windows they write, for their engines read them (R219). -/
def RunMode.performs (m : RunMode) (l : Loc) : Bool :=
  match m with
  | .shadow => !l.isGlobal
  | .replay => !l.isGlobal
  | _ => true

/-- A checked pair compares a step's bytes, entry by entry (R227). -/
def State.noteStep (s : State) (c : Ctx) (start j : Nat) (bytes : List SbByte) : State :=
  match s.train? c.w c.t with
  | none => s
  | some tr =>
    if c.task.rcd.integ ≠ 3 then s
    else
      (tr.sb.filter fun e => decide (start ≤ e.id)).foldl (fun (s : State) e =>
        let mine := bytes.filter fun b => b.loc.isGlobal && e.bytes.any fun x => x.loc.line == b.loc.line
        if mine.isEmpty then s else s.note c.w c.t { c.key with pos := j } (.store mine) (some e.id)) s

/-- Where thread `j`'s access of `n` bytes lies, or its fault (R179, R239). -/
def State.locate (s : State) (c : Ctx) (j n al : Nat) (a : W64) (k : Access) (privOk : Bool) : StepLocs :=
  match s.resolve c.who j a n al k privOk with
  | .ok locs => .at locs
  | .error (cause, x) => .fault cause x

/-- The issue under way (R134, R179): as it was interrupted, or a new one, which translates the pages of all acting threads
before its first step. -/
def State.beginPart (s : State) (c : Ctx) (js : List Nat) (addr : Nat → W64) (f : State → Nat → StepLocs) : State × IssuePart :=
  match c.sp.part with
  | some x => (s, x)
  | none =>
    let s1 := js.foldl (fun s j => s.learn c.who (addr j)) s
    (s1, ⟨c.tr.nextId, js.map fun j => (j, f s1 j)⟩)

/-- What thread `j`'s translation gave at issue; a page that was discarded then is looked at again, for a revival changes where
the access lies (R181). -/
def IssuePart.of (x : IssuePart) (s : State) (f : State → Nat → StepLocs) (j : Nat) : StepLocs :=
  match x.steps.find? fun e => e.1 == j with
  | some (_, .at locs) => if locs.any fun l => match l with
      | .discarded _ => true
      | _ => false
    then f s j else .at locs
  | some (_, e) => e
  | none => f s j

/-- Wait in the middle of an issue, whose part is kept (R134, R179). -/
def State.stallPart (s : State) (c : Ctx) (x : Wait) (part : IssuePart) : State :=
  s.updTrain c.w c.t fun tr => tr.updSplit c.p fun q => { q with wait := x, part := some part }

/-- An access issues once its walks can read their tables (R182). -/
def State.afterWalks (s : State) (c : Ctx) (as : List W64) (body : State → State) : State :=
  match s.walkPulls c.who as with
  | [] => body s
  | pas => (s.askPulls pas).stall c .retry

/-- The address that a fault of the issuing instruction reports as PC (R242): its prefix's, if it has one. -/
def Ctx.pcOf (c : Ctx) : W64 :=
  match c.sp.pfx with
  | some x => x.pc
  | none => c.sp.pc

/-- One thread's step of a store of the bytes `bs` (bit mask and value) at `a`: check, revive, reserve, place, fold
(R383). `x` is what its translation gave. -/
def State.storeStep (s : State) (c : Ctx) (start j : Nat) (a : W64) (bs : List (Byte × Byte)) (x : StepLocs)
    (foldTo : Nat) : StepRes :=
  match s.train? c.w c.t with
  | none => .ok s
  | some tr =>
    match x with
    | .fault cause e => .fault s cause e
    | .at locs =>
      let va := a.toNat % 2 ^ 48
      let wb := (List.range bs.length).map fun i => (⟨va + i, (bs.getD i (0, 0)).1, (bs.getD i (0, 0)).2⟩ : WByte)
      let fold := fun (s : State) =>
        if (locs.getD 0 (.priv 0)).isGlobal then s.updTrain c.w c.t fun tr => tr.foldStore foldTo wb else s
      if !c.g.mode.performs (locs.getD 0 (.priv 0)) then .ok (fold s)
      else
        match discPage va locs with
        | some page => .wait (s.askRevival c.task.rcd.tenant page) .retry
        | none =>
          let bytes := storeBytes locs bs
          let new := tr.newLines c.p start bytes
          if Config.storeBuffer < tr.held + new.length then .wait s .retry
          else if new.any fun b => s.ustFull c.w c.t (s.locDest c.core b.loc) then .wait s .retry
          else
            match s.reserveLines c a new with
            | .ok s1 =>
              let rsv := fun (b : SbByte) => match b.loc with
                | .glob pa => if s.isLocal pa && c.g.mode == .primary && (s.needsEntry c.g.slot (offOf pa)).isSome
                    then some c.core else none
                | _ => none
              .ok ((fold (s1.updTrain c.w c.t fun tr =>
                bytes.foldl (fun tr b => tr.putByte c.p start ⟨c.pcOf, a, j⟩ (s.locDest c.core b.loc) (rsv b) b) tr)).noteStep c start j bytes)
            | .fault _ cause e => .fault s cause e
            | .wait _ x => .wait s x

/-- Entries of a checked task's global writes wait until every step in them has been compared (R153, R227). -/
def State.compareEntries (s : State) (c : Ctx) (start : Nat) : State :=
  if c.task.rcd.integ ≠ 3 then s
  else
    let mine := fun (e : SbEntry) => decide (start ≤ e.id) && e.stage == .held &&
      e.bytes.any fun b => b.loc.isGlobal
    s.updTrain c.w c.t fun tr =>
      { tr with sb := tr.sb.map fun e => if mine e then { e with stage := .compare } else e }

/-- How the steps of a store end: all placed, a fault at a step, or a wait after the threads already placed (R40). -/
def State.endStore (s : State) (c : Ctx) (part : IssuePart) (r : Option (Nat × StepRes)) : State :=
  let s := s.compareEntries c part.start
  match r with
  | some (j, .fault _ cause a) =>
    if isPerThread c.insn then s.raiseStep c cause a j else s.raiseUniform c cause a
  | some (j, .wait _ x) => (s.noteDone c (c.active &&& belowMask j)).stallPart c x part
  | _ => s.retire c

/-- A release store performs RELEASE(SC) before its first step, at the scope of R144 (R138); with EXM zero it does
nothing (R23). -/
def State.releaseFirst (s : State) (c : Ctx) (body : State → State) : State :=
  let (ord, sc) := memOf c.sp.pfx
  if (ord = 2 ∨ ord = 3) ∧ !(isPerThread c.insn && c.sp.exm == 0) then
    let s := s.noteDemoted c.w c.t c.task.rcd.tenant sc
    match s.release c.w c.t c.p (s.runScope c.task.rcd.tenant sc) with
    | .done s' => body s'
    | .wait s' => s'.stall c .retry
    | .lost s' => s'.raise c (c.fault .fenceLost 0 0 true true 0)
  else body s

/-- The bytes of the registers from `d` on of thread `j`, low first (R383). -/
def regBytes (tr : Train) (j d n : Nat) : List Byte :=
  ((List.range ((n + 3) / 4)).flatMap fun i => toBytes (tr.getV j (d + i)).toNat 4).take n

/-- Whole bytes. -/
def wholeBytes (bs : List Byte) : List (Byte × Byte) := bs.map fun b => (0xFF, b)

/-- ST.E6 (R124): the address of the first byte touched, and the bytes under bit masks. -/
def e6Bytes (base e : Nat) (code : Nat) : W64 × List (Byte × Byte) :=
  let p := 6 * (e % 16)
  let a := BitVec.ofNat 64 (base + 12 * (e / 16) + p / 8)
  let m := 0x3F * 2 ^ (p % 8)
  let v := (code % 64) * 2 ^ (p % 8)
  let lo : Byte × Byte := (BitVec.ofNat 8 m, BitVec.ofNat 8 v)
  (a, if 2 < p % 8 then [lo, (BitVec.ofNat 8 (m / 256), BitVec.ofNat 8 (v / 256))] else [lo])

/-- What thread `j`'s ST writes, and from where on (R383, R124). -/
def stBytes (c : Ctx) (d : BitVec 6) (x k : BitVec 5) (w j : Nat) : W64 × List (Byte × Byte) :=
  if w = 6 then e6Bytes (c.k5 k).toNat (c.tr.getV j x.toNat).toNat (c.v d j).toNat
  else (effAddr (c.k5 k) (c.tr.getV j x.toNat), wholeBytes (regBytes c.tr j d.toNat (widthBytes w)))

/-- Where it lies, or its fault (R383, R124, R239). -/
def State.stLocate (c : Ctx) (d : BitVec 6) (x k : BitVec 5) (w : Nat) (s : State) (j : Nat) : StepLocs :=
  let (a, bs) := stBytes c d x k w j
  if w = 6 then
    match spaceOf a with
    | .none => .fault .space a
    | .priv _ => .fault .space a
    | _ => if aligned (c.k5 k).toNat 4 then s.locate c j bs.length 1 a .store false else .fault .misaligned (c.k5 k)
  else s.locate c j bs.length (widthAlign w) a .store true

/-- ST (R383, R384). -/
def execSt (d : BitVec 6) (x k : BitVec 5) (w : BitVec 3) (l : BitVec 4) (g : BitVec 3) (s : State) : Out :=
  issue (.st d x k w l g) s fun c s => s.releaseFirst c fun s =>
    let addr := fun j => (stBytes c d x k w.toNat j).1
    s.afterWalks c (c.threads.map addr) fun s =>
      let f := State.stLocate c d x k w.toNat
      let (s0, part) := s.beginPart c c.threads addr f
      let (s1, r) := eachThread (fun s j =>
        s.storeStep c part.start j (addr j) (stBytes c d x k w.toNat j).2 (part.of s f j) j) s0 c.threads
      s1.endStore c part r

/-- STK (R385): one write for the train; a global one folds into thread 0's digest. -/
def execStk (d : BitVec 6) (x k : BitVec 5) (w : BitVec 3) (l : BitVec 4) (s : State) : Out :=
  issue (.stk d x k w l) s fun c s => s.releaseFirst c fun s =>
    let n := widthBytes w.toNat
    let bytes := (toBytes (c.tr.getK d.toNat).toNat 8 ++ toBytes (c.tr.getK (d.toNat + 1)).toNat 8).take n
    let a := effAddr (c.k5 k) ((c.k5 x).setWidth 32)
    s.afterWalks c [a] fun s =>
      let f := fun (s : State) (j : Nat) => s.locate c j n (widthAlign w.toNat) a .store false
      let (s0, part) := s.beginPart c [0] (fun _ => a) f
      let (s1, r) := eachThread (fun s j => s.storeStep c part.start j a (wholeBytes bytes) (part.of s f j) 0) s0 [0]
      s1.endStore c part r

/-- The step of a load for thread `j` (R352): the access to be performed, or why it stops. -/
def State.loadStep (s : State) (c : Ctx) (j n al : Nat) (a : W64) (privOk : Bool) :
    Except (Cause × W64) Load :=
  match s.resolve c.who j a n al .load privOk with
  | .error e => .error e
  | .ok locs => .ok ⟨j, a, locs, c.g.mode.takesLog ((locs.getD 0 (.priv 0)).isGlobal) false, none, false, s.clock, false, c.g.ctx, c.g.ctxgen⟩

/-- The loads of threads in ascending index until one faults (R40, R179). -/
def State.loadSteps (s : State) (c : Ctx) (n al : Nat) (addr : Nat → W64) (privOk : Bool) :
    List Nat → List Load × Option (Nat × Cause × W64)
  | [] => ([], none)
  | j :: js =>
    match s.loadStep c j n al (addr j) privOk with
    | .error (cause, a) => ([], some (j, cause, a))
    | .ok l =>
      let (ls, r) := State.loadSteps s c n al addr privOk js
      (l :: ls, r)

/-- The acquire that a load performs after its last step (R138), none with EXM zero. -/
def Ctx.acquireAfter (c : Ctx) : Option Nat :=
  let (ord, sc) := memOf c.sp.pfx
  if (ord = 1 ∨ ord = 3) ∧ !(isPerThread c.insn && c.sp.exm == 0) then some sc else none

/-- Issue loads (R353): the instruction is outstanding until every value has arrived. -/
def State.startLoads (s : State) (c : Ctx) (n al : Nat) (addr : Nat → W64) (privOk : Bool) (js : List Nat) : State :=
  s.afterWalks c (js.map addr) fun s =>
  let s := js.foldl (fun s j => s.learn c.who (addr j)) s
  let (ls, r) := s.loadSteps c n al addr privOk js
  let s := ls.foldl (fun s l =>
    if (l.locs.getD 0 (.priv 0)).isGlobal then s.note c.w c.t c.key (.load l.addr n) none else s) s
  let acq := c.acquireAfter
  let s := match acq with
    | some sc => s.noteDemoted c.w c.t c.task.rcd.tenant sc
    | none => s
  let s := s.askPulls (ls.flatMap fun l => l.locs.filterMap Loc.box)
  let m := if isPerThread c.insn then maskOf fun j => ls.any fun l => l.j == j else 0
  let add := fun (s : State) => s.addOutst c m fun o =>
    { o with loads := ls, window := if r.isNone then o.window else 0
             acq := if r.isNone then acq.map (s.runScope c.task.rcd.tenant) else none }
  match r with
  | some (j, cause, a) =>
    let s1 := if ls.isEmpty then s else add s
    if isPerThread c.insn then s1.raiseStep c cause a j else s1.raiseUniform c cause a
  | none => (if ls.isEmpty && acq.isNone then s else add s).retire c

/-- LD (R352, R353). -/
def execLd (d : BitVec 6) (x k : BitVec 5) (w : BitVec 3) (l : BitVec 4) (g : BitVec 3) (s : State) : Out :=
  issue (.ld d x k w l g) s fun c s =>
    s.startLoads c (widthBytes w.toNat) (widthAlign w.toNat)
      (fun j => effAddr (c.k5 k) (c.tr.getV j x.toNat)) true c.threads

/-- LD with sign extension (R352). -/
def execLdS (d : BitVec 6) (x k : BitVec 5) (w : BitVec 1) (l : BitVec 4) (g : BitVec 3) (s : State) : Out :=
  issue (.ldS d x k w l g) s fun c s =>
    s.startLoads c (widthBytes w.toNat) (widthAlign w.toNat)
      (fun j => effAddr (c.k5 k) (c.tr.getV j x.toNat)) true c.threads

/-- LDK (R354): one access for the train. -/
def execLdk (d : BitVec 6) (x k : BitVec 5) (w : BitVec 3) (l : BitVec 4) (s : State) : Out :=
  issue (.ldk d x k w l) s fun c s =>
    s.startLoads c (widthBytes w.toNat) (widthAlign w.toNat)
      (fun _ => effAddr (c.k5 k) ((c.k5 x).setWidth 32)) false [0]

end Sys2Proof.Machine
end

