-- ==== Sys2Proof/Machine/Atom.lean ====
section
/-! DEFINITION. ATOM (R293, R294): one indivisible read and write at the target, in ascending thread index; deferral in a
deterministic task (R215, R216); the response table (R207); checked pairs (R153, R227). -/

namespace Sys2Proof.Machine

/-- Bytes of an operation (R293). -/
def atomSize : AtomOp → Nat
  | .add64 => 8
  | .exch64 => 8
  | .cas64 => 8
  | _ => 4

/-- Whether an operation compares. -/
def atomIsCas : AtomOp → Bool
  | .cas32 => true
  | .cas64 => true
  | _ => false

/-- Whether an operation is a floating-point add (R215). -/
def atomIsFloat : AtomOp → Bool
  | .faddF32 => true
  | .faddBf16x2 => true
  | _ => false

/-- FADD.F32 and FADD.BF16x2 (R293): RNE, no saturation. -/
def atomFloat (bf16 : Bool) (old x : W32) : W32 :=
  perElem (if bf16 then 2 else 0) fun f _ bits => faddE f (bits old) (bits x) .rne

/-- The new value of the target (R293); none when nothing is written. `a` is the operand or the compare value, `b` the new
operand of a CAS. -/
def atomApply (op : AtomOp) (old a b : W64) : Option W64 :=
  let o := old.setWidth 32
  let x := a.setWidth 32
  let word := fun (r : W32) => some (r.setWidth 64)
  match op with
  | .add => word (o + x)
  | .and => word (o &&& x)
  | .or => word (o ||| x)
  | .xor => word (o ^^^ x)
  | .minS => word (minSW o x)
  | .maxS => word (maxSW o x)
  | .minU => word (minUW o x)
  | .maxU => word (maxUW o x)
  | .exch32 => word x
  | .cas32 => if o = x then word (b.setWidth 32) else none
  | .add64 => some (old + a)
  | .exch64 => some a
  | .cas64 => if old = a then some b else none
  | .faddF32 => word (atomFloat false o x)
  | .faddBf16x2 => word (atomFloat true o x)

/-- The operands in thread `j`'s registers from `d` on (R293). -/
def atomOperands (op : AtomOp) (tr : Train) (j d : Nat) : W64 × W64 :=
  let pair := fun n => (tr.getV j (d + n + 1) ++ tr.getV j (d + n) : W64)
  match op with
  | .cas32 => ((tr.getV j d).setWidth 64, (tr.getV j (d + 1)).setWidth 64)
  | .cas64 => (pair 0, pair 2)
  | .add64 => (pair 0, 0)
  | .exch64 => (pair 0, 0)
  | _ => ((tr.getV j d).setWidth 64, 0)

/-- The registers that receive the old value (R293). -/
def atomResults (op : AtomOp) (j d : Nat) (old : W64) : List RegWrite :=
  if (atomSize op) = 8 then [.v j d (old.setWidth 32), .v j (d + 1) ((old >>> 32).setWidth 32)]
  else [.v j d (old.setWidth 32)]

/-- Whether a task is deterministic (R187, R215). -/
def Task.isDet (t : Task) : Bool := t.rcd.det || t.rcd.integ == 2

/-- A line with recorded atomics is flagged (R215). -/
def State.flagged (s : State) (pa : Nat) : Bool := s.defer.any fun d => d.loc.line == (Loc.glob pa).line

/-- Log what thread `j` of an outstanding instruction received; no word stands for poison. -/
def State.logFor (s : State) (w t o j : Nat) (glob atomic : Bool) (vals : List W64) : State :=
  match s.train? w t with
  | none => s
  | some tr =>
    match tr.outst? o with
    | none => s
    | some x => s.logValue w tr.trn j x.dix x.sub glob atomic vals

/-- One thread's part of an outstanding atomic has its result (R41): the old value is logged for a follower. -/
def State.atomResult (s : State) (w t o j d : Nat) (op : AtomOp) (glob : Bool) (old : W64) : State :=
  (s.logFor w t o j glob true [old]).updTrain w t fun tr => tr.updOutst o fun x =>
    { x with writes := x.writes ++ atomResults op j d old, done := x.done ||| (1#32 <<< j) }

/-- A reservation that no write uses returns to its pool (R164). -/
def State.giveBack (s : State) (off : Nat) (src : WriteSrc) : State :=
  match src, s.domainOf off with
  | .train (some core), some slot =>
    match s.doms.look slot with
    | some dm => s.setDom slot (dm.unreserve core)
    | none => s
  | _, _ => s

/-- An atomic at its home on this chip (R131, R128, R216): `src` says whose shadow entry a write may use. -/
def State.atomHome (s : State) (w t o j d : Nat) (a : W64) (pa : Nat) (op : AtomOp) (x y : W64) (det : Bool)
    (src : WriteSrc) : State :=
  let off := offOf pa
  let n := (atomSize op)
  if s.anyPoison off n then ((s.giveBack off src).logFor w t o j true true []).faultOutst w t o .poison a j
  else if atomIsFloat op && !det && s.flagged pa then (s.giveBack off src).faultOutst w t o .detConflict a j
  else
    let old := word64 (s.homeBytes off n)
    let s1 := match atomApply op old x y with
      | some v => s.writeHome (homeBytesAt off (toBytes v.toNat n)) src false
      | none => s.giveBack off src
    let s2 := match s1.wg? w with
      | some g => s1.l1Write g.lastCore (homeBytesAt pa (s1.homeBytes off n)) false
      | none => s1
    s2.atomResult w t o j d op true old

/-- An atomic in a core's array (R107). -/
def State.atomShare (s : State) (w t o j d : Nat) (a : W64) (owner off : Nat) (op : AtomOp) (x y : W64) : State :=
  let n := (atomSize op)
  if s.sharePoisonAt owner off then (s.logFor w t o j false true []).faultOutst w t o .poison a j
  else
    let old := word64 ((List.range n).map fun i => s.shareAt owner (off + i))
    let s1 := match atomApply op old x y with
      | some v => s.writeShare owner (homeBytesAt off (toBytes v.toNat n)) false
      | none => s
    s1.atomResult w t o j d op false old

/-- The home that keeps a recorded atomic (R215): a slice of this chip, or 32 for a core's array, which keeps none on chip. -/
def deferHome : Loc → Nat
  | .glob pa => homeSlice (offOf pa)
  | _ => 32

/-- Recorded atomics of a task that have gone to its deferral area (R215): each that its home took in behind 4,096 others. -/
def State.inArea (s : State) (slot : Nat) : Nat :=
  ((s.defer.zipIdx).filter fun e => e.1.chip == s.chipId && e.1.slot == slot && (deferHome e.1.loc == 32 ||
    decide (4096 ≤ ((s.defer.take e.2).filter fun d => deferHome d.loc == deferHome e.1.loc).length))).length

/-- Whether a record finds both its home and the task's deferral area full (R215). -/
def State.deferFull (s : State) (slot : Nat) (l : Loc) : Bool :=
  (deferHome l == 32 || decide (4096 ≤ (s.defer.filter fun d => deferHome d.loc == deferHome l).length)) &&
    decide (1048576 ≤ s.inArea slot)

/-- A deterministic task's floating-point atomic is recorded, and its step receives +0.0 (R215); a step that finds no room waits
at levels 2 and 3 as at an exhausted lehr, and else ends the task. An array's sums are recorded as a home's are; DEDUCED:
notes/assumptions/66.md. -/
def State.deferAtom (s : State) (c : Ctx) (tr : Train) (j : Nat) (op : AtomOp) (x a : W64) (l : Loc) (k : State → StepRes) : StepRes :=
  if s.deferFull c.g.slot l then
    if 2 ≤ c.task.rcd.integ then .wait s .lehr else .fault s .logOverflow a
  else
    k { s with defer := s.defer ++ [⟨s.chipId, c.g.slot, l, op == .faddBf16x2, x.setWidth 32, c.g.wgid, tr.trn, j, tr.fadds.val 0 j⟩] }

/-- Whether an atomic of thread `j` must wait before it goes to its target: for entries of its line that are still in the buffer
(R134), for writes of its core on their way to the same slice, which arrive before it, and for acknowledgements that come before its
answer (R15), and for an older load of the thread to its
bytes (R133). -/
def State.atomBehind (s : State) (core : Nat) (tr : Train) (o j : Nat) (locs : List Loc) : Bool :=
  let l := locs.getD 0 (.priv 0)
  let d := s.locDest core l
  (tr.sb.any fun e => e.inBuffer && e.bytes.any fun b => b.loc.line == l.line) ||
    (match l with
      | .glob pa => s.isLocal pa && (s.ackDue core (pa / 32) ||
          s.trains.any fun t => t.2.sb.any fun e => e.stage == .sent && e.core == core && e.dest == d)
      | _ => false) ||
    tr.outst.any fun q => decide (q.id < o) && q.loads.any fun x =>
      x.value.isNone && !x.fromLog && (x.j == j || q.exm == 0) && locs.any x.locs.contains

/-- One thread's atomic of outstanding instruction `o`: wait for what goes before it, revive, defer, reserve, perform or send
(R293, R294, R207, R215); `sl` is what its translation gave. DEDUCED: notes/assumptions/66.md. -/
def State.atomAt (s : State) (c : Ctx) (o j d : Nat) (op : AtomOp) (a x y : W64) (sl : StepLocs) : StepRes :=
  match s.train? c.w c.t with
  | none => .ok s
  | some tr =>
    match sl with
    | .fault cause e => .fault s cause e
    | .at locs =>
      let l := locs.getD 0 (.priv 0)
      let glob := l.isGlobal
      let pend := fun (s : State) => s.updTrain c.w c.t fun tr => (tr.updOutst o fun q =>
        { q with exm := q.exm ||| (1#32 <<< j), ops := q.ops ++ [BitVec.ofNat 64 j, a, x, y] }).noteUsed (s.locDest c.core l)
      let fromLog := fun (s : State) => s.updTrain c.w c.t fun tr => tr.updOutst o fun q =>
        { q with loads := q.loads ++ [⟨j, a, locs, true, none, false, s.clock, false, c.g.ctx, c.g.ctxgen⟩] }
      if s.atomBehind c.core tr o j locs || s.ustFull c.w c.t (s.locDest c.core l) || s.logFull c.g then .wait s .retry
      else if c.g.mode.takesLog glob true then
        match l with
        | .share owner off =>
          match s.fillLines (s.absentLines locs) with
          | .ok s1 =>
            let old := word64 ((List.range (atomSize op)).map fun i => s1.shareAt owner (off + i))
            if atomIsFloat op && c.task.isDet then .ok (fromLog (pend s1)) else .ok (fromLog (pend (match atomApply op old x y with
              | some v => s1.writeShare owner (homeBytesAt off (toBytes v.toNat (atomSize op))) false
              | none => s1)))
          | .error (.ask pa core) => .wait (s.askFor c.w c.t pa core) .retry
          | .error (.ends cause) => .fault s cause a
          | .error _ => .wait s .retry
        | _ => .ok (fromLog (pend s))
      else
        match l with
        | .share owner off =>
          match s.fillLines (s.absentLines locs) with
          | .ok s1 =>
            if atomIsFloat op && c.task.isDet then
              s1.deferAtom c tr j op x a l fun s => .ok ((pend s).atomResult c.w c.t o j d op false 0)
            else .ok ((pend s1).atomShare c.w c.t o j d a owner off op x y)
          | .error (.ask pa core) => .wait (s.askFor c.w c.t pa core) .retry
          | .error (.ends cause) => .fault s cause a
          | .error _ => .wait s .retry
        | .glob pa =>
          if s.pullLost pa then .ok ((pend s).faultOutst c.w c.t o .pullLost a j)
          else if s.pullPending pa then .wait (s.askPulls [pa]) .retry
          else if atomIsFloat op && c.task.isDet && s.isLocal pa then
            s.deferAtom c tr j op x a l fun s => .ok ((pend s).atomResult c.w c.t o j d op true 0)
          else
            let send := fun (s : State) (rsv : Bool) =>
              let (id, s1) := s.fresh
              let r : Resp := ⟨id, c.w, c.t, o, j, pa, op, x, y, c.task.rcd.integ != 3, rsv, none⟩
              State.updTrain { s1 with resp := s1.resp ++ [r] } c.w c.t fun tr => tr.updOutst o fun q =>
                { q with atoms := q.atoms ++ [id] }
            if s.isLocal pa then
              let go := fun (s : State) (rsv : Bool) =>
                if c.task.rcd.integ = 3 then send (pend s) rsv
                else ((pend s).l2Use pa c.task.rcd.tenant).atomHome c.w c.t o j d a pa op x y c.task.isDet
                  (if rsv then .train (some c.core) else .other)
              match s.needsEntry c.g.slot (offOf pa) with
              | some dm =>
                match dm.reserve c.core with
                | some dm' => .ok (go (s.setDom c.g.slot dm') true)
                | none => s.exhausted c.task dm (offOf pa) a
              | none => .ok (go s false)
            else if 1024 ≤ (s.resp.filter fun r => !s.isLocal r.pa).length then .wait s .retry
            else .ok (send (pend s) false)
        | .discarded _ =>
          if (atomApply op 0 x y).isNone then .ok ((pend s).atomResult c.w c.t o j d op true 0)
          else .wait (s.askRevival c.task.rcd.tenant (a.toNat % 2 ^ 48 / 4096)) .retry
        | _ => .fault s .space a

/-- Count a thread's floating-point atomic, and fold a global atomic's operands (R215, R217). -/
def State.atomCount (s : State) (c : Ctx) (op : AtomOp) (j : Nat) (a x y : W64) : State :=
  s.updTrain c.w c.t fun tr =>
    let tr1 := if atomIsFloat op then { tr with fadds := tr.fadds.store 0 j (tr.fadds.val 0 j + 1) } else tr
    match spaceOf a with
    | .glob va => tr1.foldAtomic j va (atomSize op) (if atomIsCas op then [x, y] else [x])
    | _ => tr1

/-- Where thread `j`'s ATOM lies, or its fault (R293, R239). -/
def State.atomLocate (c : Ctx) (op : AtomOp) (addr : Nat → W64) (s : State) (j : Nat) : StepLocs :=
  s.locate c j (atomSize op) (atomSize op) (addr j) .atomic false

/-- The step of ATOM for thread `j`. -/
def State.atomStep (c : Ctx) (part : IssuePart) (o d : Nat) (op : AtomOp) (addr : Nat → W64) (s : State) (j : Nat) : StepRes :=
  let (x, y) := atomOperands op c.tr j d
  match s.atomAt c o j d op (addr j) x y (part.of s (State.atomLocate c op addr) j) with
  | .ok s1 =>
    let s2 := match spaceOf (addr j) with
      | .glob _ => s1.note c.w c.t { c.key with pos := j } (.atom (addr j) op x y) none
      | _ => s1
    .ok (s2.atomCount c op j (addr j) x y)
  | r => r

/-- An outstanding instruction without any thread leaves. -/
def State.dropEmpty (s : State) (w t o : Nat) : State :=
  s.updTrain w t fun tr => { tr with outst := tr.outst.filter fun x => x.id != o || x.exm != 0 }

/-- ATOM (R293): release first, the steps, acquire at the end (R138). -/
def atom (i : Instr) (op : AtomOp) (d : BitVec 6) (x k : BitVec 5) (s : State) : Out :=
  issue i s fun c s => s.releaseFirst c fun s =>
    let addr := fun j => effAddr (c.k5 k) (c.tr.getV j x.toNat)
    s.afterWalks c (c.threads.map addr) fun s =>
    let (s, part) := s.beginPart c c.threads addr (State.atomLocate c op addr)
    let acq := c.acquireAfter
    let s := match acq with
      | some sc => s.noteDemoted c.w c.t c.task.rcd.tenant sc
      | none => s
    let o := match s.train? c.w c.t with
      | some tr => tr.nextId
      | none => 0
    let s0 := s.addOutst c 0 id
    let (s1, r) := eachThread (State.atomStep c part o d.toNat op addr) s0 c.threads
    let close := fun (s : State) => (s.updTrain c.w c.t fun tr => tr.updOutst o fun q => { q with window := 0 }).dropEmpty
      c.w c.t o
    match r with
    | some (j, .fault _ cause a) =>
      if cause = .logOverflow then s1.endBy c.g (c.fault cause a j false false 0) else (close s1).raiseStep c cause a j
    | some (j, .wait _ x) => ((close s1).noteDone c (c.active &&& belowMask j)).stallPart c x part
    | _ =>
      (match acq with
        | some sc => s1.updTrain c.w c.t fun tr => tr.updOutst o fun q =>
            { q with acq := some (s.runScope c.task.rcd.tenant sc) }
        | none => s1.dropEmpty c.w c.t o).retire c

/-- The old values of a faulted atomic's threads are asked for again (R42). -/
def State.atomAgain (s : State) (c : Ctx) (o d : Nat) (op : AtomOp) : List W64 → StepRes
  | j :: a :: x :: y :: rest =>
    if c.active.getLsbD j.toNat then
      match s.atomAt c o j.toNat d op a x y (State.atomLocate c op (fun _ => a) s j.toNat) with
      | .ok s' => State.atomAgain s' c o d op rest
      | .fault s' cause e => State.atomAgain (s'.faultOutst c.w c.t o cause e j.toNat) c o d op rest
      | r => r
    else State.atomAgain s c o d op rest
  | _ => .ok s

/-- ATOM.ADD (R293). -/
def execAtomAdd (d : BitVec 6) (x k : BitVec 5) (l : BitVec 4) (g : BitVec 3) (s : State) : Out :=
  atom (.atomAdd d x k l g) .add d x k s

/-- ATOM.AND (R293). -/
def execAtomAnd (d : BitVec 6) (x k : BitVec 5) (l : BitVec 4) (g : BitVec 3) (s : State) : Out :=
  atom (.atomAnd d x k l g) .and d x k s

/-- ATOM.OR (R293). -/
def execAtomOr (d : BitVec 6) (x k : BitVec 5) (l : BitVec 4) (g : BitVec 3) (s : State) : Out :=
  atom (.atomOr d x k l g) .or d x k s

/-- ATOM.XOR (R293). -/
def execAtomXor (d : BitVec 6) (x k : BitVec 5) (l : BitVec 4) (g : BitVec 3) (s : State) : Out :=
  atom (.atomXor d x k l g) .xor d x k s

/-- ATOM.MINS (R293). -/
def execAtomMinS (d : BitVec 6) (x k : BitVec 5) (l : BitVec 4) (g : BitVec 3) (s : State) : Out :=
  atom (.atomMinS d x k l g) .minS d x k s

/-- ATOM.MAXS (R293). -/
def execAtomMaxS (d : BitVec 6) (x k : BitVec 5) (l : BitVec 4) (g : BitVec 3) (s : State) : Out :=
  atom (.atomMaxS d x k l g) .maxS d x k s

/-- ATOM.MINU (R293). -/
def execAtomMinU (d : BitVec 6) (x k : BitVec 5) (l : BitVec 4) (g : BitVec 3) (s : State) : Out :=
  atom (.atomMinU d x k l g) .minU d x k s

/-- ATOM.MAXU (R293). -/
def execAtomMaxU (d : BitVec 6) (x k : BitVec 5) (l : BitVec 4) (g : BitVec 3) (s : State) : Out :=
  atom (.atomMaxU d x k l g) .maxU d x k s

/-- ATOM.EXCH32 (R293). -/
def execAtomExch32 (d : BitVec 6) (x k : BitVec 5) (l : BitVec 4) (g : BitVec 3) (s : State) : Out :=
  atom (.atomExch32 d x k l g) .exch32 d x k s

/-- ATOM.CAS32 (R293). -/
def execAtomCas32 (d : BitVec 6) (x k : BitVec 5) (l : BitVec 4) (g : BitVec 3) (s : State) : Out :=
  atom (.atomCas32 d x k l g) .cas32 d x k s

/-- ATOM.ADD64 (R293). -/
def execAtomAdd64 (d : BitVec 6) (x k : BitVec 5) (l : BitVec 4) (g : BitVec 3) (s : State) : Out :=
  atom (.atomAdd64 d x k l g) .add64 d x k s

/-- ATOM.EXCH64 (R293). -/
def execAtomExch64 (d : BitVec 6) (x k : BitVec 5) (l : BitVec 4) (g : BitVec 3) (s : State) : Out :=
  atom (.atomExch64 d x k l g) .exch64 d x k s

/-- ATOM.CAS64 (R293). -/
def execAtomCas64 (d : BitVec 6) (x k : BitVec 5) (l : BitVec 4) (g : BitVec 3) (s : State) : Out :=
  atom (.atomCas64 d x k l g) .cas64 d x k s

/-- ATOM.FADDF32 (R293). -/
def execAtomFaddF32 (d : BitVec 6) (x k : BitVec 5) (l : BitVec 4) (g : BitVec 3) (s : State) : Out :=
  atom (.atomFaddF32 d x k l g) .faddF32 d x k s

/-- ATOM.FADD.BF16x2 (R293). -/
def execAtomFaddBf16x2 (d : BitVec 6) (x k : BitVec 5) (l : BitVec 4) (g : BitVec 3) (s : State) : Out :=
  atom (.atomFaddBf16x2 d x k l g) .faddBf16x2 d x k s

/-- The operation of an ATOM word. -/
def atomOf : Instr → Option (AtomOp × BitVec 6)
  | .atomAdd d _ _ _ _ => some (.add, d)
  | .atomAnd d _ _ _ _ => some (.and, d)
  | .atomOr d _ _ _ _ => some (.or, d)
  | .atomXor d _ _ _ _ => some (.xor, d)
  | .atomMinS d _ _ _ _ => some (.minS, d)
  | .atomMaxS d _ _ _ _ => some (.maxS, d)
  | .atomMinU d _ _ _ _ => some (.minU, d)
  | .atomMaxU d _ _ _ _ => some (.maxU, d)
  | .atomExch32 d _ _ _ _ => some (.exch32, d)
  | .atomCas32 d _ _ _ _ => some (.cas32, d)
  | .atomAdd64 d _ _ _ _ => some (.add64, d)
  | .atomExch64 d _ _ _ _ => some (.exch64, d)
  | .atomCas64 d _ _ _ _ => some (.cas64, d)
  | .atomFaddF32 d _ _ _ _ => some (.faddF32, d)
  | .atomFaddBf16x2 d _ _ _ _ => some (.faddBf16x2, d)
  | _ => none

end Sys2Proof.Machine
end

