-- ==== Sys2Proof/Machine/Sums.lean ====
section
/-! DEFINITION. The floating-point atomics that deterministic tasks have had recorded (R215): they are applied in key order, or
dropped. -/

namespace Sys2Proof.Machine

/-- Whether a recorded atomic comes before another in key order (R215). -/
def Deferred.le (a b : Deferred) : Bool :=
  let ka := [a.wgid, a.trn, a.j, a.n]
  let kb := [b.wgid, b.trn, b.j, b.n]
  match (ka.zip kb).find? fun x => x.1 != x.2 with
  | some x => decide (x.1 ≤ x.2)
  | none => true

/-- Insert into a list in key order. -/
def insertDeferred (x : Deferred) : List Deferred → List Deferred
  | [] => [x]
  | y :: ys => if x.le y then x :: y :: ys else y :: insertDeferred x ys

/-- Apply one recorded atomic at its home, or in the array it was recorded for (R215): RNE, as the ATOM entry states. Its step
reserved no shadow entry: a copy that it causes takes one as any other write without a reservation does (R164; DEDUCED:
notes/assumptions/82.md). -/
def State.applySum (s : State) (d : Deferred) : State :=
  let sum := fun (bs : List Byte) => toBytes (atomFloat d.bf16 (BitVec.ofNat 32 (ofBytes bs)) d.operand).toNat 4
  match d.loc with
  | .glob pa => s.writeHome (homeBytesAt (offOf pa) (sum (s.homeBytes (offOf pa) 4))) .other false
  | .share w off => s.writeShare w (homeBytesAt off (sum ((List.range 4).map fun i => s.shareAt w (off + i)))) false
  | _ => s

/-- Drop the recorded atomics that a condition names. -/
def State.forgetSums (s : State) (p : Deferred → Bool) : State := { s with defer := s.defer.filter fun d => !p d }

/-- Apply the recorded atomics that a condition names, one at a time in ascending key order; their lines' flags clear (R215). -/
def State.applyWhere (s : State) (p : Deferred → Bool) : State :=
  (((s.defer.filter p).foldl (fun l d => insertDeferred d l) []).foldl State.applySum s).forgetSums p

/-- Those of the task in a chip's in-flight slot. -/
def Deferred.of (chip slot : Nat) (d : Deferred) : Bool := d.chip == chip && d.slot == slot

/-- Apply the recorded atomics of a task of this chip. -/
def State.applySums (s : State) (slot : Nat) : State := s.applyWhere (Deferred.of s.chipId slot)

/-- Drop the recorded atomics of the task in a chip's in-flight slot: a rollback (R215). -/
def State.dropSums (s : State) (chip slot : Nat) : State := s.forgetSums (Deferred.of chip slot)

/-- Those recorded for a workgroup's share are applied as it ends (R215). DEDUCED: notes/assumptions/66.md. -/
def State.applyShareSums (s : State) (w : Nat) : State := s.applyWhere fun d => match d.loc with
  | .share o _ => o == w
  | _ => false

end Sys2Proof.Machine
end

