-- ==== Sys2Proof/Machine/MemEvents.lean ====
section
/-! DEFINITION. How stores leave, are granted and acknowledged, and loads and atomics answered (R131, R133 to R136, R141,
R145, R146, R151, R206, R207), completion of long-latency instructions (R41), translation walks, revivals and pulls (R178,
R181, R182), trap entry (R241), split reloads (R30), requests of other chips (R17). -/

namespace Sys2Proof.Machine

/-- The bytes that a load delivers to registers (R352, R354). -/
def loadRegs (i : Instr) (j : Nat) (bs : List Byte) : List RegWrite :=
  let n := ofBytes bs
  let word := fun k => BitVec.ofNat 32 (bitsAt n (32 * k) 32)
  match i with
  | .ld d _ _ w _ _ =>
    (List.range (widthRegs w.toNat)).map fun k => .v j (d.toNat + k) (word k)
  | .ldS d _ _ w _ _ =>
    [.v j d.toNat (if w = 0 then (BitVec.ofNat 8 n).signExtend 32 else (BitVec.ofNat 16 n).signExtend 32)]
  | .ldk d _ _ w _ =>
    .k d.toNat (BitVec.ofNat 64 n) ::
      (if w.toNat = 4 then [.k (d.toNat + 1) (BitVec.ofNat 64 (bitsAt n 64 64))] else [])
  | .evpop d _ _ => (List.range 8).map fun k => .k (d.toNat + k) (BitVec.ofNat 64 (bitsAt n (64 * k) 64))
  | i =>
    match atomOf i with
    | some (op, d) => atomResults op j d.toNat (BitVec.ofNat 64 n)
    | none => []

/-- The offset of each byte of an entry at its home. -/
def SbByte.home (b : SbByte) : Option HomeByte :=
  match b.loc with
  | .glob pa => some ⟨offOf pa, b.mask, b.val⟩
  | .share _ off => some ⟨off, b.mask, b.val⟩
  | _ => none

/-- The owner of an entry's scratchpad bytes. -/
def SbEntry.owner? (e : SbEntry) : Option Nat :=
  match e.bytes with
  | b :: _ =>
    match b.loc with
    | .share w _ => some w
    | _ => none
  | [] => none

/-- Whether an entry writes a whole line (R117: such a write skips the fill). -/
def SbEntry.wholeLine (e : SbEntry) : Bool :=
  (List.range 128).all fun i => e.bytes.any fun b => b.mask == 0xFF#8 && match b.loc with
    | .share _ off => off % 128 == i
    | _ => false

/-- The box physical addresses of an entry's bytes. -/
def SbEntry.boxes (e : SbEntry) : List Nat := e.bytes.filterMap fun b => b.loc.box

/-- Whether a load of a train, older than an entry, still waits for bytes that the entry writes (R133). -/
def Train.olderLoad (tr : Train) (id : Nat) (bs : List SbByte) : Bool :=
  tr.outst.any fun o => decide (o.id < id) && o.loads.any fun l =>
    l.value.isNone && !l.fromLog && bs.any fun b => l.locs.contains b.loc

/-- Whether an entry may leave the buffer: it is the oldest towards its destination (R134). -/
def Train.mayLeave (tr : Train) (e : SbEntry) : Bool :=
  e.stage == .held && !(tr.sb.any fun x => x.inBuffer && x.dest == e.dest && decide (x.id < e.id)) &&
    !tr.olderLoad e.id e.bytes

/-- Change the entry with an id. -/
def Train.updEntry (tr : Train) (e : Nat) (f : SbEntry → SbEntry) : Train :=
  { tr with sb := tr.sb.map fun x => if x.id = e then f x else x }

/-- Remove the entry with an id. -/
def Train.dropEntry (tr : Train) (e : Nat) : Train := { tr with sb := tr.sb.filter fun x => x.id != e }

/-- The entry with an id. -/
def Train.entry? (tr : Train) (e : Nat) : Option SbEntry := tr.sb.find? fun x => x.id == e

/-- An entry goes on to a stage, as the next that does so anywhere (R15): its place in that order and the core it comes from. -/
def State.stageEntry (s : State) (w t e core : Nat) (x : Stage) : State :=
  let (n, s1) := s.fresh
  s1.updTrain w t fun tr => tr.updEntry e fun y => { y with stage := x, seq := n, core := core }

/-- Whether an entry of another stage-mate of its core towards its destination goes first (R15). -/
def State.entryBehind (s : State) (x : SbEntry) : Bool :=
  s.trains.any fun t => t.2.sb.any fun y =>
    y.stage == x.stage && y.core == x.core && y.dest == x.dest && decide (y.seq < x.seq)

/-- Whether an access must wait for pulls that it has asked for (R182). -/
def State.pullsRun (s : State) (pas : List Nat) : Bool := pas.any fun pa => s.pullPending pa && s.pulls.contains (pa / 128)

/-- Write an entry's bytes to a core's array, to private lines or to a descriptor (R111, R117, R131, R202). -/
def State.performOwn (s : State) (core : Nat) (e : SbEntry) : State :=
  match e.owner? with
  | some w => s.writeShare w (e.bytes.filterMap SbByte.home) false
  | none =>
    let priv := e.bytes.filterMap fun b => match b.loc with
      | .priv pa => some (⟨pa, b.mask, b.val⟩ : HomeByte)
      | _ => none
    e.bytes.foldl (fun s b => match b.loc with
      | .desc ctx off => s.writeDesc ctx off b.mask b.val
      | _ => s) (s.privWrite core priv)

/-- The lines that an entry must find filled (R117). -/
def State.entryLines (s : State) (x : SbEntry) : List (Nat × Nat × Nat × Nat) :=
  if x.wholeLine then [] else s.absentLines (x.bytes.map fun b => b.loc)

/-- Whether an entry of a train may leave now. -/
def State.canDrain (s : State) (w t e : Nat) : Bool :=
  match s.wg? w, s.train? w t with
  | some g, some tr =>
    g.live && match tr.entry? e with
      | some x => tr.mayLeave x && s.mayGo x.dest &&
          (x.owner?.isNone || x.wholeLine || s.fillGoes tr (x.bytes.map fun b => b.loc))
      | none => false
  | _, _ => false

/-- How a store's fault at its home or at a fill ends its task (R211, R238). -/
def SbEntry.endInfo (x : SbEntry) (cause : Cause) (wgid : Nat) : EndInfo := ⟨cause, x.src.pc, x.src.addr, x.src.j, wgid⟩

/-- An entry leaves the buffer (R134): to the core's own array and private lines it is performed, to a peer's array
performed and acknowledged later, to a home sent on its way; a write to a dead chip is lost (R151). -/
def State.drain (s : State) (w t e : Nat) : State :=
  match s.wg? w, s.train? w t with
  | some g, some tr =>
    match tr.entry? e with
    | none => s
    | some x =>
      match x.dest with
      | .slice _ => (s.askPulls x.boxes).stageEntry w t e g.lastCore .sent
      | .chip _ =>
        if s.destDead x.dest then s.updTrain w t fun tr => tr.dropEntry e
        else
          (s.guestUpdate (x.bytes.filterMap fun b => b.loc.box.map fun pa => (⟨pa, b.mask, b.val⟩ : HomeByte)) x.poison).stageEntry
            w t e g.lastCore .sent
      | _ =>
        match s.fillLines (s.entryLines x) with
        | .ok s1 =>
          let s2 := s1.performOwn g.lastCore x
          match x.dest with
          | .own => s2.updTrain w t fun tr => tr.dropEntry e
          | _ => s2.stageEntry w t e g.lastCore .granted
        | .error (.ask pa core) => s.askFor w t pa core
        | .error (.ends cause) => (s.updTrain w t fun tr => tr.dropEntry e).endTask g.slot (x.endInfo cause g.wgid)
        | .error _ => s
  | _, _ => s

/-- STORE_BUFFER_DRAIN (R134). -/
def execStoreBufferDrain (w t e : Nat) (s : State) : Out :=
  event true s fun s => if s.canDrain w t e then s.drain w t e else s

/-- Whether an entry may be granted at its home: it was sent, behind every earlier one of its core (R15, R141), and waits for no
pull (R182). -/
def State.canGrant (s : State) (w t e : Nat) : Bool :=
  match s.train? w t with
  | some tr =>
    match tr.entry? e with
    | some x =>
      x.stage == .sent && (match x.dest with
        | .slice _ => true
        | _ => false) && !s.entryBehind x && !s.pullsRun x.boxes
    | none => false
  | none => false

/-- A home grants a write (R121, R131, R160, R182, R183). -/
def State.grant (s : State) (w t e : Nat) : State :=
  match s.wg? w, s.train? w t with
  | some g, some tr =>
    match tr.entry? e with
    | none => s
    | some x =>
      if x.boxes.any s.pullLost then
        (s.updTrain w t fun tr => tr.dropEntry e).endTask g.slot (x.endInfo .pullLost g.wgid)
      else if x.boxes.any s.pullPending then s.askPulls x.boxes
      else
        let tenant := match s.taskOf? g with
          | some task => task.rcd.tenant
          | none => 0
        let s1 := ((x.boxes.map fun pa => pa / 128 * 128).eraseDups).foldl (fun (s : State) pa => s.l2Use pa tenant) s
        (s1.writeHome (x.bytes.filterMap SbByte.home) (.train x.rsv) x.poison).stageEntry w t e x.core .granted
  | _, _ => s

/-- HOME_WRITE_GRANT (R160). -/
def execHomeWriteGrant (w t e : Nat) (s : State) : Out :=
  event true s fun s => if s.clocked && s.canGrant w t e then s.grant w t e else s

/-- Whether an entry may be acknowledged: its core's earlier ones of its destination have been (R15). -/
def State.canAck (s : State) (w t e : Nat) : Bool :=
  match s.train? w t with
  | some tr =>
    match tr.entry? e with
    | some x => (x.stage == .granted || (x.stage == .sent && destIsChip x.dest && !s.destDead x.dest)) && !s.entryBehind x
    | none => false
  | none => false

/-- An acknowledgement returns (R145, R120): a present L1 sector of the core that the write left from takes its bytes. -/
def State.ack (s : State) (w t e : Nat) : State :=
  match s.train? w t with
  | some tr =>
    match tr.entry? e with
    | none => s
    | some x =>
      let bs := x.bytes.filterMap fun b => b.loc.box.map fun pa => (⟨pa, b.mask, b.val⟩ : HomeByte)
      ((s.l1Write x.core bs x.poison).takeAnswer x.dest).updTrain w t fun tr => tr.dropEntry e
  | none => s

/-- WRITE_ACK (R145). -/
def execWriteAck (w t e : Nat) (s : State) : Out :=
  event true s fun s => if s.canAck w t e then s.ack w t e else s

/-- Whether a marker may be acknowledged: every earlier write to its destination has been (R141). -/
def State.canAckMarker (s : State) (w t : Nat) (d : Dest) : Bool :=
  match s.train? w t with
  | some tr =>
    match tr.marker? d with
    | some m => !m.acked && !s.destDead d && !s.unfenced w t tr d 0 m.upto
    | none => false
  | none => false

/-- FENCE_MARKER_ACK (R141). -/
def execFenceMarkerAck (w t : Nat) (d : Dest) (s : State) : Out :=
  event true s fun s =>
    if s.canAckMarker w t d then
      (s.takeAnswer d).updTrain w t fun tr => { tr with markers := tr.markers.map fun m => if m.dest = d then { m with acked := true } else m }
    else s

/-! ### Loads -/

/-- A byte as seen before forwarding, and whether it is poisoned. -/
abbrev Seen := Byte × Bool

/-- Forward a load's byte from the train's older entries, oldest first (R134): those that are not acknowledged yet (R145). -/
def Train.forward (tr : Train) (o p : Nat) (l : Loc) (x : Seen) : Seen :=
  tr.sb.foldl (fun x e =>
    if decide (e.id < o) && e.forwardsTo p then
      e.bytes.foldl (fun (x : Seen) b =>
        if b.loc = l then (maskByte x.1 b.mask b.val, if b.mask = 0xFF then false else x.2) else x) x
    else x) x

/-- The sector of another chip's answer to an access whose first line is that of `first` (R146): of that line, or of the next. -/
def answerSector (d : RemoteData) (first pa : Nat) : Sector :=
  let i := pa % 128 / 32 + if pa / 128 = first / 128 then 0 else 4
  ⟨pa / 32, false, false, remoteBad d i, remoteSector d i⟩

/-- The global sector that answers an access of a core (R119 to R121, R146, R169): L1's, the home's on this chip, a guest line's that
serves the train, or what the other chip sends. A UC page's is never cached. -/
def State.globSector (s : State) (core : Nat) (gg : W32) (first : Nat) (d : RemoteData) (pa : Nat) : Sector :=
  let uc := (s.attrOf (pa / 4096)).policy == 1
  match if uc then none else (s.core core).sector? (pa / 32) with
  | some x => x
  | none =>
    if s.isLocal pa then s.homeSector pa
    else match if uc then none else s.guest? pa gg with
      | some g => ⟨pa / 32, false, false, g.poison.getLsbD (pa % 128 / 32), (g.data.drop (pa % 128 / 32 * 32)).take 32⟩
      | none => answerSector d first pa

/-- What memory answers for a byte (R120, R128, R131, R146, R181, R202). -/
def State.seen (s : State) (core : Nat) (gg : W32) (first : Nat) (d : RemoteData) (l : Loc) : Seen :=
  match l with
  | .share w off => (s.shareAt w off, s.sharePoisonAt w off)
  | .priv pa =>
    let x := s.sectorSeen core pa true
    (x.data.getD (pa % 32) 0, x.poison)
  | .discarded _ => (0, false)
  | .desc ctx off => (s.descByte ctx off, false)
  | .glob pa =>
    let x := s.globSector core gg first d pa
    (x.data.getD (pa % 32) 0, x.poison)

/-- What a load of a sector leaves behind (R119, R120, R123, R348): its line used or allocated in L2, and its sector, now used, in L1,
unless the page is UC or a hint forbids it. -/
def State.allocSector (s : State) (core tenant hint : Nat) (gg : W32) (first : Nat) (d : RemoteData) (sec : Nat) : State :=
  let pa := 32 * sec
  let uc := (s.attrOf (pa / 4096)).policy == 1
  let x := s.globSector core gg first d pa
  if uc then s
  else if ((s.core core).sector? sec).isSome then s.l1Fill core x
  else
    let s1 :=
      if s.isLocal pa then if hint = 2 then s.touchL2 (pa / 128) 0 else s.l2Use pa tenant
      else if (s.guest? pa gg).isSome then s.touchL2 (pa / 128) 0
      else
        let xs := (List.range 4).map fun i => answerSector d first (pa / 128 * 128 + 32 * i)
        s.guestFill pa tenant hint (xs.flatMap fun x => x.data) (BitVec.ofNat 4 (bitsOf (fun i => (xs.map fun x => x.poison).getD i false) 4))
    if hint = 0 then s1.l1Fill core x else s1

/-- Allocate what a load brings (R111, R120). -/
def State.allocate (s : State) (core tenant hint : Nat) (gg : W32) (first : Nat) (d : RemoteData) (locs : List Loc) : State :=
  let privs := (locs.filterMap fun l => match l with
    | .priv pa => some (pa / 32)
    | _ => none).eraseDups
  ((locs.filterMap Loc.box).map fun pa => pa / 32).eraseDups.foldl (fun (s : State) sec =>
      s.allocSector core tenant hint gg first d sec)
    (privs.foldl (fun (s : State) sec => s.l1Fill core (s.sectorSeen core (32 * sec) true)) s)

/-- Whether two accesses share a byte. -/
def Load.overlaps (a b : Load) : Bool := a.locs.any b.locs.contains

/-- Whether a load waits for an earlier load or atomic of its thread to the same bytes (R133). -/
def State.loadBehind (s : State) (w t : Nat) (tr : Train) (o : Nat) (l : Load) : Bool :=
  (tr.outst.any fun x => decide (x.id < o) && x.loads.any fun y => y.value.isNone && y.j == l.j && y.overlaps l) ||
    s.resp.any fun r => r.w == w && r.t == t && r.j == l.j && decide (r.o < o) && l.locs.any fun b => match b with
      | .glob pa => decide (r.pa ≤ pa) && decide (pa < r.pa + atomSize r.op)
      | _ => false

/-- Whether a load must read the home of a sector, and an answer to an earlier write of its core comes before it (R15, R145). -/
def State.readBehind (s : State) (core : Nat) (l : Load) : Bool :=
  l.locs.any fun b => match b with
    | .glob pa => s.ackDue core (pa / 32) &&
        ((s.attrOf (pa / 4096)).policy == 1 || ((s.core core).sector? (pa / 32)).isNone)
    | _ => false

/-- The access `i` of an outstanding instruction that has no value yet. -/
def Train.load? (tr : Train) (o i : Nat) : Option (Outst × Load) :=
  match tr.outst? o with
  | some x =>
    match x.loads[i]? with
    | some l => if l.value.isNone && !l.expired then some (x, l) else none
    | none => none
  | none => none

/-- Whether an outstanding request is only for sectors that a fetch or a fill waits for. -/
def Outst.isLine (x : Outst) : Bool :=
  match x.insn with
  | .nop _ => true
  | _ => false

/-- Whether an access may be answered: its context runs, under the generation that the request carries (R206). -/
def State.canReturn (s : State) (w t o i : Nat) : Bool :=
  match s.wg? w, s.train? w t with
  | some g, some tr =>
    match tr.load? o i with
    | some (x, l) =>
      g.live && l.ctx == g.ctx && l.gen == g.ctxgen &&
      (if l.fromLog then (s.takeLog w tr.trn l.j x.dix x.sub).isSome
       else (x.isLine || !s.logFull g) && !s.loadBehind w t tr o l && !s.readBehind g.lastCore l && !s.pullsRun (l.locs.filterMap Loc.box) && s.fillGoes tr l.locs)
    | none => false
  | _, _ => false

/-- An access has its value: its registers, its thread done; poison faults instead (R128, R41). -/
def Outst.answer (x : Outst) (i : Nat) (j : Nat) (bs : List Byte) (poison : Bool) (addr : W64) : Outst :=
  let ls := (x.loads.zipIdx.map fun e => if e.2 = i then { e.1 with value := some bs, poison := poison } else e.1)
  if poison then
    let r := x.ctFault .poison addr j
    { x with loads := ls, fault := match x.fault with
      | some f => if j < f.j then some r else some f
      | none => some r }
  else { x with loads := ls, writes := x.writes ++ loadRegs x.insn j bs, done := x.done ||| (1#32 <<< j) }

/-- Access `i` of an instruction ends without a value. -/
def Outst.closeLoad (x : Outst) (i : Nat) : Outst :=
  { x with loads := x.loads.zipIdx.map fun e => if e.2 = i then { e.1 with value := some [] } else e.1 }

/-- Sectors of another chip arrive for a core (R117, R120, R146): in the guest line, and for the fetch or the fill that asked. -/
def State.deliverLine (s : State) (core tenant : Nat) (gg : W32) (d : RemoteData) (locs : List Loc) : State :=
  let secs := ((locs.filterMap Loc.box).map fun pa => pa / 32).eraseDups
  let first := 32 * secs.headD 0
  let xs := (secs.filter fun sec => !s.isLocal (32 * sec)).map fun sec => s.globSector core gg first d (32 * sec)
  let s1 := secs.foldl (fun (s : State) sec => if s.isLocal (32 * sec) then s else s.allocSector core tenant 1 gg first d sec) s
  let c := s1.core core
  if xs.isEmpty then s1
  else s1.setCore core { c with inbox := (c.inbox.filter fun y => !xs.any fun x => x.sec == y.sec) ++ xs }

/-- An access is performed: its value is fixed (R131). R132 promises that the words of a wide access are each read whole, and no order
between them; here all its bytes are read at one time (DESIGN CHOICE: notes/assumptions/94.md). -/
def State.answerLoad (s : State) (w t o i : Nat) (d : RemoteData) : State :=
  match s.wg? w, s.train? w t with
  | some g, some tr =>
    match tr.load? o i with
    | none => s
    | some (x, l) =>
      let tenant := match s.taskOf? g with
        | some task => task.rcd.tenant
        | none => 0
      let pas := l.locs.filterMap Loc.box
      if l.fromLog then
        match s.takeLog w tr.trn l.j x.dix x.sub with
        | none => s
        | some (vals, s1) =>
          s1.updTrain w t fun tr => tr.updOutst o fun x =>
            if l.j = 32 then x.answerResult vals
            else x.answer i l.j (unpackBytes vals (if l.locs.length = 0 then 8 else l.locs.length)) vals.isEmpty l.addr
      else if pas.any fun pa => s.pullLost pa || (!s.isLocal pa && s.destDead (.chip (chipOf pa))) then
        (if x.isLine then s else s.faultOutst w t o .pullLost l.addr l.j).updTrain w t fun tr => tr.updOutst o fun x => x.closeLoad i
      else if pas.any s.pullPending then s.askPulls pas
      else if x.isLine then
        (s.deliverLine (x.ops.headD 0).toNat tenant tr.gg d l.locs).updTrain w t fun tr => tr.updOutst o fun x => x.closeLoad i
      else
        match s.fillLines (s.absentLines l.locs) with
        | .error (.ask pa core) => s.askFor w t pa core
        | .error (.ends cause) =>
          (s.faultOutst w t o cause l.addr l.j).updTrain w t fun tr => tr.updOutst o fun x => x.closeLoad i
        | .error _ => s
        | .ok s1 =>
          let core := g.lastCore
          let first := pas.headD 0
          let seen := if l.locs.isEmpty then d.bytes.zipIdx.map fun b => (b.1, remoteBad d (b.2 / 32)) else l.locs.map fun b => tr.forward o x.split b (s1.seen core tr.gg first d b)
          let bs := seen.map fun y => y.1
          let bad := seen.any fun y => y.2
          let s2 := s1.allocate core tenant (allocOf x.pfx) tr.gg first d l.locs
          let s3 := if l.j = 32 then
              s2.logResult w tr.trn x (if bad then [1, BitVec.ofNat 64 Cause.poison.code, l.addr] else 0 :: packBytes 8 bs)
            else s2.logFor w t o l.j ((l.locs.getD 0 (.priv 0)).isGlobal) false (if bad then [] else packBytes 8 bs)
          s3.updTrain w t fun tr => tr.updOutst o fun x => x.answer i (if l.j = 32 then 0 else l.j) bs bad l.addr
  | _, _ => s

/-- LOAD_RETURN (R131): `d` is what another chip sent, for a line homed there. -/
def execLoadReturn (w t o i : Nat) (d : RemoteData) (s : State) : Out :=
  event true s fun s => if s.canReturn w t o i then s.answerLoad w t o i d else s

/-- REQUEST_RETURN_EXPIRY (R206, R248): a request of a context that is not resident any more, or of an earlier generation of it, is
dropped; its replay packet repeats the load on resumption. -/
def execRequestReturnExpiry (w t o i : Nat) (s : State) : Out :=
  event true s fun s =>
    match s.wg? w, s.train? w t with
    | some g, some tr =>
      match tr.load? o i with
      | some (_, l) =>
        if !g.live || l.gen != g.ctxgen then
          State.updTrain { s with clock := max s.clock (l.since + 65536) } w t fun tr => tr.updOutst o fun x =>
            { x with loads := x.loads.zipIdx.map fun e => if e.2 = i then { e.1 with expired := true } else e.1 }
        else s
      | none => s
    | _, _ => s

/-! ### Remote atomics -/

/-- The address that thread `j` of an outstanding atomic names. -/
def Outst.addrOf (x : Outst) (j : Nat) : W64 :=
  ((x.ops.zipIdx.find? fun e => e.2 % 4 == 0 && e.1.toNat == j).bind fun e => x.ops[e.2 + 1]?).getD 0

/-- What a remote atomic's answer does to the core's L1 (R120, R146): a present sector takes the value that the home returns, the new
one where it wrote, else the old. -/
def State.atomicReturned (s : State) (core : Nat) (r : Resp) (old : W64) : State :=
  let bs := fun (v : W64) => homeBytesAt r.pa (toBytes v.toNat (atomSize r.op))
  match atomApply r.op old r.a r.b with
  | some v => (s.l1Write core (bs v) false).guestUpdate (bs v) false
  | none => s.l1Write core (bs old) false

/-- A remote atomic is answered: the entry is freed and the issuing instruction has its value (R207, R215, R216). -/
def State.respond (s : State) (idx : Nat) (answer : AtomAnswer) : State :=
  match s.resp[idx]? with
  | none => s
  | some r =>
    let s0 := { s with resp := s.resp.eraseIdx idx }
    match s.wg? r.w, s.train? r.w r.t with
    | some g, some tr =>
      match tr.outst? r.o with
      | none => s0
      | some x =>
        let s1 := s0.updTrain r.w r.t fun tr => tr.updOutst r.o fun x => { x with atoms := x.atoms.filter fun a => a != r.id }
        let addr := x.addrOf r.j
        let (op, d) := (atomOf x.insn).getD (r.op, 0)
        let det := match s.taskOf? g with
          | some task => task.isDet && atomIsFloat op
          | none => false
        if s.destDead (.chip (chipOf r.pa)) then s1.endTask g.slot ⟨.pullLost, x.pc, addr, r.j, g.wgid⟩
        else
          match answer.fail with
          | some .poison => (s1.logFor r.w r.t r.o r.j true true []).faultOutst r.w r.t r.o .poison addr r.j
          | some .conflict => s1.faultOutst r.w r.t r.o .detConflict addr r.j
          | none =>
            if det then s1.atomResult r.w r.t r.o r.j d.toNat op true 0
            else (s1.atomicReturned g.lastCore r answer.old).atomResult r.w r.t r.o r.j d.toNat op true answer.old
    | _, _ => s0

/-- Whether a response may come: the request has left, and what its core sent to that sector earlier has been answered (R15). -/
def State.canRespond (s : State) (idx : Nat) : Bool :=
  match s.resp[idx]? with
  | some r => r.ready && r.answer.isNone && !s.isLocal r.pa && match s.wg? r.w with
      | some g => !s.ackDue g.lastCore (r.pa / 32) && !(s.resp.take idx).any fun q => q.pa / 32 == r.pa / 32 &&
          match s.wg? q.w with
          | some h => h.lastCore == g.lastCore
          | none => false
      | none => true
  | none => false

/-- The response's flit is taken (R255). -/
def State.takeResponse (s : State) (idx : Nat) : State :=
  match s.resp[idx]? with
  | some r => s.takeFlit (chipOf r.pa) 1
  | none => s

/-- A response comes (R207): to a context that runs, or that is gone, at once; for one that was pre-empted the entry keeps it. -/
def State.takeRespond (s : State) (idx : Nat) (answer : AtomAnswer) : State :=
  match s.resp[idx]? with
  | none => s
  | some r =>
    match s.wg? r.w with
    | some g =>
      if g.live || g.place == .ended then s.respond idx answer
      else { s with resp := s.resp.set idx { r with answer := some answer } }
    | none => s.respond idx answer

/-- ATOMIC_RESPONSE (R207): `old` and `fail` come from the home chip. -/
def execAtomicResponse (idx : Nat) (old : W64) (fail : Option AtomFail) (s : State) : Out :=
  event true s fun s => if s.canRespond idx then (s.takeResponse idx).takeRespond idx ⟨old, fail⟩ else s

/-- The responses that came while a workgroup was away are taken as it resumes (R207). -/
def State.keptResponses (s : State) (w : Nat) : Nat → State
  | 0 => s
  | n + 1 =>
    match s.resp.findIdx? fun r => r.w == w && r.answer.isSome with
    | some i => match s.resp[i]?.bind Resp.answer with
      | some a => (s.respond i a).keptResponses w n
      | none => s
    | none => s

/-! ### Completion, traps, splits -/

/-- Whether its split or a trap waits for an outstanding instruction, or its window is over (R41, R265): what another split waits
for keeps its own window (R327). -/
def Train.wanted (tr : Train) (o : Outst) : Bool :=
  o.window == 0 || tr.pend.isSome || tr.splits.any fun q => q.id == o.split && match q.wait with
    | .outst ids => ids.contains o.id
    | _ => false

/-- Whether an outstanding instruction may complete. -/
def State.canComplete (s : State) (w t o : Nat) : Bool :=
  match s.wg? w, s.train? w t with
  | some g, some tr =>
    g.live && match tr.outst? o with
      | some x => !x.kept && x.finished && !x.faulted && tr.wanted x
      | none => false
  | _, _ => false

/-- A long-latency instruction completes (R41); an acquire follows its last step (R138). -/
def State.completeOutst (s : State) (w t o : Nat) : State :=
  match s.train? w t with
  | none => s
  | some tr =>
    match tr.outst? o with
    | none => s
    | some x =>
      (s.setTrain w t (tr.complete x)).joined w t x

/-- TRAP_ENTRY (R241), while its workgroup runs (R205). -/
def execTrapEntry (w t : Nat) (s : State) : Out :=
  event true s fun s => if (s.wg? w).any Wg.runs then s.takeTrap w t else s

/-- Splits in the table (R24). -/
def Train.inTable (tr : Train) : List Split := tr.splits.filter fun q => q.spilled.isNone

/-- The spilled split that has waited longest (R30). -/
def Train.earliestSpilled (tr : Train) : Option Split :=
  (tr.splits.filter fun q => q.spilled.isSome).foldl (fun b q => match b with
    | none => some q
    | some r => if q.spilled.getD 0 < r.spilled.getD 0 then some q else some r) none

/-- The table entry that issued least recently, other than `p` (R30). Of several that issued equally long ago the rule names none; here the
first of the list goes (DESIGN CHOICE: notes/assumptions/93.md). -/
def Train.leastRecent (tr : Train) (p : Option Nat) : Option Split :=
  (tr.inTable.filter fun q => some q.id != p).foldl (fun b q => match b with
    | none => some q
    | some r => if q.last < r.last then some q else some r) none

/-- Spill a split (R30). -/
def Train.spill (tr : Train) (p : Nat) : Train := tr.updSplit p fun q => { q with spilled := some tr.issues }

/-- Spilled splits reload (R30, R33): into a free entry, or in place of the least recent one after 256 issues. -/
def Train.reload (tr : Train) : Train :=
  match tr.earliestSpilled with
  | none => tr
  | some q =>
    let back := fun (tr : Train) => tr.updSplit q.id fun q => { q with spilled := none }
    if tr.inTable.length < Config.splitTable then back tr
    else if q.spilled.getD 0 + 256 ≤ tr.issues then
      match tr.leastRecent none with
      | some r => back (tr.spill r.id)
      | none => tr
    else tr

/-- The bytes of a spilled entry (R31). -/
def Split.bytes (q : Split) : List Byte :=
  toBytes q.pc.toNat 8 ++ toBytes q.rpc.toNat 8 ++ toBytes q.member.toNat 4 ++ toBytes q.exm.toNat 4 ++ toBytes q.dix.toNat 4 ++
    toBytes (if q.parked then 1 else 0) 4

/-- A split as the bytes of its entry give it (R31); none if a reserved bit is set. -/
def Split.ofBytes? (q : Split) (bs : List Byte) : Option Split :=
  let n := ofBytes bs
  let member : Mask := BitVec.ofNat 32 (bitsAt n 128 32)
  if bitsAt n 225 31 ≠ 0 then none
  else some { q with
    pc := BitVec.ofNat 64 (bitsAt n 0 64), rpc := BitVec.ofNat 64 (bitsAt n 64 64), member := member
    exm := BitVec.ofNat 32 (bitsAt n 160 32) &&& member, dix := BitVec.ofNat 32 (bitsAt n 192 32), parked := n.testBit 224 }

/-- Where entry `r` of a train's spill area lies for a limit of its private window (R31). -/
def spillAt (tr : Train) (limit r : Nat) : Nat := tr.pb + 128 * limit + 32 * r

/-- The entries of the spill area that splits of a train hold. -/
def Train.rowsUsed (tr : Train) : List Nat := (tr.splits.filter fun q => q.spilled.isSome).map Split.row

/-- The lowest entry of the spill area that no split but `p` holds. -/
def Train.freeRow (tr : Train) (p : Nat) : Nat :=
  ((List.range 24).find? fun r => !(tr.splits.any fun q => q.spilled.isSome && q.id != p && q.row == r)).getD 0

/-- A spilled split is written to its entry of the spill area, one 32-byte private write through L1 (R30, R31). -/
def State.spillEntry (w t core : Nat) (s : State) (p : Nat) : State :=
  match s.train? w t with
  | none => s
  | some tr =>
    match tr.split? p with
    | none => s
    | some q =>
      let r := tr.freeRow p
      (s.privWrite core (homeBytesAt (spillAt tr tr.privb.toNat r) q.bytes)).updTrain w t fun tr =>
        tr.updSplit p fun q => { q with row := r }

/-- A spilled split's entry is read back, one 32-byte private read through L1 (R30, R31); a reserved bit in it ends the task with
RECORD, and so does poison. DEDUCED: notes/assumptions/71.md. -/
def State.readEntry (w t core : Nat) (s : State) (p : Nat) : State :=
  match s.wg? w, s.train? w t with
  | some g, some tr =>
    match tr.split? p with
    | none => s
    | some q =>
      let x := s.sectorSeen core (spillAt tr tr.privb.toNat q.row) true
      match if x.poison then none else q.ofBytes? x.data with
      | some q' => (s.l1Fill core x).updTrain w t fun tr => tr.updSplit p fun _ => q'
      | none => s.endTask g.slot ⟨.record, q.pc, BitVec.ofNat 64 (x.sec * 32), 0, g.wgid⟩
  | _, _ => s

/-- The split table of a train changes (R30): splits that come back are read, then those that leave it are written. -/
def State.updTable (s : State) (w t : Nat) (f : Train → Train) : State :=
  match s.wg? w, s.train? w t with
  | some g, some tr =>
    let tr1 := f tr
    let was := fun (p : Nat) => (tr.split? p).any fun q => q.spilled.isSome
    let back := (tr1.splits.filter fun q => q.spilled.isNone && was q.id).map Split.id
    let out := (tr1.splits.filter fun q => q.spilled.isSome && !was q.id).map Split.id
    out.foldl (State.spillEntry w t g.lastCore) (back.foldl (State.readEntry w t g.lastCore) (s.setTrain w t tr1))
  | _, _ => s

/-- The lowest RPC of parked splits (R26). -/
def lowestRpc : List Split → Nat
  | [] => 0
  | [q] => q.rpc.toNat
  | q :: qs => min q.rpc.toNat (lowestRpc qs)

/-- The spilled splits that merge leave the spill area: those parked at the lowest RPC (R26, R31). -/
def Train.unspillLowest (tr : Train) : Train :=
  { tr with splits := tr.splits.map fun q => if q.rpc.toNat = lowestRpc tr.splits then { q with spilled := none } else q }

/-- When every split of a train is parked, the spilled ones are read before they merge (R26, R31). -/
def State.readParked (s : State) (w t : Nat) : State :=
  match s.wg? w, s.train? w t with
  | some g, some tr =>
    if tr.splits.all Split.parked then
      (((tr.splits.filter fun q => q.spilled.isSome).map Split.id).foldl (State.readEntry w t g.lastCore) s).updTrain w t
        Train.unspillLowest
    else s
  | _, _ => s

/-- SPLIT_RELOAD (R30). -/
def execSplitReload (w t : Nat) (s : State) : Out :=
  event true s fun s => if (s.wg? w).any Wg.live then s.updTable w t Train.reload else s

/-! ### Pages -/

/-- The address fields of a load, a store or an atomic, and whether it accesses by thread (R352, R383, R293). -/
def accessFields (i : Instr) : Option (BitVec 5 × BitVec 5 × Bool) :=
  match i with
  | .ld _ x k _ _ _ => some (x, k, true)
  | .ldS _ x k _ _ _ => some (x, k, true)
  | .st _ x k _ _ _ => some (x, k, true)
  | .ldk _ x k _ _ => some (x, k, false)
  | .stk _ x k _ _ => some (x, k, false)
  | .atomAdd _ x k _ _ => some (x, k, true)
  | .atomAnd _ x k _ _ => some (x, k, true)
  | .atomOr _ x k _ _ => some (x, k, true)
  | .atomXor _ x k _ _ => some (x, k, true)
  | .atomMinS _ x k _ _ => some (x, k, true)
  | .atomMaxS _ x k _ _ => some (x, k, true)
  | .atomMinU _ x k _ _ => some (x, k, true)
  | .atomMaxU _ x k _ _ => some (x, k, true)
  | .atomExch32 _ x k _ _ => some (x, k, true)
  | .atomCas32 _ x k _ _ => some (x, k, true)
  | .atomAdd64 _ x k _ _ => some (x, k, true)
  | .atomExch64 _ x k _ _ => some (x, k, true)
  | .atomCas64 _ x k _ _ => some (x, k, true)
  | .atomFaddF32 _ x k _ _ => some (x, k, true)
  | .atomFaddBf16x2 _ x k _ _ => some (x, k, true)
  | _ => none

/-- The global addresses that a candidate split's next instruction requires (R129): its own, and those of its access. -/
def State.nextVas (s : State) (core : Nat) (task : Task) (tr : Train) (q : Split) : List Nat :=
  q.pc.toNat :: match s.fetchAt core task tr.hmode q.pc.toNat with
    | .word x =>
      match (Sys2Proof.decode x).bind fun i => (accessFields i).map fun f => (i, f) with
      | some (i, off, base, each) =>
        let guard := ((guardOf i).map fun g => tr.getP g.toNat).getD (BitVec.allOnes 32)
        let as := if each then (maskThreads (q.exm &&& ~~~q.done &&& guard)).map fun j =>
            effAddr (tr.getK base.toNat) (tr.getV j off.toNat)
          else [effAddr (tr.getK base.toNat) ((tr.getK off.toNat).setWidth 32)]
        as.filterMap fun a => match spaceOf a with
          | .glob va => some va
          | _ => none
      | none => []
    | _ => []

/-- The same of every candidate split of the trains of workgroup `w` on a core. -/
def State.wgVas (s : State) (w core : Nat) (task : Task) : List Nat :=
  (s.trainsOf w).flatMap fun e => (e.2.splits.filter fun q => q.spilled.isNone && !q.parked && q.wait == .ready).flatMap fun q =>
    s.nextVas core task e.2 q

/-- TRANSLATION_WALK (R178): a core's translation cache learns a page that a candidate's next instruction on it requires (R129), by a
walk that needs no pull first (R182). -/
def execTranslationWalk (core tenant vpage : Nat) (s : State) : Out :=
  event (decide (core ≤ 63) && decide (tenant ≤ 15)) s fun s => if !s.clocked then s else
    match (List.range s.wgs.length).findSome? fun w => (s.wg? w).bind fun g => (s.taskOf? g).bind fun t =>
      if g.core? = some core ∧ t.rcd.tenant = tenant ∧ (s.wgVas w core t).any (fun va => va / 4096 == vpage) then some t else none with
    | some t =>
      match s.walkPull core tenant (vpage * 4096) with
      | some pa => s.askPulls [pa]
      | none => s.tcFill core t (vpage * 4096)
    | none => s

/-- The table entry a walk for a tenant ends at: its chip offset, level and value (R170, R178). -/
def State.walkEntry (s : State) (tenant va : Nat) : Nat → Nat → Option (Nat × Nat × W64)
  | 0, _ => none
  | lv + 1, table =>
    let (e, poisoned) := s.entryAt tenant va lv table
    if !leafV e || entryMalformed s.chipId lv e poisoned then none
    else if leafLeaf e then some (entryOff table va lv, lv, e)
    else s.walkEntry tenant va lv (leafFrame e)

/-- The leaf of a tenant's page with its place. -/
def State.leafEntry (s : State) (tenant va : Nat) : Option (Nat × Nat × W64) :=
  let r := s.troot.val 0 tenant
  if r.getLsbD 0 then s.walkEntry tenant va 4 (bitsAt r.toNat 12 32) else none

/-- Every byte of a range of chip offsets reads zero, with fresh check values, no poison and SNAPTAG 0 (R181). -/
def State.zeroRange (s : State) (off n : Nat) : State :=
  { s with
    mem := s.mem.filter fun c => !(decide (off ≤ c.1) && decide (c.1 < off + n))
    lineInfo := s.lineInfo.filter fun c => !(decide (off / 128 ≤ c.1) && decide (c.1 < (off + n) / 128)) }

/-- Write a table entry at its home: one aligned 8-byte write (R180, R181). -/
def State.writeEntry (s : State) (off : Nat) (e : W64) : State :=
  s.writeHome (homeBytesAt off (toBytes e.toNat 8)) .other false

/-- The frames of a page that is revived hold their data (R181, R182): a pull into one of them has nothing left to bring. -/
def State.endPulls (s : State) (frame n : Nat) : State :=
  let mine := fun (f : Nat) => decide (frame ≤ f) && decide (f < frame + n)
  { s with
    attrs := s.attrs.map fun e => if mine e.1 && e.2.pull then (e.1, { e.2 with pull := false, pulled := BitVec.allOnes 32 }) else e
    pulls := s.pulls.filter fun l => !mine (l / 32) }

/-- A leaf's DISC is cleared in every translation cache that holds it (R181). -/
def State.reviveCached (s : State) (tenant vpage : Nat) : State :=
  { s with cores := Cells.mapVals (fun c => { c with
      tc := c.tc.map fun x => if x.tenant = tenant ∧ pageCovers x.page x.level (vpage * 4096)
        then { x with leaf := reviveLeaf x.leaf } else x }) s.cores }

/-- Revive a discarded page (R181): zero every frame of its leaf, clear DISC there and in every translation cache. A large page is
revived whole; DEDUCED: notes/assumptions/81.md. -/
def State.revive (s : State) (tenant vpage : Nat) : State :=
  let s0 := { s with revivals := s.revivals.filter fun r => r != (tenant, vpage) }
  match s.leafEntry tenant (vpage * 4096) with
  | some (off, lv, e) =>
    if leafDisc e then
      let pa := leafFrame e * 4096
      let s1 := if s.isLocal pa then (s0.zeroRange (offOf pa) (4096 * 512 ^ lv)).endPulls (pa / 4096) (512 ^ lv) else s0
      (s1.writeEntry off (reviveLeaf e)).reviveCached tenant vpage
    else s0.reviveCached tenant vpage
  | none => s0

/-- PAGE_REVIVAL (R181): once the tables that its walk reads are pulled (R182). -/
def execPageRevival (tenant vpage : Nat) (s : State) : Out :=
  event (decide (tenant ≤ 15)) s fun s =>
    let r := s.troot.val 0 tenant
    if s.clocked && s.revivals.contains (tenant, vpage) then
      match if r.getLsbD 0 then s.pullOnWalk tenant (vpage * 4096) 4 (bitsAt r.toNat 12 32) else none with
      | some pa => s.askPulls [pa]
      | none => s.revive tenant vpage
    else s

/-- Put a line's bytes and poison at its home without a copy: a fill (R182). -/
def State.fillHome (s : State) (off : Nat) (bs : List Byte) (poison : BitVec 4) : State :=
  let s1 := { s with mem := Memory.writeN s.mem off bs }
  (List.range 4).foldl (fun (s : State) i => s.remakeSector (off / 32 + i) (poison.getLsbD i)) s1

/-- LINE_PULL (R182): a line that an access waits for comes from its source frame, of this chip, or of another, which sends `d`. -/
def execLinePull (frame line : Nat) (d : List Byte) (tags : SectorTags) (s : State) : Out :=
  event (decide (line ≤ 31) && d.length == 128) s fun s =>
    let a := s.attrOf frame
    if s.clocked && s.pulls.contains (32 * frame + line) && a.pull && !a.lost && !a.pulled.getLsbD line && s.isLocal (frame * 4096) then
      let src := offOf (a.srcframe * 4096) + 128 * line
      let (bs, p) := if s.isLocal (a.srcframe * 4096) then (s.homeBytes src 128, s.linePoison src)
        else (d, BitVec.ofNat 4 (bitsOf (remoteBad ⟨d, tags.poison, tags.chk⟩) 4))
      let s1 := s.fillHome (offOf (frame * 4096) + 128 * line) bs p
      let pulled := a.pulled ||| (1#32 <<< line)
      State.setAttr { s1 with pulls := s1.pulls.filter fun l => l != 32 * frame + line } frame
        { a with pulled := pulled, pull := pulled != BitVec.allOnes 32 }
    else s

/-! ### Requests of other chips -/

/-- The bytes of another chip's store at a chip offset of this one. -/
def remoteBytes (pa : Nat) (mask data : List Byte) : List HomeByte :=
  ((List.range data.length).map fun i => (⟨pa + i, mask.getD i 0, data.getD i 0⟩ : HomeByte)).filter fun b => b.mask != 0

/-- The image of a sector that a partial write carries: what it does not write is zero (R126). -/
def sectorImage (bs : List HomeByte) (sec : Nat) : List Byte := overSector bs sec (List.replicate 32 0)

/-- Another chip's store is performed at its home (R17, R124, R126, R128): each sector's image is verified against the check value
that came with it. -/
def State.remoteStore (s : State) (bs : List HomeByte) (chk : List (BitVec 14)) (poison : Bool) : State :=
  ((sectorsOf bs).zipIdx).foldl (fun (s : State) e =>
    let bad := match chk[e.2]? with
      | some c => c != checkValue (sectorImage bs e.1)
      | none => false
    s.writeHome (bs.filter fun b => b.off / 32 == e.1) .other (poison || bad)) s

/-- The chip offsets that a request of another chip accesses. -/
def remoteOffs : RemoteReq → List Nat
  | .load pa n => (List.range n).map fun i => pa + i
  | .store pa _ data _ _ => (List.range data.length).map fun i => pa + i
  | .atomic pa op _ _ => (List.range (atomSize op)).map fun i => pa + i
  | .defer pa _ _ _ => (List.range 4).map fun i => pa + i
  | .settle _ _ => []
  | .marker => []

/-- A request of another chip is performed at its home (R17, R128, R183, R215, R216); on a line that is lost with its pull source it
has no effect but its answer. -/
def State.serveRemote (s : State) (chip : Nat) (r : RemoteReq) : State :=
  let lost := (remoteOffs r).any fun a => s.pullLost (s.boxPa a)
  match r with
  | .store pa mask data chk poison => if lost then s else s.remoteStore (remoteBytes pa mask data) chk poison
  | .atomic pa op x y =>
    let n := atomSize op
    if lost || s.anyPoison pa n || (atomIsFloat op && s.flagged (s.boxPa pa)) then s
    else
      match atomApply op (word64 (s.homeBytes pa n)) x y with
      | some v => s.writeHome (homeBytesAt pa (toBytes v.toNat n)) .other false
      | none => s
  | .defer pa bf16 x k =>
    if lost then s else { s with defer := s.defer ++ [⟨chip, k.slot, .glob (s.boxPa pa), bf16, x, k.wgid, k.trn, k.j, k.n⟩] }
  | .settle slot ok => if ok then s.applyWhere (Deferred.of chip slot) else s.dropSums chip slot
  | .load _ _ => s
  | .marker => s

/-- REMOTE_REQUEST (R17): a load, a store or an atomic of another chip at a home of this one, or a marker behind them; it waits while
this chip's homes stand still (R258), and while a line of it waits for its pull (R182). DEDUCED: notes/assumptions/67.md. -/
def execRemoteRequest (chip : Nat) (r : RemoteReq) (s : State) : Out :=
  event (decide (chip ≤ 3)) s fun s =>
    let pas := (remoteOffs r).map s.boxPa
    if !s.clocked then s
    else if pas.any s.pullPending then s.askPulls pas
    else (s.takeFlit chip 0).serveRemote chip r

end Sys2Proof.Machine
end

