-- ==== Sys2Proof/Machine/Control.lean ====
section
/-! DEFINITION. Control transfers: BRA, BRD, CALL, CALLI, RET, JOIN, MASK (R22 to R30, R37, R38, R304, R305, R309, R310,
R351, R359, R372), and the prefixes (R266 to R268, R348 to R350). -/

namespace Sys2Proof.Machine

/-! ### Splits that come and go -/

/-- Spilled splits come back while the table has room (R30). -/
def Train.fillTable (tr : Train) : Nat → Train
  | 0 => tr
  | n + 1 =>
    match tr.earliestSpilled with
    | none => tr
    | some q =>
      if tr.inTable.length < Config.splitTable then
        Train.fillTable (tr.updSplit q.id fun q => { q with spilled := none }) n
      else tr

/-- Make room for a new entry: the least recent one other than `p` is spilled (R30). -/
def Train.makeRoom (tr : Train) (p : Nat) : Train :=
  if tr.inTable.length < Config.splitTable then tr
  else
    match tr.leastRecent (some p) with
    | some r => tr.spill r.id
    | none => tr

/-- A new split beside split `q`, which has just issued (R24, R38): its loads read what `q` has buffered (R134). -/
def Train.newSplit (tr : Train) (q : Split) (pc : W64) (m : Mask) (exm : Mask) : Train :=
  let tr1 := tr.makeRoom q.id
  { tr1 with
    splits := tr1.splits ++ [⟨tr1.nextId, pc, q.rpc, m, exm, q.dix, false, none, 0, q.last, .ready, none, 0, none, none⟩]
    sb := tr1.sb.map fun e => if e.owners.contains q.id then { e with owners := e.owners ++ [tr1.nextId] } else e
    nextId := tr1.nextId + 1 }

/-- When every split is parked, those parked at the lowest RPC merge (R26), releasing what each has buffered (R29). -/
def Train.merge (tr : Train) : Train :=
  if tr.splits.isEmpty || !tr.splits.all Split.parked then tr
  else
    let a := lowestRpc tr.splits
    let ms := tr.splits.filter fun q => q.rpc.toNat == a
    match ms with
    | [] => tr
    | q :: _ =>
      let m : Split := { q with
        pc := pc48 (a + 4)
        member := ms.foldl (fun m q => m ||| q.member) 0
        exm := ms.foldl (fun m q => m ||| q.exm) 0
        dix := BitVec.ofNat 32 (ms.foldl (fun n q => max n q.dix.toNat) 0)
        last := ms.foldl (fun n q => max n q.last) 0
        parked := false, spilled := none, wait := .ready, pfx := none, done := 0, part := none, rel := none }
      let tr1 : Train := { tr with
        splits := m :: tr.splits.filter fun q => q.rpc.toNat != a
        sb := tr.sb.map fun e => if ms.any fun q => e.owners.contains q.id then { e with vis := true } else e }
      Train.fillTable (if tr1.inTable.length ≤ Config.splitTable then tr1 else
        match tr1.leastRecent (some m.id) with
        | some r => tr1.spill r.id
        | none => tr1) 32

/-- A split leaves (R27, R38): others reload (R30), and parked ones may merge (R26). -/
def Train.leave (tr : Train) (p : Nat) : Train :=
  (Train.fillTable { tr with splits := tr.splits.filter fun q => q.id != p } 32).merge

/-- The same of a train of the machine, with the entries of the spill area read and written (R31). -/
def State.leaveSplit (s : State) (w t p : Nat) : State :=
  ((s.updTrain w t fun tr => { tr with splits := tr.splits.filter fun q => q.id != p }).readParked w t).updTable w t
    fun tr => tr.leave p

/-- The budget of the function at an address (R37); the split waits while the mark's line is on its way. -/
def State.withBudget (s : State) (c : Ctx) (target : W64) (k : Nat → State) : State :=
  match s.budgetAt c.core c.task c.tr.hmode target with
  | .ok b => k b
  | .error pa => s.askLine c pa

/-! ### Uniform transfers -/

/-- The condition of BRA (R304). -/
def braTakes (c : Nat) (x : W64) : Bool :=
  match c with
  | 0 => true
  | 1 => x == 0
  | 2 => x != 0
  | _ => x.getLsbD 63

/-- BRA (R304). -/
def execBra (k : BitVec 5) (c : BitVec 2) (o : BitVec 19) (s : State) : Out :=
  issue (.bra k c o) s fun x s =>
    let pc := if braTakes c.toNat (x.k5 k) then target x.sp.pc 19 o.toNat else x.next
    (s.retireTo x pc).noteControl x [(pc, x.sp.exm)]

/-- CALL (R309). -/
def execCall (o : BitVec 26) (s : State) : Out :=
  issue (.call o) s fun c s =>
    let t := target c.sp.pc 26 o.toNat
    s.withBudget c t fun b =>
      if c.task.rcd.budget < b then s.raiseUniform c .budget t
      else
        ((s.updTrain c.w c.t fun tr => tr.setK 30 c.next).retireTo c t).noteControl c [(t, c.sp.exm)]

/-- RET (R372). -/
def execRet (src : BitVec 6) (s : State) : Out :=
  issue (.ret src) s fun c s =>
    let t := pc48 (c.k src).toNat
    if aligned t.toNat 4 then (s.retireTo c t).noteControl c [(t, c.sp.exm)]
    else s.raiseUniform c .misaligned t

/-- The new execute mask of MASK (R359). -/
def maskNew (set : Bool) (sp : Split) (p : Mask) (n : BitVec 1) : Mask :=
  let t := if n = 1#1 then ~~~p else p
  (if set then sp.member else sp.exm) &&& t &&& sp.member

/-- MASK.AND (R359). -/
def execMaskAnd (n : BitVec 1) (p : BitVec 3) (s : State) : Out :=
  issue (.maskAnd n p) s fun c s =>
    let m := maskNew false c.sp (c.tr.getP p.toNat) n
    ((s.retire c).updTrain c.w c.t fun tr => tr.updSplit c.p fun q => { q with exm := m }).noteControl c [(c.next, m)]

/-- MASK.SET (R359). -/
def execMaskSet (n : BitVec 1) (p : BitVec 3) (s : State) : Out :=
  issue (.maskSet n p) s fun c s =>
    let m := maskNew true c.sp (c.tr.getP p.toNat) n
    ((s.retire c).updTrain c.w c.t fun tr => tr.updSplit c.p fun q => { q with exm := m }).noteControl c [(c.next, m)]

/-- JOIN (R26, R351): a train with a single split passes it, for it parks and merges at once. -/
def execJoin (s : State) : Out :=
  issue .join s fun c s =>
    if c.tr.hmode then s.raiseUniform c .illegal 0
    else
      ((((s.retire c).updTrain c.w c.t fun tr => tr.updSplit c.p fun q => { q with parked := true, rpc := c.sp.pc }).readParked
        c.w c.t).updTable c.w c.t Train.merge).noteControl c [(c.next, c.sp.exm)]

/-! ### Per-thread transfers -/

/-- The split's row after a per-thread transfer that leaves `m` of its members, `exm` of them active. -/
def Train.keepPart (tr : Train) (p : Nat) (m exm : Mask) : Train := tr.updSplit p fun q => { q with member := m, exm := exm }

/-- BRD (R24, R305). DEDUCED: notes/assumptions/19.md. In handler mode the fall-through part goes on as the handler, and the taken
part waits for RFT as a sibling does; DESIGN CHOICE: the spec names neither, notes/assumptions/83.md. -/
def execBrd (p : BitVec 3) (n : BitVec 1) (o : BitVec 22) (s : State) : Out :=
  issue (.brd p n o) s fun c s =>
    let e := c.sp.exm
    let pm := c.tr.getP p.toNat
    let taken := e &&& (if n = 1#1 then ~~~pm else pm)
    let fall := e &&& ~~~taken
    let t := target c.sp.pc 22 o.toNat
    if e = 0 then s.retire c
    else if fall = 0 then (s.retireTo c t).noteControl c [(t, e)]
    else if taken = 0 then (s.retire c).noteControl c [(c.next, e)]
    else
      ((s.retire c).updTable c.w c.t fun tr =>
        match tr.split? c.p with
        | some q => (tr.newSplit q t taken taken).keepPart c.p (q.member &&& ~~~taken) fall
        | none => tr).noteControl c [(t, taken), (c.next, fall)]

/-- The target of a thread of CALLI (R38). -/
def Ctx.calliTarget (c : Ctx) (r : BitVec 6) (j : Nat) : W64 :=
  BitVec.ofNat 64 (c.sp.pc.toNat / 2 ^ 32 * 2 ^ 32 + (c.v r j).toNat)

/-- The budget marks of targets; the first whose line is on its way stops (R37). -/
def State.marksAt (s : State) (c : Ctx) : List W64 → Except Nat (List (W64 × Nat))
  | [] => .ok []
  | t :: ts =>
    match s.budgetAt c.core c.task c.tr.hmode t with
    | .error pa => .error pa
    | .ok b =>
      match State.marksAt s c ts with
      | .ok bs => .ok ((t, b) :: bs)
      | .error pa => .error pa

/-- CALLI (R38, R310): `fall` continues, `bad` stays and faults, the others leave in groups. In handler mode the part that stays goes on
as the handler, and where none stays the first group does; DESIGN CHOICE: the spec names none, notes/assumptions/83.md. -/
def execCalli (src : BitVec 6) (g : BitVec 3) (s : State) : Out :=
  issue (.calli src g) s fun c s =>
    if c.sp.exm = 0 then s.retire c
    else
      let act := c.active
      let tgt := c.calliTarget src
      let targets := (c.threads.map tgt).eraseDups
      match s.marksAt c (targets.filter fun t => aligned t.toNat 4) with
      | .error pa => s.askLine c pa
      | .ok marks =>
        let mis := act &&& maskOf fun j => !aligned (tgt j).toNat 4
        let bad := act &&& maskOf fun j => !aligned (tgt j).toNat 4 ||
          marks.any fun m => m.1 == tgt j && decide (c.task.rcd.budget < m.2)
        let gone := act &&& ~~~bad
        let stay := c.sp.member &&& ~~~act
        let fall := c.sp.exm &&& ~~~act
        let groups := targets.filterMap fun t =>
          let m := gone &&& maskOf fun j => tgt j == t
          if m = 0 then none else some (t, m)
        let link := fun (s : State) => if gone = 0 then s else s.updTrain c.w c.t fun tr => tr.setK 30 c.next
        let enter := fun (tr : Train) => match tr.split? c.p with
          | some q => groups.foldl (fun tr (t, m) => Train.newSplit tr q t m m) tr
          | none => tr
        let s1 := link (s.retire c)
        if bad = 0 then
          (s1.updTable c.w c.t fun tr =>
            let first := tr.nextId
            let tr1 := (enter tr).keepPart c.p stay fall
            if stay = 0 then
              let tr2 := tr1.leave c.p
              if tr2.hmode then { tr2 with hsplit := first } else tr2
            else tr1).noteControl c (groups ++ if stay = 0 then [] else [(c.next, fall)])
        else
          let s2 := s1.updTable c.w c.t fun tr =>
            let tr1 := enter tr
            let tr2 := match tr.split? c.p with
              | some q => if stay = 0 then tr1 else tr1.newSplit q c.next stay fall
              | none => tr1
            tr2.updSplit c.p fun q => { q with pc := c.sp.pc, dix := c.sp.dix, member := bad, exm := bad }
          let j := (maskThreads bad).headD 0
          let f := c.fault (if mis = 0 then .budget else .misaligned) (tgt j) j false false gone
          (s2.noteControl c (groups ++ if stay = 0 then [] else [(c.next, fall)])).raise c { f with exm := bad }

/-! ### Prefixes -/

/-- IMMX (R266, R350). -/
def execImmx (p : BitVec 24) (s : State) : Out := issue (.immx p) s fun c s => s.retirePrefix c (.immx p)

/-- HINT.MEM (R137, R348). -/
def execHintMem (a o : BitVec 2) (sc : BitVec 3) (s : State) : Out :=
  issue (.hintMem a o sc) s fun c s => s.retirePrefix c (.mem a.toNat o.toNat sc.toNat)

/-- HINT.ARI (R59, R349). -/
def execHintAri (t : BitVec 1) (r : BitVec 3) (s : State) : Out :=
  issue (.hintAri t r) s fun c s => s.retirePrefix c (.ari (t == 1#1) r.toNat)

end Sys2Proof.Machine
end

