-- ==== Sys2Proof/Machine/Sys.lean ====
section
/-! DEFINITION. CSRR and CSRW (R22, R45, R65, R85, R86, R101, R110, R136, R203, R247, R275, R320 to R322), TRAP, SVC, WAIT
and NOP (R367, R387 to R390), the end of a WAIT. -/

namespace Sys2Proof.Machine

/-! ### CSRs -/

/-- UST (R136). -/
def State.ustValue (s : State) (w t : Nat) : W64 :=
  let n := fun (f : Dest → Bool) => min (s.ust w t f) 0xFFFF
  BitVec.ofNat 64 (n (fun d => match d with
      | .own => true
      | _ => false)
    + n (fun d => match d with
      | .peer _ => true
      | _ => false) * 2 ^ 16
    + n (fun d => match d with
      | .slice _ => true
      | _ => false) * 2 ^ 32
    + n (fun d => match d with
      | .chip _ => true
      | _ => false) * 2 ^ 48)

/-- STAT (R247). -/
def Ctx.stat (c : Ctx) : W64 :=
  BitVec.ofNat 64 ((if c.tr.demoted then 1 else 0) + (if c.tr.hmode then 2 else 0) + c.task.rcd.integ * 4
    + (if c.task.isDet then 16 else 0))

/-- ACOWN (R86). -/
def Core.acown (c : Core) : W64 := BitVec.ofNat 64 (c.owner.toNat + if c.valid then 2 ^ 16 else 0)

/-- The number of trains of a workgroup (R45, R187). -/
def Record.ntrn (r : Record) : Nat := (r.wgthr + 31) / 32

/-- The value of a uniform CSR (R45, R320). -/
def State.csrValue (s : State) (c : Ctx) (n : Nat) : W64 :=
  let acc := s.core c.core
  if n = 0x002 then BitVec.ofNat 64 c.tr.trn
  else if n = 0x003 then BitVec.ofNat 64 c.g.wgid
  else if n = 0x004 then BitVec.ofNat 64 c.g.lpid
  else if n = 0x005 then BitVec.ofNat 64 c.task.rcd.ntrn
  else if n = 0x010 then c.sp.exm.setWidth 64
  else if n = 0x011 then c.sp.dix.setWidth 64
  else if n = 0x012 then c.task.rcd.seed
  else if n = 0x020 then acc.acown
  else if 0x021 ≤ n ∧ n ≤ 0x024 then (acc.live >>> (64 * (n - 0x021))).setWidth 64
  else if n = 0x030 then c.g.ctxgen.setWidth 64
  else if n = 0x031 then s.ustValue c.w c.t
  else if n = 0x040 then c.stat
  else if n = 0x100 then c.tr.tvec
  else if n = 0x101 then c.g.frameVa c.task c.tr.trn
  else if n = 0x102 then c.tr.tcause.setWidth 64
  else if n = 0x110 then c.g.wdg.setWidth 64
  else if n = 0x120 then c.tr.privb.setWidth 64
  else 0

/-- Whether a CSR is read only after the train's own sequencer instructions (R320). -/
def csrWaitsSeq (n : Nat) : Bool := decide (0x020 ≤ n) && decide (n ≤ 0x024)

/-- CSRR (R320). -/
def execCsrr (d : BitVec 6) (c : BitVec 10) (g : BitVec 3) (s : State) : Out :=
  issue (.csrr d c g) s fun x s =>
    if c.toNat = 1 then perThread d (fun x j => BitVec.ofNat 32 (32 * x.tr.trn + j)) x s
    else if csrWaitsSeq c.toNat && s.seqQ.any fun q => q.w == x.w && q.t == x.t then s.stall x .retry
    else uniform d.toNat (fun x => s.csrValue x c.toNat) x s

/-- CSRW of a read-only CSR: nothing (R5, R321). -/
def execCsrw (k : BitVec 5) (c : BitVec 10) (s : State) : Out := issue (.csrw k c) s fun x s => s.retire x

/-- CSRW of EXM (R22). -/
def execCsrwExm (k : BitVec 5) (s : State) : Out :=
  issue (.csrwExm k) s fun c s =>
    (s.retire c).updTrain c.w c.t fun tr => tr.updSplit c.p fun q => { q with exm := (c.k5 k).setWidth 32 &&& q.member }

/-- CSRW of STAT (R247). -/
def execCsrwStat (k : BitVec 5) (s : State) : Out :=
  issue (.csrwStat k) s fun c s =>
    (s.updTrain c.w c.t fun tr => if (c.k5 k).getLsbD 0 then { tr with demoted := false } else tr).retire c

/-- The core on which a sequencer or streamer command runs. -/
def State.coreOf (s : State) (w : Nat) : Option Nat :=
  match s.wg? w with
  | some g => g.core?
  | none => none

/-- CSRW of ACOWN (R86, R321). -/
def execCsrwAcown (k : BitVec 5) (s : State) : Out :=
  issue (.csrwAcown k) s fun c s =>
    if s.seqQ.any fun q => s.coreOf q.w == some c.core then s.stall c .retry
    else
      (s.setCore c.core { s.core c.core with owner := (c.k5 k).setWidth 16, valid := (c.k5 k).getLsbD 16 }).retire c

/-- CSRW of TVEC (R321). -/
def execCsrwTvec (k : BitVec 5) (s : State) : Out :=
  issue (.csrwTvec k) s fun c s =>
    (s.updTrain c.w c.t fun tr => { tr with tvec := pc48 ((c.k5 k).toNat / 4 * 4) }).retire c

/-- CSRW of WDG (R101, R321). -/
def execCsrwWdg (k : BitVec 5) (s : State) : Out :=
  issue (.csrwWdg k) s fun c s => (s.updWg c.w fun g => { g with wdg := (c.k5 k).setWidth 32 }).retire c

/-- The six rows of the spill area are copied through L1 to where a new limit puts them (R322). -/
def State.moveRows (s : State) (core : Nat) (tr : Train) (limit : Nat) : State :=
  if limit = tr.privb.toNat then s
  else
    let xs := (List.range 24).map fun r => s.sectorSeen core (spillAt tr tr.privb.toNat r) true
    (xs.zipIdx).foldl (fun (s : State) e =>
      let place := spillAt tr limit e.2
      s.l1Fill core { e.1 with sec := place / 32, priv := true, dirty := true }) s

/-- CSRW of PRIVB (R322): at most the value loaded at launch; the spill area moves with the limit (R31). -/
def execCsrwPrivb (k : BitVec 5) (s : State) : Out :=
  issue (.csrwPrivb k) s fun c s =>
    let limit := min (c.k5 k).toNat c.task.rcd.privlim
    ((s.moveRows c.core c.tr limit).updTrain c.w c.t fun tr => { tr with privb := BitVec.ofNat 23 limit }).retire c

/-! ### SYS operations -/

/-- NOP (R367). -/
def execNop (d : BitVec 6) (s : State) : Out := issue (.nop d) s fun c s => s.retire c

/-- TRAP (R388). -/
def execTrap (s : State) : Out := issue .trap s fun c s => s.raiseUniform c .trap 0

/-- SVC (R389): a trap in program mode; in handler mode a request to the supervisor, which answers in SVC_ANSWER. -/
def execSvc (k : BitVec 5) (s : State) : Out :=
  issue (.svc k) s fun c s =>
    if c.tr.hmode then
      match s.train? c.w c.t with
      | none => s
      | some tr =>
        let o := tr.nextId
        (s.issueOnce c [c.k5 k] fun s o => s.updTrain c.w c.t fun tr => tr.updOutst o fun x =>
          { x with waitsFor := some 1 }).updTrain c.w c.t fun tr =>
            tr.updSplit c.p fun q => { q with wait := .outst [o] }
    else s.raiseUniform c .svc 0

/-- WAIT (R390). -/
def execWait (k : BitVec 5) (s : State) : Out :=
  issue (.wait k) s fun c s =>
    let n := (c.k5 k).toNat % 65536
    (s.retire c).updTrain c.w c.t fun tr => tr.updSplit c.p fun q =>
      { q with wait := if n = 0 then .ready else .timer (s.clock + n) }

/-- WAIT_EXPIRY (R390). -/
def execWaitExpiry (w t p : Nat) (s : State) : Out :=
  event true s fun s =>
    match s.train? w t with
    | some tr =>
      match tr.split? p with
      | some q =>
        match q.wait with
        | .timer due =>
          State.updTrain { s with clock := max s.clock due } w t fun tr => tr.updSplit p fun q => { q with wait := .ready }
        | _ => s
      | none => s
    | none => s

end Sys2Proof.Machine
end

