-- ==== Sys2Proof/Machine/Engine.lean ====
section
/-! DEFINITION. What every engine shares (R130, R147, R316): the fork edge, reads and writes of global memory with
copy-on-write (R160, R164, R230), logs (R219, R223) and comparators (R227), scratchpad accesses (R113, R117), the engine
digest (R219). -/

namespace Sys2Proof.Machine

/-- Every write that a train issued before an id has been performed (R147). -/
def State.forkClear (s : State) (w t fence : Nat) : Bool :=
  match s.train? w t with
  | none => true
  | some tr =>
    !(tr.sb.any fun e => decide (e.id < fence) && e.stage != .granted && !e.owners.isEmpty) &&
      !(s.resp.any fun r => r.w == w && r.t == t && decide (r.o < fence))

/-- No global write of a train's engines is on its way. -/
def State.engineQuiet (s : State) (w t : Nat) : Bool :=
  match s.train? w t with
  | none => true
  | some tr => !(tr.sb.any fun e => e.owners.isEmpty)

/-- What an engine's read of global memory finds. -/
inductive EngRead where
  | ok (s : State) (bytes : List Byte) (poison : Bool)
  | wait (s : State)
  | ends (cause : Cause)

/-- Whether a run's engines take what they read of global memory from the log (R219, R223, R227). -/
def RunMode.engineLog : RunMode → Bool
  | .trail => true
  | .shadow => true
  | _ => false

/-- One byte at its home or from another chip, with its poison, for an engine of workgroup `g` (R120, R128, R146, R181 to R183).
What another chip has not sent, or a pull has not brought, is waited for. -/
def State.engByte (s : State) (g : Wg) (task : Task) (hmode : Bool) (va i : Nat) (d : RemoteData) :
    Except (Option Cause) (Byte × Bool) :=
  if (s.walkPull g.lastCore task.rcd.tenant va).isSome then .error none
  else
    match s.translate g.lastCore task hmode va .load with
    | .lease => .error (some .lease)
    | .aliasing => .error (some .lease)
    | .pullLost => .error (some .pullLost)
    | .ok pa disc _ =>
      if disc then .ok (0, false)
      else if s.pullLost pa then .error (some .pullLost)
      else if s.pullPending pa then .error none
      else if s.isLocal pa then .ok (Memory.read s.mem (offOf pa), s.poisonAt (offOf pa))
      else
        match d.bytes[i]? with
        | some b => .ok (b, remoteBad d (i / 32))
        | none => .error none

/-- The lines that an engine's access to a list of addresses waits for a pull of (R182), by box physical address. -/
def State.engPulls (s : State) (g : Wg) (task : Task) (hmode : Bool) (k : Access) (vas : List Nat) : List Nat :=
  vas.filterMap fun va => match s.walkPull g.lastCore task.rcd.tenant va with
    | some pa => some pa
    | none => match s.translate g.lastCore task hmode va k with
      | .ok pa false _ => if s.pullPending pa then some pa else none
      | _ => none

/-- The lines of this chip at a list of addresses are used in L2 (R121, R123). -/
def State.engUse (s : State) (g : Wg) (task : Task) (hmode : Bool) (k : Access) (vas : List Nat) : State :=
  ((vas.filterMap fun va => match s.translate g.lastCore task hmode va k with
    | .ok pa false _ => if s.isLocal pa then some (pa / 128 * 128) else none
    | _ => none).eraseDups).foldl (fun (s : State) pa => s.l2Use pa task.rcd.tenant) s

/-- The bytes at a list of addresses, for an engine; `i` counts them for what another chip sends. -/
def State.engBytes (s : State) (g : Wg) (task : Task) (hmode : Bool) (d : RemoteData) :
    Nat → List Nat → Except (Option Cause) (List (Byte × Bool))
  | _, [] => .ok []
  | i, va :: vas =>
    match s.engByte g task hmode va i d with
    | .error e => .error e
    | .ok x =>
      match s.engBytes g task hmode d (i + 1) vas with
      | .ok xs => .ok (x :: xs)
      | .error e => .error e

/-- The position of a record's read in a step's log. -/
def recordPos : Nat := 2 ^ 31

/-- What an engine read at level 2 or 3 is logged for the runs that follow (R219, R223, R227). -/
def State.logEngine (s : State) (g : Wg) (trn j : Nat) (key : StepKey) (bs : List Byte) (poison : Bool) : State :=
  match s.taskOf? g with
  | none => s
  | some task =>
    if g.mode = .primary ∧ 2 ≤ task.rcd.integ then
      s.updTask g.slot fun k => { k with
        log := k.log ++ [⟨g.wgid, trn, j, key.dix, key.sub * 2 ^ 32 + key.pos,
          (if poison then 1 else 0) :: packBytes bs.length bs⟩] }
    else s

/-- What a train's writes that are not performed yet make of bytes read at issue: its engine command performs no access before them,
and the train does not wait (R147). DEDUCED: notes/assumptions/84.md. -/
def State.behindWrites (s : State) (g : Wg) (task : Task) (tr : Train) (vas : List Nat) (xs : List Seen) : List Seen :=
  (vas.zip xs).map fun x => match s.translate g.lastCore task tr.hmode x.1 .load with
    | .ok pa false _ => (tr.sb.flatMap fun e => if e.isFrame then [] else e.bytes).foldl (fun (y : Seen) b =>
        if b.loc = .glob pa then (maskByte y.1 b.mask b.val, if b.mask = 0xFF then false else y.2) else y) x.2
    | _ => x.2

/-- Whether a remote atomic of a train is on its way to bytes at a list of addresses (R147). -/
def State.atomsOn (s : State) (w t : Nat) (g : Wg) (task : Task) (hmode : Bool) (vas : List Nat) : Bool :=
  s.resp.any fun r => r.w == w && r.t == t && vas.any fun va => match s.translate g.lastCore task hmode va .load with
    | .ok pa _ _ => decide (r.pa ≤ pa) && decide (pa < r.pa + atomSize r.op)
    | _ => false

/-- An engine of train `t` reads the bytes at `vas` of global memory; `j` and `key` name the access in the log. A checked
pair compares the read as a load row (R227), but for a record, which its command's operands name. -/
def State.engGather (s : State) (w t : Nat) (hmode : Bool) (j : Nat) (key : StepKey) (vas : List Nat) (d : RemoteData) :
    EngRead :=
  match s.wg? w, s.train? w t with
  | some g, some tr =>
    match s.taskOf? g with
    | none => .wait s
    | some task =>
      let row := fun (s : State) =>
        if key.pos = recordPos ∨ vas.isEmpty then s
        else s.note w t key (.load (BitVec.ofNat 64 (vas.headD 0)) vas.length) none
      if g.mode.engineLog then
        match s.takeLog w tr.trn j key.dix (key.sub * 2 ^ 32 + key.pos) with
        | some (p :: vals, s1) => .ok (row s1) (unpackBytes vals vas.length) (p != 0)
        | some ([], s1) => .ok (row s1) (List.replicate vas.length 0) false
        | none => .wait s
      else
        match s.engBytes g task hmode d 0 vas with
        | .error (some cause) => .ends cause
        | .error none => .wait (s.askPulls (s.engPulls g task hmode .load vas))
        | .ok ys =>
          let xs := if key.pos = recordPos then s.behindWrites g task tr vas ys else ys
          let bs := xs.map fun x => x.1
          let poison := xs.any fun x => x.2
          .ok (row ((s.engUse g task hmode .load vas).logEngine g tr.trn j key bs poison)) bs poison
  | _, _ => .wait s

/-- The same of `n` bytes from `va` on. -/
def State.engRead (s : State) (w t : Nat) (hmode : Bool) (j : Nat) (key : StepKey) (va n : Nat) (d : RemoteData) : EngRead :=
  s.engGather w t hmode j key ((List.range n).map fun i => va + i) d

/-- The first byte at a list of addresses that must come first: of another chip, if neither the core's L1 nor its inbox holds the
sector, or one whose pull is not finished (R182). -/
def State.missing (s : State) (g : Wg) (task : Task) (hmode : Bool) (vas : List Nat) : Option Nat :=
  vas.findSome? fun va => match s.walkPull g.lastCore task.rcd.tenant va with
    | some pa => some pa
    | none => match s.translate g.lastCore task hmode va .load with
      | .ok pa false uc =>
        if s.pullPending pa || (!s.isLocal pa && ((s.core g.lastCore).fetchSector? uc pa).isNone) then some pa else none
      | _ => none

/-- What has come to a core of other chips at a list of addresses. -/
def State.fromCore (s : State) (g : Wg) (task : Task) (hmode : Bool) (vas : List Nat) : RemoteData :=
  let xs := vas.map fun va => match s.translate g.lastCore task hmode va .load with
    | .ok pa _ uc =>
      if s.isLocal pa then ((0, false) : Byte × Bool)
      else match (s.core g.lastCore).fetchSector? uc pa with
        | some x => (x.data.getD (pa % 32) 0, x.poison)
        | none => (0, false)
    | _ => (0, false)
  ⟨xs.map fun x => x.1, (List.range ((xs.length + 31) / 32)).map fun i => ((xs.drop (32 * i)).take 32).any fun x => x.2, []⟩

/-- What had come to a core for a read of these addresses is used. -/
def State.dropInbox (s : State) (g : Wg) (task : Task) (hmode : Bool) (vas : List Nat) : State :=
  let secs := vas.filterMap fun va => match s.translate g.lastCore task hmode va .load with
    | .ok pa _ _ => some (pa / 32)
    | _ => none
  let c := s.core g.lastCore
  if c.inbox.any fun x => secs.contains x.sec then
    s.setCore g.lastCore { c with inbox := c.inbox.filter fun x => !secs.contains x.sec }
  else s

/-- How an engine's write of global memory ends: `full` names the byte whose line found no shadow entry (R164); `lehr`
is the same for a line of level 0 alone (R230). -/
inductive EngWrite where
  | ok (s : State)
  | wait (s : State)
  | ends (cause : Cause)
  | full (va : Nat)
  | lehr

/-- The box physical addresses that bytes are written at, or why they are not. DEDUCED: notes/assumptions/75.md. -/
def State.engTargets (s : State) (g : Wg) (task : Task) (hmode : Bool) :
    List WByte → Except (Option Cause) (List (WByte × Nat × Bool))
  | [] => .ok []
  | b :: bs =>
    if (s.walkPull g.lastCore task.rcd.tenant b.va).isSome then .error none
    else
      match s.translate g.lastCore task hmode b.va .store with
      | .lease => .error (some .lease)
      | .aliasing => .error (some .lease)
      | .pullLost => .error (some .pullLost)
      | .ok pa disc _ =>
        if s.pullLost pa then .error (some .pullLost)
        else if !disc && s.pullPending pa then .error none
        else
          match State.engTargets s g task hmode bs with
          | .ok xs => .ok ((b, pa, disc) :: xs)
          | .error e => .error e

/-- Whether a write at a chip offset would take a shadow entry from the domain of task slot `slot` (R160). -/
def State.wantsCopy (s : State) (slot off : Nat) : Option Domain :=
  match s.needsEntry slot off with
  | some d =>
    match d.levelFor (s.domainVa (off / 128 * 128)) with
    | some c => if (s.metaOf (off / 128)).tag = c.gen then none else some d
    | none => none
  | none => none

/-- An engine's entry on its way to a destination: nothing forwards from it. `rsv` names the core whose pool takes its shadow
reservation back (R164). -/
def Train.sendBytes (tr : Train) (d : Dest) (stage : Stage) (rsv : Option Nat) (bs : List SbByte) (poison : Bool) : Train :=
  Train.noteUsed { tr with
    sb := tr.sb ++ [⟨tr.nextId, [], false, d, bs, stage, rsv, ⟨0, 0, 0⟩, poison, 0, 0⟩], nextId := tr.nextId + 1 } d

/-- The lines that bytes are written in, by box line number. -/
def writtenLines (xs : List (WByte × Nat × Bool)) : List Nat := (xs.map fun x => x.2.1 / 128).eraseDups

/-- Whether a line of this chip would take a shadow entry of an engine of a task (R164). -/
def State.lineWants (s : State) (slot line : Nat) : Bool :=
  s.isLocal (line * 128) && (s.wantsCopy slot (offOf (line * 128))).isSome

/-- The first byte of a line that finds no shadow entry left, when each line that wants one takes one (R164). -/
def State.engShort (s : State) (slot : Nat) (xs : List (WByte × Nat × Bool)) : Option (WByte × Nat × Bool) :=
  match s.doms.look slot with
  | none => none
  | some d => (((writtenLines xs).filter fun l => s.lineWants slot l)[d.free]?).bind fun l => xs.find? fun x => x.2.1 / 128 == l

/-- What stops an engine's write whose addresses are known: a discarded page is revived first (R181), and each line that wants
a shadow entry must find one (R164, R230). -/
def State.engStop (s : State) (g : Wg) (task : Task) (xs : List (WByte × Nat × Bool)) : Option EngWrite :=
  match xs.find? fun x => x.2.2 with
  | some x => some (.wait (s.askRevival task.rcd.tenant (x.1.va / 4096)))
  | none =>
    (s.engShort g.slot xs).map fun x => match s.needsEntry g.slot (offOf x.2.1) with
      | some d => if 2 ≤ task.rcd.integ ∧ d.onlyLevel0 (s.domainVa (offOf x.2.1 / 128 * 128)) then .lehr else .full x.1.va
      | none => .full x.1.va

/-- Write bytes whose addresses are known (R316): at once where they are homed here, on their way where another chip is. -/
def State.engPut (s : State) (w t : Nat) (g : Wg) (task : Task) (xs : List (WByte × Nat × Bool)) (poison : Bool) : State :=
  let here := xs.filter fun x => s.isLocal x.2.1
  let src : WriteSrc := if here.any fun x => s.domainOf (offOf x.2.1) == some g.slot then .engine else .other
  let s0 := (writtenLines here).foldl (fun (s : State) l => s.l2Use (l * 128) task.rcd.tenant) s
  let s1 := (s0.writeHome (here.map fun x => ⟨offOf x.2.1, x.1.mask, x.1.val⟩) src poison).updWg w fun g =>
    { g with lehrStop := false }
  let s2 := s1.l1Write g.lastCore (here.map fun x => ⟨x.2.1, x.1.mask, x.1.val⟩) poison
  (writtenLines (xs.filter fun x => !s.isLocal x.2.1)).foldl (fun (s : State) l =>
    let mine := (xs.filter fun x => x.2.1 / 128 == l).map fun x => (⟨.glob x.2.1, x.1.mask, x.1.val⟩ : SbByte)
    s.updTrain w t fun tr => tr.sendBytes (s.destOf (l * 128)) .held none mine poison) s2

/-- A shadow entry is reserved for a line that an engine's compared write will reach later (R164). -/
def State.engReserve (s : State) (slot line : Nat) : State :=
  if s.lineWants slot line then
    match s.doms.look slot with
    | some d => s.setDom slot { d with free := d.free - 1 }
    | none => s
  else s

/-- Compare the bytes of a checked pair before they leave (R153, R227): one item for each line. -/
def State.engCompare (s : State) (w t : Nat) (g : Wg) (key : StepKey) (xs : List (WByte × Nat × Bool)) (poison : Bool) : State :=
  (writtenLines xs).foldl (fun (s : State) l =>
    let mine := (xs.filter fun x => x.2.1 / 128 == l).map fun x => (⟨.glob x.2.1, x.1.mask, x.1.val⟩ : SbByte)
    if g.mode = .trail then s.note w t key (.store mine) none
    else
      match s.train? w t with
      | none => s
      | some tr =>
        let rsv := if s.lineWants g.slot l then some g.lastCore else none
        ((s.engReserve g.slot l).note w t key (.store mine) (some tr.nextId)).updTrain w t fun tr =>
          tr.sendBytes (s.destOf (l * 128)) .compare rsv mine poison) (s.updWg w fun g => { g with lehrStop := false })

/-- An engine of train `t` writes bytes of global memory (R316, R227). `once` marks a command that a checked pair compares
as a whole and performs once, as CLST: its writes are not compared again. -/
def State.engWrite (s : State) (w t : Nat) (hmode once : Bool) (key : StepKey) (bs : List WByte) (poison : Bool) : EngWrite :=
  match s.wg? w with
  | none => .wait s
  | some g =>
    match s.taskOf? g with
    | none => .wait s
    | some task =>
      if g.mode = .shadow ∨ g.mode = .replay then .ok s
      else
        match s.engTargets g task hmode bs with
        | .error (some cause) => .ends cause
        | .error none => .wait (s.askPulls (s.engPulls g task hmode .store (bs.map fun b => b.va)))
        | .ok xs =>
          let compare := task.rcd.integ = 3 && !once
          if g.mode = .trail then .ok (if compare then s.engCompare w t g key xs poison else s)
          else match s.engStop g task xs with
            | some r => r
            | none => .ok (if compare then s.engCompare w t g key xs poison else s.engPut w t g task xs poison)

/-- A command of a workgroup has stopped at a line without a shadow entry (R230). -/
def State.stopAtLehr (s : State) (w : Nat) : State := s.updWg w fun g => { g with lehrStop := true }

/-- Whole bytes from a virtual address on. -/
def wbytesAt (va : Nat) (bs : List Byte) : List WByte := (List.range bs.length).map fun i => ⟨va + i, 0xFF, bs.getD i 0⟩

/-! ### Scratchpad -/

/-- How an engine's scratchpad access ends: `fail` carries the code of R96. -/
inductive EngShare where
  | ok (s : State) (bytes : List Byte) (poison : Bool)
  | wait (s : State)
  | fail (err : Nat)
  | ends (cause : Cause)

/-- Where `n` bytes of the scratchpad lie for workgroup `w` (R113): handle, offset; or the code of R96. -/
def State.engLocs (s : State) (w : Nat) (a : W64) (n : Nat) : Except Nat (List Loc) :=
  match s.wg? w, spaceOf a with
  | some g, .share h off =>
    match s.taskOf? g with
    | some task =>
      match s.shareLocs w g task.rcd.scratch h off n a with
      | .ok ls => .ok ls
      | .error (.handle, _) => .error 3
      | .error _ => .error 4
    | none => .error 4
  | _, _ => .error 4

/-- An engine reads `n` bytes of the scratchpad; absent lines of a mapped region are filled first (R117). -/
def State.engShareRead (s : State) (w t : Nat) (a : W64) (n : Nat) : EngShare :=
  match s.engLocs w a n with
  | .error e => .fail e
  | .ok ls =>
    match s.fillLines (s.absentLines ls) with
    | .error (.ask pa core) => .wait (s.askFor w t pa core)
    | .error (.ends cause) => .ends cause
    | .error _ => .wait s
    | .ok s1 =>
      let at' := ls.filterMap fun l => match l with
        | .share o off => some (o, off)
        | _ => none
      .ok s1 (at'.map fun x => s1.shareAt x.1 x.2) (at'.any fun x => s1.sharePoisonAt x.1 x.2)

/-- An engine writes bytes of the scratchpad; a line of a mapped region that it writes whole is not filled (R117). -/
def State.engShareWrite (s : State) (w t : Nat) (a : W64) (bs : List Byte) (poison : Bool) : EngShare :=
  match s.engLocs w a bs.length with
  | .error e => .fail e
  | .ok ls =>
    match s.fillLines (s.absentLines (partLines ls)) with
    | .error (.ask pa core) => .wait (s.askFor w t pa core)
    | .error (.ends cause) => .ends cause
    | .error _ => .wait s
    | .ok s1 =>
      let at' := ls.filterMap fun l => match l with
        | .share o off => some (o, off)
        | _ => none
      match at'.head? with
      | some (o, _) =>
        .ok (s1.writeShare o ((at'.zip bs).map fun x => (⟨x.1.2, 0xFF, x.2⟩ : HomeByte)) poison) [] false
      | none => .ok s1 [] false

/-! ### The engine digest -/

/-- Fold finished commands in issue order (R219): the digest, and those behind an unfinished one. DEDUCED:
notes/assumptions/23.md. -/
def settleEd (ed : W64) : List EdItem → W64 × List EdItem
  | [] => (ed, [])
  | x :: rest =>
    if x.done then settleEd (foldBytes ed (x.bytes.map fun b => (⟨b.1, 0xFF, b.2⟩ : WByte)) true) rest
    else (ed, x :: rest)

/-- An engine command that writes global memory has been issued. -/
def Train.edOpen (tr : Train) (id : Nat) : Train := { tr with edq := tr.edq ++ [⟨id, false, []⟩] }

/-- It has written these bytes. -/
def Train.edAdd (tr : Train) (id : Nat) (bs : List WByte) : Train :=
  { tr with edq := tr.edq.map fun x => if x.id = id then { x with bytes := x.bytes ++ bs.map fun b => (b.va, b.val &&& b.mask) } else x }

/-- It has completed. -/
def Train.edClose (tr : Train) (id : Nat) : Train :=
  let (ed, rest) := settleEd tr.ed (tr.edq.map fun x => if x.id = id then { x with done := true } else x)
  { tr with ed := ed, edq := rest }

/-- It will never complete. -/
def Train.edDrop (tr : Train) (id : Nat) : Train :=
  let (ed, rest) := settleEd tr.ed (tr.edq.filter fun x => x.id != id)
  { tr with ed := ed, edq := rest }

end Sys2Proof.Machine
end

