-- ==== Sys2Proof/Machine/Handle.lean ====
section
/-! DEFINITION. Handle instructions and the map unit (R114 to R118, R340 to R347), RFNC (R373), AUDM and DIGR (R220, R295,
R325). -/

namespace Sys2Proof.Machine

/-- The live regions of a workgroup's share. -/
def State.regionsOf (s : State) (w : Nat) : List Region := s.regions.filter fun r => r.creator == w && r.handle != 0

/-- Change the region of creator `w` at offset `off`. -/
def State.setRegion (s : State) (r : Region) : State :=
  { s with regions := s.regions.map fun x => if x.creator = r.creator ∧ x.off = r.off ∧ x.handle = r.handle then r else x }

/-- The lowest free handle of a cluster group (R114). -/
def State.freeHandle (s : State) (w slot group : Nat) : Option Nat :=
  firstFrom (fun h => !(s.regions.any fun r =>
    r.handle == h && ((r.slot == slot && r.cluster == group) || r.holder == w || r.creator == w || r.offered == some w))) 255 1

/-- Whether a range may become a region of `w` (R114). -/
def State.mayMap (s : State) (w size off len : Nat) (map : Bool) : Bool :=
  let mine := s.regionsOf w
  decide (0 < len) && decide (off + len ≤ size) && decide (mine.length < 16) &&
    (!map || decide ((mine.filter fun r => r.map.isSome).length < 8)) &&
    mine.all fun r => decide (r.off + r.len ≤ off) || decide (off + len ≤ r.off)

/-- Whether every page of a range lies in some lease of a task (R114, R175). -/
def Task.leased (t : Task) (va n : Nat) : Bool :=
  (List.range ((va % 4096 + n + 4095) / 4096)).all fun i =>
    t.rcd.leases.any fun l => l.covers ((va / 4096 + i) * 4096)

/-- Add a region held by its creator (R115, R344). -/
def State.addRegion (s : State) (g : Wg) (w handle off len : Nat) (map : Option Nat) : State :=
  { s with regions := s.regions ++ [⟨g.slot, g.sub, g.group, handle, w, w, none, off, len, map, []⟩] }

/-- HMAP (R114, R343, R344, R347). -/
def execHmap (d o : BitVec 5) (l : BitVec 4) (s : State) : Out :=
  issue (.hmap d o l) s fun c s =>
    let off := (c.k5 o).toNat
    let len := (c.tr.getK (o.toNat + 1)).toNat
    let mp := c.tr.getK (o.toNat + 2)
    let map := if mp = 0 then none else some (mp.toNat % 2 ^ 48)
    if !aligned off 128 then s.raiseUniform c .misaligned (c.k5 o)
    else if !aligned len 128 then s.raiseUniform c .misaligned (c.tr.getK (o.toNat + 1))
    else if !aligned mp.toNat 128 then s.raiseUniform c .misaligned mp
    else if bitsAt mp.toNat 48 16 ≠ 0 then s.raiseUniform c .space mp
    else if !s.mayMap c.w c.task.rcd.scratch off len map.isSome then s.raiseUniform c .handle (c.k5 o)
    else if c.g.mode == .primary && (s.freeHandle c.w c.g.slot c.g.group).isNone then s.raiseUniform c .handle (c.k5 o)
    else if (match map with
      | some va => !c.task.leased va len
      | none => false) then s.raiseUniform c .lease mp
    else if c.g.mode = .shadow ∨ c.g.mode = .replay then
      match s.takeLog c.w c.tr.trn 32 c.sp.dix c.sub with
      | some (vals, s1) =>
        let h := vals.getD 1 0
        (s1.addRegion c.g c.w h.toNat off len map).finishLater c [.k d.toNat h]
      | none => s.stall c .retry
    else
      match s.freeHandle c.w c.g.slot c.g.group with
      | none => s.raiseUniform c .handle (c.k5 o)
      | some h =>
        s.issueOnce c [c.k5 o, c.tr.getK (o.toNat + 1), mp] fun s o =>
          (s.addRegion c.g c.w h off len map).finishCommand c.w c.t o [BitVec.ofNat 64 h]

/-- The workgroup that an LPID names in the cluster group of `g` (R115). -/
def State.peerWg? (s : State) (g : Wg) (lpid : Nat) : Option Nat :=
  (s.wgs.zipIdx.find? fun e => e.1.slot == g.slot && e.1.sub == g.sub && e.1.mode == g.mode && e.1.lpid == lpid &&
    e.1.place != .ended && e.1.group == g.group).map fun e => e.2

/-- Whether an unfinished HFLS of a region was issued before `o` (R345). -/
def State.flushing (s : State) (r : Region) (o : Nat) : Bool :=
  s.trains.any fun e => e.2.outst.any fun x => match x.insn with
    | .hfls _ _ => x.waitsFor.isSome && x.ops.getD 1 0 == BitVec.ofNat 64 r.creator &&
        x.ops.getD 2 0 == BitVec.ofNat 64 r.off && (decide (e.1 / 64 ≠ r.holder) || decide (x.id < o))
    | _ => false

/-- HGIV at the handle unit (R115, R345): steps 2 and 3. -/
def State.giveStep (s : State) (w t o : Nat) : State :=
  match s.wg? w, s.train? w t with
  | some g, some tr =>
    match tr.outst? o with
    | none => s
    | some x =>
      let h := x.ops.getD 0 0
      match s.region? w g.slot g.group h.toNat with
      | some r =>
        if r.holder ≠ w ∨ r.offered.isSome then s.faultCommand w t o .handle h
        else if s.flushing r o then s
        else (s.setRegion { r with offered := some (x.ops.getD 1 0).toNat }).finishCommand w t o []
      | none => s.faultCommand w t o .handle h
  | _, _ => s

/-- HGIV (R115, R116, R343, R345). -/
def execHgiv (h p : BitVec 5) (l : BitVec 4) (s : State) : Out :=
  issue (.hgiv h p l) s fun c s =>
    let hv := c.k5 h
    let pv := c.k5 p
    if bitsAt hv.toNat 8 56 ≠ 0 ∨ bitsAt pv.toNat 8 56 ≠ 0 then s.raiseUniform c .illegal 0
    else
      let peer := s.peerWg? c.g pv.toNat
      let held := hv != 0 && match s.region? c.w c.g.slot c.g.group hv.toNat with
        | some r => r.holder == c.w && r.offered.isNone
        | none => false
      match peer with
      | none => s.raiseUniform c .handle hv
      | some v =>
        if (!held && c.g.mode != .shadow && c.g.mode != .replay) || v = c.w then s.raiseUniform c .handle hv
        else
          match s.release c.w c.t c.p 2 with
          | .wait s1 => s1.stall c .retry
          | .done s1 => s1.issueOnce c [hv, BitVec.ofNat 64 v] fun s o => s.giveStep c.w c.t o
          | .lost s1 => s1.issueOnce c [hv, BitVec.ofNat 64 v] fun s o => s.giveStep c.w c.t o

/-- HTAK (R115, R116, R343, R346): a region that is offered to the workgroup, wherever giver and taker run by then (R46, R118). -/
def execHtak (d h : BitVec 5) (l : BitVec 4) (s : State) : Out :=
  issue (.htak d h l) s fun c s =>
    let hv := c.k5 h
    if bitsAt hv.toNat 8 56 ≠ 0 then s.raiseUniform c .illegal 0
    else
      s.issueOnce c [hv] fun s o =>
        match s.regions.find? fun r => r.handle == hv.toNat && hv != 0 && r.offered == some c.w with
        | some r =>
          ((s.setRegion { r with holder := c.w, offered := none }).acquire c.w c.t 2).finishCommand c.w c.t o [1]
        | none => s.finishCommand c.w c.t o [0]

/-! ### HFLS -/

/-- HFLS (R340): the map unit then walks the lines (`State.flushStep`). -/
def execHfls (h : BitVec 5) (l : BitVec 4) (s : State) : Out :=
  issue (.hfls h l) s fun c s =>
    let hv := c.k5 h
    if bitsAt hv.toNat 8 56 ≠ 0 then s.raiseUniform c .illegal 0
    else
      match s.region? c.w c.g.slot c.g.group hv.toNat with
      | none => s.raiseUniform c .handle hv
      | some r =>
        if hv = 0 ∨ r.holder ≠ c.w ∨ r.offered.isSome then s.raiseUniform c .handle hv
        else
          match s.train? c.w c.t with
          | none => s
          | some tr =>
            let ops := [hv, BitVec.ofNat 64 r.creator, BitVec.ofNat 64 r.off, 0]
            let s1 := if c.task.rcd.integ = 3 then s.note c.w c.t c.key (.command c.insn ops) none else s
            ((s1.updTrain c.w c.t fun tr => tr.edOpen (2 * tr.nextId)).addOutst c 0 fun x =>
              { x with ops := ops, waitsFor := some tr.nextId }).retire c

/-- The bytes of a dirty sector of a region's line, and its poison. -/
def State.regionSector (s : State) (r : Region) (line i : Nat) : List Byte × Bool :=
  let off := r.off + 128 * line + 32 * i
  ((List.range 32).map fun b => s.shareAt r.creator (off + b), s.sharePoisonAt r.creator off)

/-- The first dirty sector of a line. -/
def firstDirty (d : BitVec 4) : Option Nat := firstFrom (fun i => d.getLsbD i) 4 0

/-- One step of an HFLS (R341, R342): the next dirty sector is written back, or the line made absent, or the walk ends once
every home has acknowledged. -/
def State.flushStep (s : State) (w t o : Nat) : State :=
  match s.wg? w, s.train? w t with
  | some g, some tr =>
    match tr.outst? o with
    | none => s
    | some x =>
      let next := (x.ops.getD 3 0).toNat
      let follows := g.mode == .shadow || g.mode == .replay
      let finish := fun (s : State) =>
        if s.engineQuiet w t then (s.updTrain w t fun tr => tr.edClose (2 * o)).finishCommand w t o [] else s
      match s.regions.find? fun r => BitVec.ofNat 64 r.creator == x.ops.getD 1 0 && BitVec.ofNat 64 r.off == x.ops.getD 2 0 &&
          BitVec.ofNat 64 r.handle == x.ops.getD 0 0 with
      | none => finish s
      | some r =>
        match r.map with
        | none => finish s
        | some v =>
          if !s.forkClear w t o then s
          else
            match r.lines.find? fun e => decide (next ≤ e.1) with
            | none => finish s
            | some (line, st) =>
              let onward := fun (s : State) => s.updTrain w t fun tr => tr.updOutst o fun x =>
                { x with ops := x.ops.set 3 (BitVec.ofNat 64 (line + 1)) }
              match firstDirty st.dirty with
              | none => onward (s.setRegion { r with lines := if follows then r.lines else r.lines.del line })
              | some i =>
                let (bs, poison) := s.regionSector r line i
                let wb := wbytesAt (v + 128 * line + 32 * i) bs
                match s.engWrite w t tr.hmode false ⟨x.dix, x.sub, 4 * line + i⟩ wb poison with
                | .ok s1 =>
                  (s1.setRegion { r with lines := r.lines.put line ⟨st.dirty &&& ~~~(1#4 <<< i)⟩ }).updTrain w t fun tr =>
                    tr.edAdd (2 * o) wb
                | .wait s1 => s1
                | .ends cause => s.endTask g.slot ⟨cause, x.pc, BitVec.ofNat 64 (v + 128 * line), 0, g.wgid⟩
                | .full va => s.faultCommand w t o .shadowFull (BitVec.ofNat 64 va)
                | .lehr => s.stopAtLehr w
  | _, _ => s

/-! ### Regions of a workgroup that ends -/

/-- Write back one dirty sector of an ended creator's region (R118): a home reserve provides for its copy (R164). -/
def State.endSector (s : State) (w : Nat) (g : Wg) (task : Task) (va : Nat) (bs : List Byte) (poison : Bool) :
    Option State :=
  if (s.walkPull g.lastCore task.rcd.tenant va).isSome then none
  else match s.translate g.lastCore task false va .store with
  | .ok pa disc _ =>
    let s1 := if disc then s.revive task.rcd.tenant (va / 4096) else s
    if s.pullLost pa then some s
    else if !disc && s.pullPending pa then none
    else if s.isLocal pa then some ((s1.l2Use pa task.rcd.tenant).writeHome (homeBytesAt (offOf pa) bs) .other poison)
    else
      match s.trainsOf w with
      | (t, _) :: _ =>
        let s2 := s1.guestUpdate (homeBytesAt pa bs) poison
        some (s2.updTrain w t fun tr => tr.sendBytes (s.destOf pa) .sent none
          ((List.range bs.length).map fun i => ⟨.glob (pa + i), 0xFF, bs.getD i 0⟩) poison)
      | [] => some s1
  | _ => some s

/-- One region's dirty sectors, in ascending address; none while a line waits for its pull. -/
def State.endLines (s : State) (w : Nat) (g : Wg) (task : Task) (r : Region) (v : Nat) :
    List (Nat × Nat) → Option State
  | [] => some s
  | (line, i) :: rest =>
    let (bs, poison) := s.regionSector r line i
    let va := v + 128 * line + 32 * i
    let s1 := if g.mode.follows then some s else s.endSector w g task va bs poison
    match s1 with
    | none => none
    | some s2 =>
      let s3 := match s2.trainsOf w with
        | (t, _) :: _ => s2.updTrain w t fun tr => { tr with ed := foldBytes tr.ed (wbytesAt va bs) true }
        | [] => s2
      State.endLines s3 w g task r v rest

/-- The dirty sectors of a region. -/
def Region.dirtySectors (r : Region) : List (Nat × Nat) :=
  r.lines.flatMap fun e => ((List.range 4).filter fun i => e.2.dirty.getLsbD i).map fun i => (e.1, i)

/-- The pulls that the write-back of the regions that `w` created waits for (R182). -/
def State.regionPulls (s : State) (w : Nat) (g : Wg) (task : Task) : List Nat :=
  s.engPulls g task false .store ((s.regions.filter fun r => r.creator == w).flatMap fun r => match r.map with
    | some v => r.dirtySectors.map fun e => v + 128 * e.1 + 32 * e.2
    | none => [])

/-- Write back every region that `w` created, and free them (R118); none while one of them waits. -/
def State.writeBackRegions (s : State) (w : Nat) (g : Wg) (task : Task) : List Region → Option State
  | [] => some s
  | r :: rs =>
    let s1 := match r.map with
      | some v => s.endLines w g task r v r.dirtySectors
      | none => some s
    match s1 with
    | none => none
    | some s2 =>
      State.writeBackRegions { s2 with regions := s2.regions.filter fun x => !(x.creator == w && x.off == r.off && x.handle == r.handle) }
        w g task rs

/-- The regions that an ended workgroup held return to their creators; those it created lose their handles (R118). -/
def State.dropHoldings (s : State) (w : Nat) : State :=
  { s with regions := s.regions.map fun r =>
      if r.creator = w then { r with handle := 0 }
      else if r.holder = w then { r with holder := r.creator, offered := none }
      else r }

/-! ### RFNC, AUDM, DIGR -/

/-- RFNC behind its fork edge (R147, R373): once the train's earlier writes are performed, the cache is discarded. -/
def State.discardStep (s : State) (w t o : Nat) : State :=
  match s.wg? w with
  | none => s
  | some g =>
    if s.forkClear w t o then
      (s.setCore g.lastCore { s.core g.lastCore with recs := [] }).updTrain w t fun tr =>
        tr.updOutst o fun x => { x with waitsFor := none }
    else s

/-- RFNC (R93, R373): outstanding until the cache is discarded. -/
def execRfnc (l : BitVec 4) (s : State) : Out :=
  issue (.rfnc l) s fun c s => (s.addOutst c 0 fun x => { x with waitsFor := some 0 }).retire c

/-- AUDM (R220, R295): it folds into the digest of every thread of EXM. -/
def execAudm (a : BitVec 5) (l : BitVec 4) (s : State) : Out :=
  issue (.audm a l) s fun c s =>
    (s.updTrain c.w c.t fun tr => (maskThreads c.sp.exm).foldl (fun (tr : Train) j =>
      tr.foldIn j [(0x0002000000000000, c.k5 a)]) tr).finishLater c []

/-- Whether a TST whose folds precede those of thread 0's later steps is still at work (R394): not one that has faulted and is kept
for RFT (R41). -/
def Train.tstRuns (tr : Train) : Bool := tr.dq.any fun x => !x.done && tr.live.any fun o => o.id == x.id

/-- The train digest with everything folded that the train has done so far (R217, R218, R325). -/
def Train.tdNow (tr : Train) : W64 := (Train.settleDigest { tr with dq := tr.dq.filter fun x => x.done }).td

/-- DIGR (R220, R325); it issues behind the TSTs whose folds precede it. DEDUCED: notes/assumptions/85.md. -/
def execDigr (a : BitVec 5) (l : BitVec 4) (s : State) : Out :=
  issue (.digr a l) s fun c s => if c.tr.tstRuns then s.stall c .retry else s.finishLater c [.k a.toNat c.tr.tdNow]

end Sys2Proof.Machine
end

