-- ==== Sys2Proof/Machine/Barrier.lean ====
section
/-! DEFINITION. Barrier registers (R97 to R101, R298 to R303, R307, R308), cluster trees (R100), the watchdog and the end
of a workgroup (R101, R105, R245). -/

namespace Sys2Proof.Machine

/-- A number for each kind of run, so that the runs of a workgroup keep apart. -/
def RunMode.num : RunMode → Nat
  | .primary => 0
  | .trail => 1
  | .shadow => 2
  | .replay => 3

/-- The root of a barrier index for the runs of a workgroup's kind (R100). -/
def Root.isFor (r : Root) (g : Wg) (b : Nat) : Bool :=
  r.slot == g.slot && r.cluster == g.group && r.idx == b + 16 * g.mode.num

/-- The root of a workgroup's leaf. -/
def State.root? (s : State) (g : Wg) (b : Nat) : Option Root := s.roots.find? fun r => r.isFor g b

/-- Change a root. -/
def State.updRoot (s : State) (g : Wg) (b : Nat) (f : Root → Root) : State :=
  { s with roots := s.roots.map fun r => if r.isFor g b then f r else r }

/-- Change a barrier register of a workgroup. -/
def State.updBar (s : State) (w b : Nat) (f : Bar → Bar) : State := s.updWg w fun g => g.setBar b (f (g.bar b))

/-- Whether a split waits in BWAIT on a register. -/
def Split.waitsOn (q : Split) (b : Nat) : Bool :=
  match q.wait with
  | .barrier n _ => n == b
  | _ => false

/-- Whether a train waits in BWAIT on a register. -/
def Train.waitsOn (tr : Train) (b : Nat) : Bool := tr.splits.any fun q => q.waitsOn b

/-- Whether some train of a workgroup outside its handler waits on a register (R101, R248). -/
def State.anyWaiter (s : State) (w b : Nat) : Bool :=
  (s.trainsOf w).any fun e => !e.2.hmode && e.2.waitsOn b

/-! ### Phases -/

/-- A register after its phase has completed (R98): what the unit keeps of the phase (R299), PHASE flipped. -/
def Bar.flip (x : Bar) : Bar :=
  { x with
    phase := !x.phase, lastErr := x.err, lastVal := x.value
    arrived := 0, pend := 0, err := 0, came := 0, since := none, held := 0, sent := false }

/-- Splits that wait on a register are released (R98). DEDUCED: notes/assumptions/29.md. -/
def Train.releaseBar (tr : Train) (b : Nat) : Train :=
  { tr with splits := tr.splits.map fun q =>
      match q.wait with
      | .barrier n ph => if n = b then { q with wait := .flipped ph } else q
      | _ => q }

/-- A phase completes: PHASE flips and the waiting trains go on (R98). -/
def State.barFlip (s : State) (w b : Nat) : State :=
  let s1 := s.updBar w b Bar.flip
  { s1 with trains := s1.trains.map fun e => if e.1 / 64 = w then (e.1, e.2.releaseBar b) else e }

/-- Whether a register's own condition holds (R98). -/
def Bar.met (x : Bar) : Bool := x.init && x.arrived == x.expect && x.pend == 0

/-- A workgroup-scope phase completes as soon as its condition holds (R98); a leaf waits for its root (R100). -/
def State.barSettle (s : State) (w b : Nat) : State :=
  match s.wg? w with
  | some g => if (g.bar b).met && !(g.bar b).scope then s.barFlip w b else s
  | none => s

/-- The root completes once every member has arrived (R100). -/
def State.rootSettle (s : State) (g : Wg) (b : Nat) : State :=
  s.updRoot g b fun r =>
    if !r.members.isEmpty && r.members.all r.arrived.contains then { r with arrived := [], since := none, held := 0 } else r

/-- Whether a leaf's broadcast is on its way: it has sent its arrival and the root has completed (R100). -/
def State.broadcastDue (s : State) (w b : Nat) : Bool :=
  match s.wg? w with
  | some g =>
    (g.bar b).sent && match s.root? g b with
      | some r => r.members.contains w && !r.arrived.contains w
      | none => true
  | none => false

/-- A leaf leaves its tree (R100): the root completes if every remaining member has arrived. -/
def State.leaveTree (s : State) (w b : Nat) : State :=
  match s.wg? w with
  | none => s
  | some g =>
    let s1 := s.updRoot g b fun r =>
      { r with members := r.members.filter fun x => x != w, arrived := r.arrived.filter fun x => x != w }
    let s2 := s1.rootSettle g b
    { s2 with roots := s2.roots.filter fun r => !(r.isFor g b && r.members.isEmpty) }

/-- A leaf joins its tree (R100): it has not arrived. -/
def State.joinTree (s : State) (w b : Nat) : State :=
  match s.wg? w with
  | none => s
  | some g =>
    match s.root? g b with
    | some _ => s.updRoot g b fun r =>
        { r with members := if r.members.contains w then r.members else r.members ++ [w]
                 arrived := r.arrived.filter fun x => x != w }
    | none => { s with roots := s.roots ++ [⟨g.slot, g.group, b + 16 * g.mode.num, [w], [], none, 0⟩] }

/-- Bytes of an engine command have landed (R94). -/
def State.barBytes (s : State) (w b n : Nat) : State :=
  (s.updBar w b fun x => { x with pend := x.pend - BitVec.ofNat 32 n }).barSettle w b

/-- The first failure of a phase (R96). -/
def State.barErr (s : State) (w b e : Nat) : State := s.updBar w b fun x => if x.err = 0 then { x with err := e } else x

/-- Whether an arrival has room in the phase (R99). -/
def State.barRoom (s : State) (w b : Nat) : Bool :=
  match s.wg? w with
  | some g => decide ((g.bar b).arrived < (g.bar b).expect)
  | none => true

/-- The streamer arrives (R94). -/
def State.barArrive (s : State) (w b : Nat) : State :=
  (s.updBar w b fun x => { x with arrived := x.arrived + 1 }).barSettle w b

/-! ### The instructions -/

/-- The scope of a register (R148). -/
def Bar.rel (x : Bar) : Nat := if x.scope then 2 else 1

/-- The register that the issuing train names. -/
def Ctx.bar (c : Ctx) (n : BitVec 4) : Bar := c.g.bar n.toNat

/-- From when a register's watchdog counts and what it has counted before (R101, R300). DEDUCED:
notes/assumptions/31.md. -/
def State.watch (s : State) (g : Wg) (b : Nat) : Option Nat × Nat :=
  if (g.bar b).scope then
    match s.root? g b with
    | some r => (r.since, r.held)
    | none => (none, 0)
  else ((g.bar b).since, (g.bar b).held)

/-- The watchdog of trains that wait on a register goes on when a BINI changes its scope: the root's counts for the leaf, or the
leaf's own (R101, R303, R308). -/
def State.keepWatch (s : State) (w b : Nat) (old : Option Nat × Nat) : State :=
  match s.wg? w with
  | none => s
  | some g =>
    if !s.anyWaiter w b then s
    else if (g.bar b).scope then
      (s.updRoot g b fun r => if r.since.isSome then r else { r with since := old.1, held := old.2 }).updBar w b fun x =>
        { x with since := none, held := 0 }
    else s.updBar w b fun x => if x.since.isSome then x else { x with since := old.1, held := old.2 }

/-- BINI (R98, R303). -/
def execBini (a : BitVec 5) (n l : BitVec 4) (s : State) : Out :=
  issue (.bini a n l) s fun c s =>
    let x := (c.k5 a).toNat
    let expect := bitsAt x 0 7
    let b := n.toNat
    if bitsAt x 9 55 ≠ 0 ∨ expect = 0 ∨ 65 < expect then s.raiseUniform c .illegal 0
    else
      let cluster := bitsAt x 8 1 == 1
      let s1 := if s.broadcastDue c.w b then s.barFlip c.w b else s
      let s2 := if (c.bar n).init && (c.bar n).scope && !cluster then s1.leaveTree c.w b else s1
      let s3 := s2.updBar c.w b fun y => { y with
        expect := expect, strm := bitsAt x 7 1 == 1, scope := cluster, init := true
        arrived := 0, pend := 0, err := 0, came := 0, sent := false }
      let s4 := (if cluster then s3.joinTree c.w b else s3).keepWatch c.w b (s.watch c.g b)
      let phase := match s4.wg? c.w with
        | some g => (g.bar b).phase
        | none => false
      let s5 : State := { s4 with trains := s4.trains.map fun e =>
        if e.1 / 64 = c.w then
          (e.1, { e.2 with seen := if phase then e.2.seen ||| (1#16 <<< b) else e.2.seen &&& ~~~(1#16 <<< b) })
        else e }
      s5.finishLater c []

/-- BARV (R99, R300): the arrival is a release at the barrier's scope. -/
def execBarv (n l : BitVec 4) (s : State) : Out :=
  issue (.barv n l) s fun c s =>
    let x := c.bar n
    if !x.init then s.raiseUniform c .illegal 0
    else if x.came.getLsbD c.tr.trn || decide (x.expect ≤ x.arrived) then s.stall c .retry
    else
      let arrive := fun (s : State) =>
        ((s.finishLater c []).updBar c.w n.toNat fun x =>
          { x with arrived := x.arrived + 1, came := x.came ||| (1#64 <<< c.tr.trn) }).barSettle c.w n.toNat
      match s.release c.w c.t c.p x.rel with
      | .done s1 => arrive s1
      | .wait s1 => s1.stall c .retry
      | .lost s1 => arrive s1

/-- BEXP (R301). -/
def execBexp (a : BitVec 5) (n l : BitVec 4) (s : State) : Out :=
  issue (.bexp a n l) s fun c s =>
    if !(c.bar n).init then s.raiseUniform c .illegal 0
    else
      ((s.finishLater c []).updBar c.w n.toNat fun x => { x with pend := x.pend + (c.k5 a).setWidth 32 }).barSettle
        c.w n.toNat

/-- The seen-phase bit of a train (R299). -/
def Train.seenPhase (tr : Train) (b : Nat) : Bool := tr.seen.getLsbD b

/-- Set the seen-phase bit. -/
def Train.setSeen (tr : Train) (b : Nat) (phase : Bool) : Train :=
  { tr with seen := if phase then tr.seen ||| (1#16 <<< b) else tr.seen &&& ~~~(1#16 <<< b) }

/-- An instruction of the barrier unit returns `phase` (R299): it observes a completed phase when that differs from the
seen bit, with the acquire of R148 and ENGINE (R96). `done` is how it ends otherwise; `ws` are its register writes.
DEDUCED: notes/assumptions/30.md. -/
def State.observe (s : State) (c : Ctx) (n : Nat) (phase : Bool) (ws : List RegWrite) : State :=
  let x := c.g.bar n
  if c.tr.seenPhase n = phase then s.finishLater c ws
  else if x.lastErr = 0 then
    ((s.finishLater c ws).acquire c.w c.t x.rel).updTrain c.w c.t fun tr => tr.setSeen n phase
  else if !c.tr.live.isEmpty then s.stall c (.outst (c.tr.live.map fun o => o.id))
  else
    let s1 := (s.acquire c.w c.t x.rel).updTrain c.w c.t fun tr => ws.foldl Train.applyWrite (tr.setSeen n phase)
    s1.raise c (c.fault .engine x.lastVal 0 true false 0)

/-- BTST (R307). -/
def execBtst (a : BitVec 5) (n l : BitVec 4) (s : State) : Out :=
  issue (.btst a n l) s fun c s =>
    let x := c.bar n
    if !x.init then s.raiseUniform c .illegal 0
    else s.observe c n.toNat x.phase [.k a.toNat x.value]

/-- The watchdog of a register starts with its first waiter (R101); a handler runs under none (R248). -/
def State.startWatch (s : State) (c : Ctx) (n : Nat) : State :=
  if c.tr.hmode then s
  else if (c.g.bar n).scope then
    s.updRoot c.g n fun r => if r.since.isSome then r else { r with since := some s.clock }
  else s.updBar c.w n fun x => if x.since.isSome then x else { x with since := some s.clock }

/-- BWAIT (R98, R308): it waits until PHASE differs from the phase bit it names. -/
def execBwait (a : BitVec 5) (n l : BitVec 4) (s : State) : Out :=
  issue (.bwait a n l) s fun c s =>
    let x := c.bar n
    let named := (c.k5 a).getLsbD 0
    if !x.init then s.raiseUniform c .illegal 0
    else
      match c.sp.wait with
      | .flipped ph => s.observe c n.toNat (!ph) []
      | _ =>
        if x.phase = named then (s.startWatch c n.toNat).stall c (.barrier n.toNat named)
        else s.observe c n.toNat x.phase []

/-! ### Cluster trees -/

/-- Whether a leaf may send its arrival (R100). -/
def State.arrivalDue (s : State) (w b : Nat) : Bool :=
  match s.wg? w with
  | some g => (g.bar b).scope && (g.bar b).met && !(g.bar b).sent && (s.root? g b).isSome
  | none => false

/-- CLUSTER_BARRIER_ARRIVAL (R100). -/
def execClusterBarrierArrival (w b : Nat) (s : State) : Out :=
  event true s fun s =>
    match s.wg? w with
    | some g =>
      if s.arrivalDue w b then
        ((s.updBar w b fun x => { x with sent := true }).updRoot g b fun r =>
          { r with arrived := r.arrived ++ [w] }).rootSettle g b
      else s
    | none => s

/-- CLUSTER_BARRIER_BROADCAST (R100). -/
def execClusterBarrierBroadcast (w b : Nat) (s : State) : Out :=
  event true s fun s => if s.broadcastDue w b then s.barFlip w b else s

/-! ### Records -/

/-- A record for a task's event queue, or for the host (R102 to R105). -/
def State.post (s : State) (slot : Nat) (task : Task) (type cause : Nat) (payload : List Byte)
    (outst : Option (Nat × Nat × Nat)) : State :=
  let (n, s1) := s.drawFree
  let p : Post :=
    { slot := slot, sub := task.sub, type := type, cause := cause, evq := task.rcd.evq, task := task.recAddr
      tenant := task.rcd.tenant, port := task.port
      elapsed := if task.dispatched then Config.elapsed n else 0
      payload := payload, outst := outst }
  { s1 with posts := s1.posts ++ [p] }

/-- The trains of a workgroup for which `f` holds, one bit each. -/
def State.trainMask (s : State) (w : Nat) (f : Train → Bool) : Nat :=
  bitsOf (fun i => match s.train? w i with
    | some tr => f tr
    | none => false) 64

/-- The payload of a barrier diagnostic record (R105). -/
def State.diagnostic (s : State) (w b : Nat) (g : Wg) : List Byte :=
  toBytes g.wgid 4 ++ toBytes b 1 ++ toBytes g.lpid 1 ++ toBytes 0 2 ++ toBytes (g.bar b).value.toNat 8
    ++ toBytes (g.bar b).came.toNat 8 ++ toBytes (s.trainMask w fun tr => tr.ended) 8
    ++ toBytes (s.trainMask w fun tr => tr.waitsOn b) 8

/-! ### The end of a workgroup -/

/-- A workgroup leaves every tree that it is a member of (R100). -/
def State.leaveTrees (s : State) (w : Nat) : State := (List.range 16).foldl (fun s b => s.leaveTree w b) s

/-- The accumulator tiles of an ended context die, and VALID clears where OWNER names it (R245). -/
def State.dropTiles (s : State) (g : Wg) : State :=
  let co := s.core g.lastCore
  if g.place != .ended && co.valid && co.owner == g.ctx then
    s.setCore g.lastCore { co with live := 0, valid := false }
  else s

/-- Engine commands of a workgroup that have not finished are dropped (R245, R246). -/
def State.dropCommands (s : State) (w : Nat) : State :=
  { s with strQ := s.strQ.filter fun q => q.w != w, seqQ := s.seqQ.filter fun q => q.w != w
           doms := Cells.mapVals (fun d => { d with queue := d.queue.filter fun q => q.w != w }) s.doms
           colls := s.colls.filter fun x => !(s.strQ.any fun q => q.w == w && q.id == x.cmd) }

/-- One run of a workgroup ends before its trains do (R245 steps 2 to 4). -/
def State.endRun (s : State) (w : Nat) : State :=
  match s.wg? w with
  | none => s
  | some g =>
    (((((s.stopTrains w).dropCommands w).dropHoldings w).leaveTrees w).dropTiles g).markWgEnded w

/-- The other copy of a checked pair (R226). -/
def State.partner? (s : State) (w : Nat) (g : Wg) : Option Nat :=
  (s.wgs.zipIdx.find? fun e => e.2 != w && e.1.slot == g.slot && e.1.sub == g.sub && e.1.wgid == g.wgid &&
    e.1.place != .ended && ((g.mode == .primary && e.1.mode == .trail) || (g.mode == .trail && e.1.mode == .primary))).map
      fun e => e.2

/-- The runs that end with a run: those that follow it, or the copy that it follows (R226). -/
def State.followers (s : State) (w : Nat) (g : Wg) : List Nat :=
  if g.mode = .primary then
    (s.wgs.zipIdx.filter fun e => e.2 != w && e.1.slot == g.slot && e.1.sub == g.sub && e.1.wgid == g.wgid &&
      e.1.place != .ended).map fun e => e.2
  else (s.partner? w g).toList

/-- The task keeps its first workgroup that ends by R245, of those of one cycle the one with the lowest WGID. -/
def Task.noteEnd (t : Task) (e : EndInfo) (clock : Nat) : Task :=
  match t.firstEnd with
  | none => { t with firstEnd := some e, firstAt := clock }
  | some x => if t.firstAt = clock ∧ e.wgid < x.wgid then { t with firstEnd := some e } else t

/-- A workgroup ends by R245, with the other copy of a checked pair. DEDUCED: notes/assumptions/61.md. -/
def State.endWorkgroup (s : State) (w : Nat) (e : EndInfo) : State :=
  match s.wg? w with
  | none => s
  | some g =>
    let s1 := (s.endRun w).updTask g.slot fun t => t.noteEnd e s.clock
    (s.followers w g).foldl (fun (s : State) v => s.endRun v) s1

/-- When a register's watchdog of a workgroup expires (R101): none while it does not count. -/
def State.watchDue (s : State) (w b : Nat) : Option Nat :=
  match s.wg? w with
  | some g =>
    match s.watch g b with
    | (some since, held) =>
      if g.wdg ≠ 0 ∧ g.core?.isSome ∧ s.anyWaiter w b then some (since + (g.wdg.toNat - held)) else none
    | _ => none
  | none => none

/-- The lowest-numbered train that waits on a register, and the address of its BWAIT (R245). -/
def State.waitPc (s : State) (w b : Nat) : W64 :=
  let pcs := (List.range 64).filterMap fun i => match s.train? w i with
    | some tr => (tr.splits.find? fun q => q.waitsOn b).map fun q => q.pc
    | none => none
  pcs.headD 0

/-- The other workgroups of a task whose watchdogs have run out by a cycle, each with its lowest register (R245). -/
def State.expiring (s : State) (slot w due : Nat) : List (Nat × Nat) :=
  (List.range s.wgs.length).filterMap fun v =>
    if v = w ∨ (s.wg? v).all fun g => g.slot != slot then none
    else (firstFrom (fun b => (s.watchDue v b).any fun d => decide (d ≤ due)) 16 0).map fun b => (v, b)

/-- The watchdog of a register of workgroup `w` has run out (R101, R105, R245); `at'` is the machine in that cycle. -/
def State.expire (s at' : State) (slot : Nat) (task : Task) (w b : Nat) : State :=
  match s.wg? w with
  | none => s
  | some g =>
    if g.place = .ended then s
    else
      let s1 := if g.mode = .primary then s.post slot task 3 0x0E (at'.diagnostic w b g) none else s
      s1.endWorkgroup w ⟨.barrierTimeout, at'.waitPc w b, BitVec.ofNat 64 b, 0, g.wgid⟩

/-- BARRIER_TIMEOUT (R101, R105, R245), with the workgroups of its task whose watchdogs run out in the same cycle. -/
def execBarrierTimeout (w b : Nat) (s : State) : Out :=
  event true s fun s =>
    match s.wg? w, s.watchDue w b with
    | some g, some due =>
      match s.taskOf? g with
      | none => s
      | some task =>
        let s1 := { s with clock := max s.clock due }
        ((w, b) :: s.expiring g.slot w due).foldl (fun (x : State) e => x.expire s1 g.slot task e.1 e.2) s1
    | _, _ => s

end Sys2Proof.Machine
end

