-- ==== Sys2Proof/Machine/Fence.lean ====
section
/-! DEFINITION. FENCE (R139 to R141, R144, R151, R265, R337). -/

namespace Sys2Proof.Machine

/-- Whether an instruction is a load or an atomic (R139). -/
def isLoadOrAtomic : Instr → Bool
  | .ld _ _ _ _ _ _ => true
  | .ldS _ _ _ _ _ _ => true
  | .ldk _ _ _ _ _ => true
  | i => (atomOf i).isSome

/-- What a FENCE waits for first (R139): of every split the loads and atomics; a FULL one everything outstanding. What another split
has outstanding need only have its results: that split's own window hides them until it closes (R327). -/
def Ctx.fenceAwaits (c : Ctx) (full : Bool) : List Nat :=
  (c.tr.live.filter fun o => (full || isLoadOrAtomic o.insn) && (o.split == c.p || !o.finished)).map fun o => o.id

/-- Whether an engine or sequencer command of the train runs (R139, R82, R316). -/
def State.engineBusy (s : State) (w t : Nat) : Bool :=
  (s.strQ.any fun q => q.w == w && q.t == t) || (s.seqQ.any fun q => q.w == w && q.t == t) || !s.engineQuiet w t

/-- FENCE (R139, R337). -/
def execFence (sc : BitVec 3) (k : BitVec 2) (s : State) : Out :=
  issue (.fence sc k) s fun c s =>
    let full := k == 3#2
    let ids := c.fenceAwaits full
    let n := s.runScope c.task.rcd.tenant sc.toNat
    let s0 := s.noteDemoted c.w c.t c.task.rcd.tenant sc.toNat
    if !ids.isEmpty then s.stall c (.outst ids)
    else if full && s.engineBusy c.w c.t then s.stall c .retry
    else if k = 0#2 then (s0.acquire c.w c.t n).retire c
    else
      let acq := fun (s : State) => if k = 1#2 then s else s.acquire c.w c.t n
      match s0.release c.w c.t c.p n with
      | .done s1 => (acq s1).retire c
      | .wait s1 => s1.stall c .retry
      | .lost s1 => (acq s1).raise c (c.fault .fenceLost 0 0 true true 0)

end Sys2Proof.Machine
end

