-- ==== Sys2Proof/Machine/Shape.lean ====
section
/-! DEFINITION. Tensor shape records and their boxes (R90 to R93, R318, R319), records read at issue. -/

namespace Sys2Proof.Machine

/-! ### Reads at issue -/

/-- What a read of global memory at issue finds (R128, R147, R175). -/
inductive IssueRead where
  | ok (s : State) (bytes : List Byte) (poison : Bool)
  | stop (s : State)
  | ends (cause : Cause)

/-- Read `n` bytes at `va` for the issuing train, behind its earlier writes (R147): lines of other chips come first. `j` and `pos`
name the read in the log. -/
def State.issueRead (s : State) (c : Ctx) (j pos va n : Nat) : IssueRead :=
  let vas := (List.range n).map fun i => va + i
  if s.atomsOn c.w c.t c.g c.task c.tr.hmode vas then .stop (s.stall c .retry)
  else
    match if c.g.mode.engineLog then none else s.missing c.g c.task c.tr.hmode vas with
    | some pa => .stop (s.askLine c pa)
    | none =>
      match s.engGather c.w c.t c.tr.hmode j ⟨c.sp.dix, c.sub, pos⟩ vas (s.fromCore c.g c.task c.tr.hmode vas) with
      | .ok s1 bs p => .ok (s1.dropInbox c.g c.task c.tr.hmode vas) bs p
      | .wait s1 => .stop (s1.stall c .retry)
      | .ends cause => .ends cause

/-- The number in `n` bytes from offset `o` of a record. -/
def fieldOfBytes (bs : List Byte) (o n : Nat) : Nat := ofBytes ((bs.drop o).take n)

/-! ### Shape records -/

/-- The bytes between elements of dimension 0: 12 per group of 16 for LG6, else the element size (R90). -/
def fmtUnit (f : Fp.Fmt) : Nat := if f = .lg6 then 12 else f.width / 8

/-- The fields of a record (R90). -/
def Shape.parse (bs : List Byte) : Shape :=
  let w := fieldOfBytes bs 8 8
  { base := fieldOfBytes bs 0 8
    slot := bitsAt w 0 3
    rank := bitsAt w 4 3
    swz := bitsAt w 8 3
    rd := bitsAt w 12 1 == 1
    wr := bitsAt w 13 1 == 1
    pad := fieldOfBytes bs 16 8
    dim := (List.range 5).map fun d => fieldOfBytes bs (0x18 + 8 * d) 8
    stride := (List.range 4).map fun d => fieldOfBytes bs (0x40 + 8 * d) 8
    box := (List.range 5).map fun d => fieldOfBytes bs (0x60 + 4 * d) 4 }

/-- The element format of a record (R90). -/
def Shape.fmt (x : Shape) (r : Record) : Fp.Fmt := slotFmt (r.slotW x.slot)

/-- Elements of a box. -/
def Shape.count (x : Shape) : Nat := x.box.foldl (· * ·) 1

/-- Bytes of a box's row (dimension 0). -/
def Shape.rowBytes (x : Shape) (r : Record) : Nat :=
  if x.fmt r = .lg6 then x.box.getD 0 0 / 16 * 12 else x.box.getD 0 0 * fmtUnit (x.fmt r)

/-- Bytes of a box's dense image (R92). -/
def Shape.imageBytes (x : Shape) (r : Record) : Nat := x.rowBytes r * (x.box.drop 1).foldl (· * ·) 1

/-- Whether a record is malformed, for a copy from the tensor or into it (R91). -/
def Shape.malformed (x : Shape) (bs : List Byte) (r : Record) (into : Bool) : Bool :=
  let w := fieldOfBytes bs 8 8
  let u := fmtUnit (x.fmt r)
  let base := BitVec.ofNat 64 x.base
  bitsAt w 3 1 != 0 || bitsAt w 7 1 != 0 || bitsAt w 11 1 != 0 || bitsAt w 14 50 != 0 ||
    fieldOfBytes bs 0x74 0x4C != 0 || x.rank == 0 || decide (5 < x.rank) || decide (3 < x.swz) ||
    slotElem (r.slotW x.slot) == 11 ||
    (x.dim.any fun d => d == 0 || decide (2 ^ 32 < d)) || ((x.dim.drop x.rank).any fun d => d != 1) ||
    (x.stride.any fun d => !aligned d u) ||
    (x.box.any fun b => b == 0 || decide (256 < b)) || (x.fmt r == .lg6 && !aligned (x.box.getD 0 0) 16) ||
    (match spaceOf base with
      | .glob _ => false
      | _ => true) || !aligned x.base u ||
    decide (65536 < x.imageBytes r) || !(if into then x.wr else x.rd)

/-! ### Boxes -/

/-- The coordinates of element `k` of a box, in row-major order with dimension 0 fastest (R92). -/
def boxCoords : List Nat → Nat → List Nat
  | [], _ => []
  | b :: bs, k => k % b :: boxCoords bs (k / b)

/-- Where element `k` of a box with an origin lies in the tensor: the address of its first byte and, for LG6, the bit in
it; none outside the tensor (R90, R92). -/
def Shape.locate (x : Shape) (r : Record) (origin : List Int) (k : Nat) : Option (Nat × Nat) :=
  let cs := (boxCoords x.box k).zip origin |>.map fun e => (e.1 : Int) + e.2
  if (cs.zip x.dim).all fun e => decide (0 ≤ e.1) && decide (e.1 < (e.2 : Int)) then
    let ns := cs.map Int.toNat
    let rest := ((ns.drop 1).zip x.stride).foldl (fun a e => a + e.1 * e.2) 0
    let x0 := ns.getD 0 0
    if x.fmt r = .lg6 then
      let p := 6 * (x0 % 16)
      some (x.base + x0 / 16 * 12 + p / 8 + rest, p % 8)
    else some (x.base + x0 * fmtUnit (x.fmt r) + rest, 0)
  else none

/-- The bytes that an element touches from its first on (R54, R90). -/
def elemBytes (f : Fp.Fmt) (bit : Nat) : Nat := if f = .lg6 then (if 2 < bit then 2 else 1) else fmtUnit f

/-- Where byte `o` of the dense image is stored, and the other way round (R92): the 16-byte units of each span of
`16 × 2^s` bytes are exchanged. -/
def swizzle (swz o : Nat) : Nat :=
  if swz = 0 then o
  else
    let sp := 16 * 2 ^ swz
    o / sp * sp + ((o % sp / 16) ^^^ (o / sp % (sp / 16))) * 16 + o % 16

/-- The elements that byte `o` of the dense image holds (R92): for LG6 those whose bits lie in it. -/
def Shape.elemsAt (x : Shape) (r : Record) (o : Nat) : List Nat :=
  if x.fmt r = .lg6 then
    let b := o % 12
    let lo := 8 * b / 6
    (List.range ((8 * b + 7) / 6 - lo + 1)).map fun i => o / 12 * 16 + lo + i
  else [o / fmtUnit (x.fmt r)]

/-- Byte `o` of the dense image from the patterns of its elements. -/
def Shape.imageByte (x : Shape) (r : Record) (val : Nat → Nat) (o : Nat) : Byte :=
  if x.fmt r = .lg6 then
    BitVec.ofNat 8 (((x.elemsAt r o).foldl (fun n e => n + val e % 64 * 2 ^ (6 * (e % 16))) 0) >>> (8 * (o % 12)))
  else
    let u := fmtUnit (x.fmt r)
    BitVec.ofNat 8 (val (o / u) >>> (8 * (o % u)))

/-- The addresses that elements of a box are read at, each with its element; elements outside the tensor give none. -/
def Shape.sources (x : Shape) (r : Record) (origin : List Int) (es : List Nat) : List (Nat × Nat × Nat) :=
  es.filterMap fun e => (x.locate r origin e).map fun a => (e, a.1, a.2)

/-- The pattern of element `e` from the bytes that were read, PAD outside the tensor (R92). -/
def Shape.pattern (x : Shape) (r : Record) (srcs : List (Nat × Nat × Nat)) (bs : List Byte) (e : Nat) : Nat :=
  let f := x.fmt r
  let rec go : List (Nat × Nat × Nat) → List Byte → Nat
    | [], _ => x.pad
    | (e', _, bit) :: rest, bs =>
      let n := elemBytes f bit
      if e' = e then (ofBytes (bs.take n)) >>> bit else go rest (bs.drop n)
  go srcs bs

end Sys2Proof.Machine
end

