-- ==== Sys2Proof/Machine/Streamer.lean ====
section
/-! DEFINITION. The streamer: CPY and CPYT at issue (R94, R316, R317, R319), its transfers (R92, R94, R96, R128, R160,
R164), what every command of it shares. CPYM and CLST stand in files of their own. -/

namespace Sys2Proof.Machine

/-! ### The queue -/

/-- The commands in the streamer queue of a core. -/
def State.streamerOf (s : State) (core : Nat) : List StrCmd := s.strQ.filter fun q => s.coreOf q.w == some core

/-- Whether a core's streamer queue is full (R94). -/
def State.streamerFull (s : State) (core : Nat) : Bool := decide (16 ≤ (s.streamerOf core).length)

/-- The command with an id. -/
def State.strCmd? (s : State) (id : Nat) : Option StrCmd := s.strQ.find? fun q => q.id == id

/-- Change the command with an id. -/
def State.updStr (s : State) (id : Nat) (f : StrCmd → StrCmd) : State :=
  { s with strQ := s.strQ.map fun q => if q.id = id then f q else q }

/-- The barrier that a copy names (R316). -/
def copyBar (n : BitVec 4) (z : BitVec 1) : Option Nat := if z = 1#1 then none else some n.toNat

/-- Whether a command may name its barrier (R316): INIT 1, and STRM 1 for .ARV. -/
def Ctx.barOk (c : Ctx) (bar : Option Nat) (arv : Bool) : Bool :=
  match bar with
  | some b => (c.g.bar b).init && (!arv || (c.g.bar b).strm)
  | none => true

/-- Whether a command writes global memory: then it has a place in the engine digest (R219). -/
def StrKind.folds : StrKind → Bool
  | .linear toShare _ _ _ => !toShare
  | .box toShare _ _ _ => !toShare
  | .tile _ _ _ _ => false
  | .coll _ _ _ => true

/-- The terms of a descriptor. DEDUCED: notes/assumptions/72.md. -/
def CollDesc.terms (x : CollDesc) (r : Record) (slot : Nat) : CollTerms := ⟨x.count, x.chips, x.root, x.op, slotElem (r.slotW slot)⟩

/-- The lowest free reduction context that the host has given a tenant (R256): its owner register names the tenant, with VALID. -/
def State.freeContext (s : State) (tenant : Nat) : Option Nat :=
  firstFrom (fun i =>
    let x := s.redOwner.val 0 i
    x.getLsbD 4 && bitsAt x.toNat 0 4 == tenant && !(s.colls.any fun k => k.ctx == some i)) 16 0

/-- A collective is announced at its issue, the order in which it matches the other chips' (R312); it takes a free context of its
tenant, or runs as an endpoint reduction, to the same bits (R256). -/
def State.announce (s : State) (c : Ctx) (cmd : Nat) : StrKind → State
  | .coll fn desc slot =>
    if c.g.mode.follows then s
    else
      let (id, s1) := s.fresh
      let tenant := c.task.rcd.tenant
      { s1 with colls := s1.colls ++ [⟨id, tenant, fn, desc.tag, cmd, s1.freeContext tenant,
        [(s1.chipId, ⟨[], [], false, desc.terms c.task.rcd slot⟩)]⟩] }
  | _ => s

/-- The streamer accepts a command (R94): its instruction has completed its issue (R316). -/
def State.enqueue (s : State) (c : Ctx) (kind : StrKind) (bar : Option Nat) (arv : Bool) (ops : List W64) : State :=
  match s.train? c.w c.t with
  | none => s
  | some tr =>
    let (id, s1) := s.fresh
    let once := match kind with
      | .coll _ _ _ => true
      | _ => false
    let checked := c.task.rcd.integ == 3
    let cmd : StrCmd :=
      { id := id, w := c.w, t := c.t, kind := kind, bar := bar, arv := arv, started := false, pos := 0, failed := false
        mstrId := none, fence := tr.nextId, hand := c.tr.hmode
        ready := !(checked && once && c.g.mode == .primary), origin := { c.newOutst tr 0 with window := 0, ops := ops }, total := none
        sent := none }
    let s2 := State.announce { s1 with strQ := s1.strQ ++ [cmd] } c id kind
    let s3 := if kind.folds then s2.updTrain c.w c.t fun tr => tr.edOpen (2 * id + 1) else s2
    (s3.note c.w c.t c.key (.command c.insn ops) (if once then some id else none)).retire c

/-- Issue a streamer command: the queue (R94), the barrier (R316), then `body`. -/
def State.streamerIssue (s : State) (c : Ctx) (bar : Option Nat) (arv : Bool) (body : State → State) : State :=
  if s.streamerFull c.core then s.stall c .retry
  else if !c.barOk bar arv then s.raiseUniform c .illegal 0
  else body s

/-- Whether an address lies in the scratchpad space. -/
def isShare (a : W64) : Bool :=
  match spaceOf a with
  | .share _ _ => true
  | _ => false

/-- Whether an address lies in the global space. -/
def isGlob (a : W64) : Bool :=
  match spaceOf a with
  | .glob _ => true
  | _ => false

/-- CPY (R317): the checks in their order, the destination before the source. DEDUCED: notes/assumptions/34.md. -/
def copyLinear (i : Instr) (toShare : Bool) (a b : BitVec 5) (n : BitVec 4) (v z : BitVec 1) (s : State) : Out :=
  issue i s fun c s =>
    let dst := c.k5 a
    let src := c.k5 b
    let count := c.tr.getK (b.toNat + 1)
    let bar := copyBar n z
    s.streamerIssue c bar (v == 1#1) fun s =>
      if !(if toShare then isShare dst else isGlob dst) then s.raiseUniform c .space dst
      else if !(if toShare then isGlob src else isShare src) then s.raiseUniform c .space src
      else if !aligned dst.toNat 16 then s.raiseUniform c .misaligned dst
      else if !aligned src.toNat 16 then s.raiseUniform c .misaligned src
      else if !aligned count.toNat 16 then s.raiseUniform c .misaligned count
      else if 0x1000000 < count.toNat then s.raiseUniform c .illegal 0
      else s.enqueue c (.linear toShare dst src count.toNat) bar (v == 1#1) [dst, src, count]

/-- CPY.G2S (R317). -/
def execCpyG2s (a b : BitVec 5) (n : BitVec 4) (v z : BitVec 1) (l : BitVec 4) (s : State) : Out :=
  copyLinear (.cpyG2s a b n v z l) true a b n v z s

/-- CPY.S2G (R317). -/
def execCpyS2g (a b : BitVec 5) (n : BitVec 4) (v z : BitVec 1) (l : BitVec 4) (s : State) : Out :=
  copyLinear (.cpyS2g a b n v z l) false a b n v z s

/-- The origin of a box in five registers' halves (R319). -/
def Ctx.origin (c : Ctx) (b : BitVec 5) : List Int :=
  (List.range 5).map fun i => signedOf 32 (bitsAt (c.tr.getK (b.toNat + 1 + i / 2)).toNat (32 * (i % 2)) 32)

/-- The record cache's word on an address (R93): the entry, if it is used instead of memory. DEDUCED:
notes/assumptions/10.md. -/
def State.cachedRecord (s : State) (core addr : Nat) : Option (List Byte) × State :=
  match (s.core core).recs.find? fun e => e.addr == addr with
  | some e =>
    let (n, s1) := s.drawFree
    if Config.recordFromMemory n then (none, s1) else (some e.bytes, s1)
  | none => (none, s)

/-- A record read from memory enters the cache of 64 (R93). -/
def State.cacheRecord (s : State) (core addr : Nat) (bs : List Byte) : State :=
  let co := s.core core
  s.setCore core { co with recs := (⟨addr, bs⟩ :: co.recs.filter fun e => e.addr != addr).take 64 }

/-- Take a record at issue (R91, R93): from the cache or from memory. A poisoned one raises POISON, a copy with a malformed
one RECORD. -/
def State.withShape (s : State) (c : Ctx) (a : W64) (into : Bool) (k : Shape → State → State) : State :=
  let va := a.toNat % 2 ^ 48
  let use := fun (bs : List Byte) (s : State) =>
    let x := Shape.parse bs
    if x.malformed bs c.task.rcd into then s.raiseUniform c .record a else k x s
  let (cached, s1) := if c.g.mode.engineLog then (none, s) else s.cachedRecord c.core va
  match cached with
  | some bs => use bs (s1.logEngine c.g c.tr.trn 33 ⟨c.sp.dix, c.sub, recordPos⟩ bs false)
  | none =>
    match s1.issueRead c 33 recordPos va 192 with
    | .ok s2 bs poison =>
      if poison then s2.raise c (c.fault .poison a 0 true true 0) else use bs (s2.cacheRecord c.core va bs)
    | .stop s2 => s2
    | .ends cause => s1.raiseUniform c cause a

/-- CPYT (R319). -/
def copyBox (i : Instr) (toShare : Bool) (a b : BitVec 5) (n : BitVec 4) (v z : BitVec 1) (s : State) : Out :=
  issue i s fun c s =>
    let scr := c.k5 a
    let rec' := c.k5 b
    let bar := copyBar n z
    s.streamerIssue c bar (v == 1#1) fun s =>
      if !isGlob rec' then s.raiseUniform c .space rec'
      else if !aligned rec'.toNat 64 then s.raiseUniform c .misaligned rec'
      else if !aligned scr.toNat 16 then s.raiseUniform c .misaligned scr
      else if !isShare scr then s.raiseUniform c .space scr
      else
        s.withShape c rec' (!toShare) fun x s =>
          s.enqueue c (.box toShare scr x (c.origin b)) bar (v == 1#1)
            [scr, rec', c.tr.getK (b.toNat + 1), c.tr.getK (b.toNat + 2), c.tr.getK (b.toNat + 3)]

/-- CPYT.G2S (R319). -/
def execCpytG2s (a b : BitVec 5) (n : BitVec 4) (v z : BitVec 1) (l : BitVec 4) (s : State) : Out :=
  copyBox (.cpytG2s a b n v z l) true a b n v z s

/-- CPYT.S2G (R319). -/
def execCpytS2g (a b : BitVec 5) (n : BitVec 4) (v z : BitVec 1) (l : BitVec 4) (s : State) : Out :=
  copyBox (.cpytS2g a b n v z l) false a b n v z s

/-! ### Transfers -/

/-- The key of a transfer of a command. -/
def StrCmd.key (q : StrCmd) (pos : Nat) : StepKey := ⟨q.origin.dix, q.origin.sub, pos⟩

/-- The bytes from an address to the end of its sector, at most `n`. -/
def toSectorEnd (a n : Nat) : Nat := min (32 - a % 32) n

/-- The bytes from an address to the end of its line, at most `n`. -/
def toLineEnd (a n : Nat) : Nat := min (128 - a % 128) n

/-- Whether a list of addresses leaves the global space (R106): such an access is malformed (R96). -/
def outOfGlobal (vas : List Nat) : Bool := vas.any fun va => decide (2 ^ 48 ≤ va)

/-- Elements from `k` on in one row and one destination sector. -/
def Shape.runFrom (x : Shape) (r : Record) (origin : List Int) (k : Nat) : Nat :=
  match x.locate r origin k with
  | none => 1
  | some (a, _) =>
    let u := fmtUnit (x.fmt r)
    let row := x.box.getD 0 1 - k % x.box.getD 0 1
    let most := min row (max 1 ((32 - a % 32) / u))
    max 1 ((List.range most).takeWhile fun i => (x.locate r origin (k + i)).isSome).length

/-- The bytes of one LG6 element at its home: address, mask, and the shift of its pattern. -/
def lg6Bytes (a bit : Nat) : List (Nat × Byte × Int) :=
  let m := 0x3F * 2 ^ bit
  (a, BitVec.ofNat 8 m, (bit : Int)) :: (if 2 < bit then [(a + 1, BitVec.ofNat 8 (m / 256), (bit : Int) - 8)] else [])

/-- A pattern shifted left, or right for a negative count. -/
def shiftBits (x : Nat) (n : Int) : Nat := if 0 ≤ n then x * 2 ^ n.toNat else x / 2 ^ (-n).toNat

/-- Merge masked bytes at one address, keeping addresses in order. -/
def mergeByte (b : WByte) : List WByte → List WByte
  | [] => [b]
  | x :: xs =>
    if x.va = b.va then ⟨x.va, x.mask ||| b.mask, maskByte x.val b.mask b.val⟩ :: xs else x :: mergeByte b xs

/-- The bytes that a box's unit from element `k` writes to global memory, and how many of them count (R319): `img o` is
byte `o` of the dense image. -/
def Shape.outBytes (x : Shape) (r : Record) (origin : List Int) (k span : Nat) (img : Nat → Byte) : List WByte × Nat :=
  if x.fmt r = .lg6 then
    let bs := (List.range span).flatMap fun i =>
      match x.locate r origin (k + i) with
      | some (a, bit) =>
        let o := (k + i) / 16 * 12
        let group := ofBytes ((List.range 12).map fun b => img (o + b))
        let v := bitsAt group (6 * ((k + i) % 16)) 6
        (lg6Bytes a bit).map fun e => (⟨e.1, e.2.1, BitVec.ofNat 8 (shiftBits v e.2.2)⟩ : WByte)
      | none => []
    (bs.foldl (fun acc b => mergeByte b acc) [], if bs.isEmpty then 0 else 12)
  else
    let u := fmtUnit (x.fmt r)
    let bs := (List.range span).flatMap fun i =>
      match x.locate r origin (k + i) with
      | some (a, _) => (List.range u).map fun b => (⟨a + b, 0xFF, img ((k + i) * u + b)⟩ : WByte)
      | none => []
    (bs, bs.length)

/-- Elements of a unit of a copy into a tensor. -/
def Shape.outSpan (x : Shape) (r : Record) (origin : List Int) (k : Nat) : Nat :=
  if x.fmt r = .lg6 then 16 else x.runFrom r origin k

/-- Bytes that a copy into a tensor still counts from element `k` on. -/
def Shape.outLeft (x : Shape) (r : Record) (origin : List Int) (k : Nat) : Nat :=
  if x.fmt r = .lg6 then
    12 * ((List.range ((x.count - k) / 16)).filter fun g =>
      (List.range 16).any fun i => (x.locate r origin (k + 16 * g + i)).isSome).length
  else
    fmtUnit (x.fmt r) * ((List.range (x.count - k)).filter fun i => (x.locate r origin (k + i)).isSome).length

/-- How one unit ends. -/
inductive UnitRes where
  | ok (s : State) (pos counted : Nat)
  | wait (s : State)
  | fail (err : Nat)
  | ends (cause : Cause) (addr : Nat)

/-- The unit of an engine read, turned into a unit's result where it does not succeed. -/
def EngRead.andThen (r : EngRead) (addr : Nat) (k : State → List Byte → Bool → UnitRes) : UnitRes :=
  match r with
  | .ok s bs p => k s bs p
  | .wait s => .wait s
  | .ends cause => .ends cause addr

/-- The same of a scratchpad access. -/
def EngShare.andThen (r : EngShare) (k : State → List Byte → Bool → UnitRes) : UnitRes :=
  match r with
  | .ok s bs p => k s bs p
  | .wait s => .wait s
  | .fail e => .fail e
  | .ends cause => .ends cause 0

/-- The same of a global write; its bytes enter the engine digest (R219). -/
def State.strWrite (s : State) (q : StrCmd) (pos : Nat) (bs : List WByte) (poison : Bool) (k : State → UnitRes) : UnitRes :=
  if outOfGlobal (bs.map fun b => b.va) then .fail 4
  else match s.engWrite q.w q.t q.hand false (q.key pos) bs poison with
  | .ok s1 => k (s1.updTrain q.w q.t fun tr => tr.edAdd (2 * q.id + 1) bs)
  | .wait s1 => .wait s1
  | .ends cause => .ends cause ((bs.map fun b => b.va).headD 0)
  | .full _ => .fail 1
  | .lehr => .wait (s.stopAtLehr q.w)

/-- Read the dense image's bytes from a scratchpad address, each where swizzling stored it (R92). -/
def State.readImage (s : State) (q : StrCmd) (scr : W64) (swz : Nat) : List Nat → List Byte → UnitRes →
    (State → List Byte → UnitRes) → UnitRes
  | [], acc, _, k => k s acc.reverse
  | o :: os, acc, dflt, k =>
    (s.engShareRead q.w q.t (scr + BitVec.ofNat 64 (swizzle swz o)) 1).andThen fun s1 bs p =>
      if p then .fail 2 else State.readImage s1 q scr swz os (bs.getD 0 0 :: acc) dflt k

/-- One unit of CPY (R317): up to a destination sector, or a line of the scratchpad, which it then writes whole (R117). -/
def State.linearUnit (s : State) (q : StrCmd) (toShare : Bool) (dst src : W64) (count : Nat) (d : RemoteData) : UnitRes :=
  let n := if toShare then toLineEnd (dst.toNat + q.pos) (count - q.pos) else toSectorEnd (dst.toNat + q.pos) (count - q.pos)
  let dst' := dst + BitVec.ofNat 64 q.pos
  let src' := src + BitVec.ofNat 64 q.pos
  if toShare then
    if outOfGlobal [src'.toNat + (n - 1)] then .fail 4
    else (s.engRead q.w q.t q.hand 33 (q.key q.pos) src'.toNat n d).andThen src'.toNat fun s1 bs p =>
      if p then .fail 2
      else (s1.engShareWrite q.w q.t dst' bs false).andThen fun s2 _ _ => .ok s2 (q.pos + n) n
  else
    (s.engShareRead q.w q.t src' n).andThen fun s1 bs p =>
      if p then .fail 2
      else s1.strWrite q q.pos (wbytesAt dst'.toNat bs) false fun s2 => .ok s2 (q.pos + n) n

/-- Bytes of a box's dense image at stored positions, read from the tensor (R92). -/
def State.readBox (s : State) (q : StrCmd) (r : Record) (x : Shape) (origin : List Int) (os : List Nat) (d : RemoteData)
    (k : State → List Byte → UnitRes) : UnitRes :=
  let es := (os.flatMap fun o => x.elemsAt r o).eraseDups
  let srcs := x.sources r origin es
  let vas := srcs.flatMap fun e => (List.range (elemBytes (x.fmt r) e.2.2)).map fun i => e.2.1 + i
  if outOfGlobal vas then .fail 4
  else (s.engGather q.w q.t q.hand 33 (q.key q.pos) vas d).andThen (vas.headD 0) fun s1 bs p =>
    if p then .fail 2 else k s1 (os.map fun o => x.imageByte r (x.pattern r srcs bs) o)

/-- One unit of CPYT.G2S: up to a line of the image, or one of its 16-byte units, which goes where swizzling stores it (R92,
R319). -/
def State.boxInUnit (s : State) (q : StrCmd) (r : Record) (scr : W64) (x : Shape) (origin : List Int) (d : RemoteData) :
    UnitRes :=
  let left := x.imageBytes r - q.pos
  let n := if x.swz = 0 then toLineEnd (scr.toNat + q.pos) left else min (16 - q.pos % 16) left
  let os := (List.range n).map fun i => q.pos + i
  s.readBox q r x origin os d fun s1 bs =>
    (s1.engShareWrite q.w q.t (scr + BitVec.ofNat 64 (swizzle x.swz q.pos)) bs false).andThen fun s2 _ _ => .ok s2 (q.pos + n) n

/-- One unit of CPYT.S2G: elements of one row in one destination sector, or one LG6 group (R92, R319). -/
def State.boxOutUnit (s : State) (q : StrCmd) (r : Record) (scr : W64) (x : Shape) (origin : List Int) : UnitRes :=
  let span := x.outSpan r origin q.pos
  let u := fmtUnit (x.fmt r)
  let lo := if x.fmt r = .lg6 then q.pos / 16 * 12 else q.pos * u
  let n := if x.fmt r = .lg6 then 12 else span * u
  let some' := (List.range span).any fun i => (x.locate r origin (q.pos + i)).isSome
  if !some' then .ok s (q.pos + span) 0
  else
    s.readImage q scr x.swz ((List.range n).map fun i => lo + i) [] (.wait s) fun s1 img =>
      let (bs, counted) := x.outBytes r origin q.pos span fun o => img.getD (o - lo) 0
      s1.strWrite q q.pos bs false fun s2 => .ok s2 (q.pos + span) counted

/-- Where a command's transfer ends (`StrCmd.pos` counts bytes of the image or, into a tensor, elements). -/
def StrKind.size (k : StrKind) (r : Record) : Nat :=
  match k with
  | .linear _ _ _ n => n
  | .box toShare _ x _ => if toShare then x.imageBytes r else x.count
  | .tile _ x _ _ => x.imageBytes r
  | .coll _ _ _ => 0

/-- The destination bytes that a command has not counted yet (R96). -/
def StrCmd.left (q : StrCmd) (r : Record) : Nat :=
  match q.kind with
  | .box false _ x origin => x.outLeft r origin q.pos
  | k => k.size r - q.pos

end Sys2Proof.Machine
end

