-- ==== Sys2Proof/Machine/Tiles.lean ====
section
/-! DEFINITION. Tile registers (R75 to R77), planes (R78, R79), the accumulator store (R84 to R87), fusion groups (R88, R198),
the sequencer's queue (R82). -/

namespace Sys2Proof.Machine

/-! ### Rows -/

/-- Replace bits `[lo + w - 1 : lo]` of a number. -/
def putBits (n lo w x : Nat) : Nat := n - (bitsAt n lo w) * 2 ^ lo + (x % 2 ^ w) * 2 ^ lo

/-- The lowest bit of element `c` of a row (R75). -/
def elemPos (f : Fp.Fmt) (c : Nat) : Nat := if f = .lg6 then 96 * (c / 16) + 6 * (c % 16) else f.width * c

/-- The pattern of element `c` of a row. -/
def rowElem (f : Fp.Fmt) (row c : Nat) : Nat := bitsAt row (elemPos f c) f.width

/-- A row with element `c` replaced. -/
def setElem (f : Fp.Fmt) (row c x : Nat) : Nat := putBits row (elemPos f c) f.width x

/-- A row with elements from `c` on replaced. -/
def setElems (f : Fp.Fmt) (row c : Nat) : List Nat → Nat
  | [] => row
  | x :: xs => setElems f (setElem f row c x) (c + 1) xs

/-- Row `r` of tile register `t` as a number of 128 bytes (R75). -/
def Wg.tileRow (g : Wg) (t r : Nat) : Nat :=
  ofBytes ((List.range 128).map fun b => g.tiles.val 0 (4096 * t + 128 * r + b))

/-- Bytes of a tile register. -/
def Wg.setTileBytes (g : Wg) (t off : Nat) (bs : List Byte) : Wg :=
  { g with tiles := (List.range bs.length).foldl (fun (m : Cells Byte) i => m.store 0 (4096 * t + off + i) (bs.getD i 0)) g.tiles }

/-- Set row `r` of tile register `t`. -/
def Wg.setTileRow (g : Wg) (t r row : Nat) : Wg := g.setTileBytes t (128 * r) (toBytes row 128)

/-- The elements of column `c`, one of each row. -/
def Wg.tileColumn (g : Wg) (t : Nat) (f : Fp.Fmt) (c : Nat) : List Nat := (List.range 32).map fun r => rowElem f (g.tileRow t r) c

/-- Column `n` of a plane as a number of 128 bytes (R78). -/
def Plane.row (x : Plane) (n : Nat) : Nat := ofBytes ((List.range 128).map fun b => x.rows.val 0 (128 * n + b))

/-! ### Operands -/

/-- The formats of a matrix operand (R80, R357, R363). -/
def matrixFmt (f : Fp.Fmt) : Bool := [Fp.Fmt.lg6, .e4m3, .e5m2, .bf16, .f16, .i8].contains f

/-- Depth of the k window (R78). -/
def depthOf (f : Fp.Fmt) : Nat := if f = .lg6 then 128 else 64

/-- Elements that a row holds for a pass or a transfer (R79, R291, R296): an 8-bit operand that keeps bytes 120 to 127 free
has 120. -/
def rowLimit (f : Fp.Fmt) (keep : Bool) : Nat := if keep && f.width == 8 then 120 else perRow f

/-- Whether a slot is accepted for a matrix operand with window `h` (R77, R79). -/
def windowOk (slot : W64) (h : Nat) : Bool :=
  let f := slotFmt slot
  slotElem slot != 11 && matrixFmt f && (!slotScale slot || [Fp.Fmt.lg6, .e4m3, .e5m2, .i8].contains f) &&
    decide (32 * h + depthOf f ≤ rowLimit f (slotScale slot))

/-- Whether two operand slots pair (R80). -/
def pairsWith (a b : Fp.Fmt) : Bool :=
  let fp8 := fun (f : Fp.Fmt) => f == .e4m3 || f == .e5m2
  (fp8 a && fp8 b) || (a == b && (a == .lg6 || a == .bf16 || a == .f16 || a == .i8))

/-- Terms of a chunk (R66). -/
def chunkTerms (f : Fp.Fmt) : Nat := if f = .i8 then 64 else if f = .bf16 ∨ f = .f16 then 16 else 32

/-- The scale byte of term `k` of a window (R77): byte 120 + b of the row for block b; none without scales. -/
def scaleByte (slot : W64) (row k : Nat) : Option Nat :=
  if slotScale slot then some (bitsAt row (8 * (120 + k / slotBlk slot)) 8) else none

/-- One chunk's terms of an output element (R66): streamed row `a` with its slot and window, stationary row `b` likewise. -/
def chunkTermsOf (sa : W64) (ha a : Nat) (sb : W64) (hb b i : Nat) : List Fp.Val :=
  let fa := slotFmt sa
  let fb := slotFmt sb
  let n := chunkTerms fa
  (List.range n).map fun m =>
    let k := i * n + m
    Fp.mul (Fp.mul (Fp.product fa fb (rowElem fa a (32 * ha + k)) (rowElem fb b (32 * hb + k)))
      (Fp.scaleOf (scaleByte sa a k))) (Fp.scaleOf (scaleByte sb b k))

/-! ### The accumulator store -/

/-- Whether a tile is live (R85). -/
def Core.isLive (c : Core) (a : Nat) : Bool := c.live.getLsbD a

/-- Make a tile live or dead (R85). -/
def Core.setLive (c : Core) (a : Nat) (on : Bool) : Core :=
  { c with live := if on then c.live ||| (1#256 <<< a) else c.live &&& ~~~(1#256 <<< a) }

/-- Element (m, n) of a tile; +0 when it is dead (R85). -/
def Core.accElem (c : Core) (a m n : Nat) : Nat := if c.isLive a then (c.acc.val 0 (1024 * a + 32 * m + n)).toNat else 0

/-- Set elements of a tile's row `m` from column 0 on. -/
def Core.setAccRow (c : Core) (a m : Nat) (xs : List Nat) : Core :=
  { c with acc := (List.range xs.length).foldl (fun (t : Cells (BitVec 80)) n =>
      t.store 0 (1024 * a + 32 * m + n) (BitVec.ofNat 80 (xs.getD n 0))) c.acc }

/-- Bytes `[off, off + n)` of a tile's image (R84). -/
def Core.accBytes (c : Core) (a off n : Nat) : List Byte :=
  (List.range n).map fun i =>
    let e := (off + i) / 10
    BitVec.ofNat 8 (c.accElem a (e / 32) (e % 32) >>> (8 * ((off + i) % 10)))

/-- The 32 elements of row `m` from 320 bytes of an image (R84). -/
def accRowOf (bs : List Byte) : List Nat := (List.range 32).map fun n => ofBytes ((bs.drop (10 * n)).take 10)

/-- What an instruction that consults ACOWN finds (R87, R209): it may proceed, taking ownership where VALID is 0, or faults. -/
def State.takeStore (s : State) (c : Ctx) (body : State → State) : State :=
  match c.g.tileMark with
  | some a => (s.updWg c.w fun g => { g with tileMark := none }).raiseUniform c .poison a
  | none =>
    let co := s.core c.core
    if !co.valid then body (s.setCore c.core { co with owner := c.g.ctx, valid := true })
    else if co.owner != c.g.ctx then
      s.raiseUniform c .accOwner (BitVec.ofNat 64 (Config.ctxVa + 64 * c.g.ctx.toNat))
    else body s

/-! ### Fusion -/

/-- FUSION of a partition (R193). -/
def Part.fusion (p : Part) : Nat := bitsAt p.word1.toNat 4 2

/-- A partition descriptor. -/
def State.partOf (s : State) (n : Nat) : Part := s.parts.val ⟨0, 0⟩ n

/-- Fusion of a task's partition as it concerns the task (R198). -/
def State.fusionOf (s : State) (r : Record) : Nat := if r.matrix then (s.partOf r.part).fusion else 0

/-- Cores of a fusion group (R193). -/
def fusionSize (f : Nat) : Nat := if f = 0 then 1 else if f = 3 then 4 else 2

/-- The workgroups of a fusion group in their positions, leader first (R198); a run without its group stands alone. Fusion is fixed at
launch (R88): one that has ended stays in its place, and what its tile registers and planes then hold takes part (R198). -/
def State.quads (s : State) (w : Nat) (g : Wg) (r : Record) : List Nat :=
  let n := fusionSize (s.fusionOf r)
  let found := (List.range n).filterMap fun i =>
    (s.wgs.zipIdx.reverse.find? fun e => e.1.slot == g.slot && e.1.sub == g.sub && e.1.mode == g.mode &&
      e.1.wgid == g.wgid / n * n + i).map fun e => e.2
  if n = 1 ∨ found.length ≠ n then [w] else found

/-- Whether a workgroup is a follower of its fusion group (R89). -/
def State.isFollower (s : State) (w : Nat) (g : Wg) (r : Record) : Bool := (s.quads w g r).headD w != w

/-- For each quadrant that takes results, its position and the sums added there in order: the position whose tile register
is streamed and the position of the plane (R88). -/
def fusedSums (fusion : Nat) : List (Nat × List (Nat × Nat)) :=
  if fusion = 1 then [(0, [(0, 0)]), (1, [(0, 1)])]
  else if fusion = 2 then [(1, [(0, 0), (1, 1)])]
  else if fusion = 3 then [(2, [(0, 0), (2, 2)]), (3, [(0, 1), (2, 3)])]
  else [(0, [(0, 0)])]

/-! ### The queue -/

/-- The instructions in a core's sequencer queue, in order. -/
def State.sequencerOf (s : State) (core : Nat) : List SeqCmd := s.seqQ.filter fun q => s.coreOf q.w == some core

/-- The instruction with an id. -/
def State.seqCmd? (s : State) (id : Nat) : Option SeqCmd := s.seqQ.find? fun q => q.id == id

/-- Change the instruction with an id. -/
def State.updSeq (s : State) (id : Nat) (f : SeqCmd → SeqCmd) : State :=
  { s with seqQ := s.seqQ.map fun q => if q.id = id then f q else q }

/-- The tile registers that an instruction reads or writes. -/
def tilesOf : Instr → List Nat
  | .hcvt t _ _ _ _ _ _ n => [t.toNat, n.toNat]
  | .tld t _ _ _ _ _ _ => [t.toNat]
  | .tst t _ _ _ _ _ _ => [t.toNat]
  | .tzr t _ _ _ _ _ => [t.toNat]
  | .ard t _ _ _ _ _ => [t.toNat]
  | .awr t _ _ _ _ _ => [t.toNat]
  | .lstat t _ _ _ => [t.toNat, t.toNat + 1]
  | .lstatN32 t _ _ _ => [t.toNat]
  | .mstr t _ _ _ _ _ => [t.toNat]
  | .mstrN32 t _ _ _ _ _ => [t.toNat]
  | _ => []

/-- The accumulator tiles that an instruction with index `idx` reads or writes. -/
def accsOf (i : Instr) (idx : Nat) : List Nat :=
  match i with
  | .azr _ _ _ => [idx]
  | .ard _ _ _ _ _ _ => [idx]
  | .awr _ _ _ _ _ _ => [idx]
  | .asv _ _ _ _ => [idx]
  | .ars _ _ _ _ => [idx]
  | .mstr _ _ _ _ _ _ => [idx, idx + 1]
  | .mstrN32 _ _ _ _ _ _ => [idx]
  | _ => []

/-- Those that it writes, or makes dead (R82, R85). -/
def accsWritten (i : Instr) (idx : Nat) : List Nat :=
  match i with
  | .ard _ _ _ _ _ _ => []
  | i => accsOf i idx

/-- Whether an instruction is an MSTR. -/
def isMstr : Instr → Bool
  | .mstr _ _ _ _ _ _ => true
  | .mstrN32 _ _ _ _ _ _ => true
  | _ => false

/-- Whether a tile register of a workgroup is busy for an instruction accepted as number `id`: a CPYM issued before it has
not landed (R95). -/
def State.tileBusy (s : State) (w id t : Nat) : Bool :=
  s.strQ.any fun q => q.w == w && decide (q.id < id) && q.mstrId.isNone && !q.failed && match q.kind with
    | .tile n _ _ _ => n == t
    | _ => false

end Sys2Proof.Machine
end

