-- ==== Sys2Proof/Machine/Transfer.lean ====
section
/-! DEFINITION. CPYM (R95, R318), the collectives (R311 to R313), and what the streamer does with its commands: they start,
move and complete (R92 to R96, R160, R164, R219, R227). -/

namespace Sys2Proof.Machine

/-! ### CPYM -/

/-- The fields of a CPYM's descriptor (R318): I, h, N32, slot. -/
def cpymIndex (x : W64) : Nat := bitsAt x.toNat 0 8
/-- h of R318. -/
def cpymWindow (x : W64) : Nat := bitsAt x.toNat 8 2
/-- N32 of R318. -/
def cpymN32 (x : W64) : Bool := bitsAt x.toNat 10 1 == 1
/-- slot of R318. -/
def cpymSlot (x : W64) : Nat := bitsAt x.toNat 11 3

/-- Whether a descriptor breaks R318 or the limits of its MSTR (R80). -/
def cpymBad (x : W64) (r : Record) : Bool :=
  bitsAt x.toNat 14 50 != 0 || (!cpymN32 x && decide (254 < cpymIndex x)) || !windowOk (r.slotW (cpymSlot x)) (cpymWindow x)

/-- Whether a record does not fit a tile register (R318). -/
def Shape.tileBad (x : Shape) (r : Record) : Bool :=
  x.swz != 0 || (x.box.drop 1).foldl (· * ·) 1 != 32 || decide ((if x.fmt r = .lg6 then 120 else 128) < x.rowBytes r)

/-- The follow-on MSTR of a CPYM (R95). -/
def cpymMstr (t : BitVec 3) (x : W64) : Instr :=
  if cpymN32 x then .mstrN32 t (BitVec.ofNat 2 (cpymWindow x)) 0 0 (BitVec.ofNat 3 (cpymSlot x)) 0
  else .mstr t (BitVec.ofNat 2 (cpymWindow x)) 0 0 (BitVec.ofNat 3 (cpymSlot x)) 0

/-- CPYM (R95, R318). -/
def execCpym (a b : BitVec 5) (n : BitVec 4) (v z : BitVec 1) (l : BitVec 4) (t : BitVec 3) (s : State) : Out :=
  issue (.cpym a b n v z l t) s fun c s =>
    let desc := c.k5 a
    let rec' := c.k5 b
    let bar := copyBar n z
    s.streamerIssue c bar (v == 1#1) fun s =>
      if s.isFollower c.w c.g c.task.rcd || cpymBad desc c.task.rcd then s.raiseUniform c .illegal 0
      else if !isGlob rec' then s.raiseUniform c .space rec'
      else if !aligned rec'.toNat 64 then s.raiseUniform c .misaligned rec'
      else
        s.withShape c rec' false fun x s =>
          if x.tileBad c.task.rcd then s.raiseUniform c .record rec'
          else
            s.takeStore c fun s =>
              s.enqueue c (.tile t.toNat x (c.origin b) desc) bar (v == 1#1)
                [desc, rec', c.tr.getK (b.toNat + 1), c.tr.getK (b.toNat + 2), c.tr.getK (b.toNat + 3)]

/-! ### Collectives -/

/-- Bytes of an element of a format, which a descriptor's addresses are multiples of (R311); 1 where an element is no whole number of
bytes. -/
def collBytes (elem : Nat) : Nat :=
  match Fp.Fmt.ofCode elem with
  | some f => if f.width % 8 = 0 then f.width / 8 else 1
  | none => 1

/-- The fields of a collective's descriptor (R311). -/
def CollDesc.parse (bs : List Byte) : CollDesc :=
  let w := fieldOfBytes bs 16 8
  { saddr := fieldOfBytes bs 0 8, daddr := fieldOfBytes bs 8 8, count := bitsAt w 0 24, chips := BitVec.ofNat 4 (bitsAt w 24 4)
    root := bitsAt w 28 2, op := bitsAt w 30 2, tag := fieldOfBytes bs 0x18 4 }

/-- Whether a descriptor is malformed (R311); `size` is the element size. -/
def CollDesc.malformed (x : CollDesc) (bs : List Byte) (chip fn size : Nat) : Bool :=
  fieldOfBytes bs 0x14 4 != 0 || fieldOfBytes bs 0x1C 4 != 0 || fieldOfBytes bs 0x20 32 != 0 ||
    decide (2 ^ 48 ≤ x.saddr) || decide (2 ^ 48 ≤ x.daddr) || !aligned x.saddr size || !aligned x.daddr size ||
    x.count == 0 || !x.chips.getLsbD chip || (fn == 3 && !x.chips.getLsbD x.root) || ((fn == 1 || fn == 2) && x.op == 3)

/-- CLST (R311): the checks in their order; a chip-only tenant takes part alone (R313). -/
def collective (i : Instr) (fn : Nat) (a : BitVec 5) (n : BitVec 4) (f : BitVec 3) (s : State) : Out :=
  issue i s fun c s =>
    let addr := c.k5 a
    let slot := c.task.rcd.slotW f.toNat
    if s.streamerFull c.core then s.stall c .retry
    else if !isGlob addr then s.raiseUniform c .space addr
    else if !aligned addr.toNat 64 then s.raiseUniform c .misaligned addr
    else
      match s.issueRead c 33 recordPos addr.toNat 64 with
      | .stop s1 => s1
      | .ends cause => s.raiseUniform c cause addr
      | .ok s1 bs poison =>
        let x := CollDesc.parse bs
        if poison then s1.raise c (c.fault .poison addr 0 true true 0)
        else if x.malformed bs s.chipId fn (collBytes (slotElem slot)) then s1.raiseUniform c .record addr
        else if !([0, 1, 2, 8].contains (slotElem slot)) || slotScale slot then s1.raiseUniform c .illegal 0
        else if !c.barOk (some n.toNat) true then s1.raiseUniform c .illegal 0
        else
          let alone := s.chipOnly c.task.rcd.tenant
          let x' := if alone then { x with chips := 1#4 <<< s.chipId } else x
          let s2 := if alone then s1.updTrain c.w c.t fun tr => { tr with demoted := true } else s1
          s2.enqueue c (.coll fn x' f.toNat) (some n.toNat) true
            [BitVec.ofNat 64 x.saddr, BitVec.ofNat 64 x.daddr, BitVec.ofNat 64 (fieldOfBytes bs 16 8), BitVec.ofNat 64 x.tag]

/-- CLST.AG (R312). -/
def execClstAg (a : BitVec 5) (n l : BitVec 4) (f : BitVec 3) (s : State) : Out := collective (.clstAg a n l f) 0 a n f s

/-- CLST.RS (R312). -/
def execClstRs (a : BitVec 5) (n l : BitVec 4) (f : BitVec 3) (s : State) : Out := collective (.clstRs a n l f) 1 a n f s

/-- CLST.AR (R312). -/
def execClstAr (a : BitVec 5) (n l : BitVec 4) (f : BitVec 3) (s : State) : Out := collective (.clstAr a n l f) 2 a n f s

/-- CLST.BC (R312). -/
def execClstBc (a : BitVec 5) (n l : BitVec 4) (f : BitVec 3) (s : State) : Out := collective (.clstBc a n l f) 3 a n f s

/-- The participants in ascending index. -/
def chipsOf (m : BitVec 4) : List Nat := (List.range 4).filter fun i => m.getLsbD i

/-- The collective of a command. -/
def State.collOf (s : State) (id : Nat) : Option Coll := s.colls.find? fun x => x.cmd == id

/-- The terms that govern a command (R312): those of its lowest-indexed participant, once they are known. -/
def State.collTerms (s : State) (q : StrCmd) (r : Record) : Option CollTerms :=
  match q.kind with
  | .coll _ desc slot =>
    let low := (chipsOf desc.chips).headD s.chipId
    if low = s.chipId then some (desc.terms r slot)
    else
      match s.collOf q.id with
      | some x => (x.parts.look low).map fun p => p.terms
      | none => none
  | _ => none

/-- Elements that each chip contributes, and that DADDR receives (R312). -/
def collSource (fn : Nat) (t : CollTerms) : Nat := if fn = 1 then t.count * (chipsOf t.chips).length else t.count
/-- Elements of a result (R312). DEDUCED: notes/assumptions/73.md. -/
def collResult (fn : Nat) (t : CollTerms) : Nat := if fn = 0 then t.count * (chipsOf t.chips).length else t.count

/-- One step of REDUCE (R312). -/
def reduceStep (op elem a b : Nat) : Nat :=
  let f := (Fp.Fmt.ofCode elem).getD .f32
  if elem = 8 then
    if op = 0 then (a + b) % 2 ^ 32
    else if op = 1 then (if signedOf 32 a ≤ signedOf 32 b then a else b)
    else (if signedOf 32 a ≤ signedOf 32 b then b else a)
  else if op = 0 then faddE f a b .rne
  else Fp.minMax f (op == 2) a b

/-- Element `e` of a contribution. -/
def contribElem (p : Contribution) (size e : Nat) : Nat := ofBytes ((p.bytes.drop (size * e)).take size)

/-- Element `e` of this chip's result and whether a poisoned sector takes part in it (R312, R313). -/
def collElem (fn chip : Nat) (t : CollTerms) (parts : Cells Contribution) (e : Nat) : Nat × Bool :=
  let ps := chipsOf t.chips
  let size := collBytes t.elem
  let get := fun (c i : Nat) => match parts.look c with
    | some p => (contribElem p size i, p.poison.getD i false)
    | none => (0, false)
  if fn = 0 then get (ps.getD (e / t.count) 0) (e % t.count)
  else if fn = 3 then get (if ps.contains t.root then t.root else chip) e
  else
    let i := if fn = 1 then ((ps.takeWhile fun c => c != chip).length) * t.count + e else e
    match ps.map fun c => get c i with
    | [] => (0, false)
    | x :: xs => xs.foldl (fun a b => (reduceStep t.op t.elem a.1 b.1, a.2 || b.2)) x

/-- This chip reads the next sector run of its own contribution (R313). -/
def State.collRead (s : State) (q : StrCmd) (g : Wg) (task : Task) (k : Coll) (saddr total size : Nat) (have' : Contribution)
    (d : RemoteData) : UnitRes :=
  let done := have'.bytes.length
  let n := toSectorEnd (saddr + done) (total - done)
  let vas := (List.range n).map fun i => saddr + done + i
  match s.engBytes g task q.hand d 0 vas with
  | .error (some cause) => .ends cause (saddr + done)
  | .error none => .wait (s.askPulls (s.engPulls g task q.hand .load vas))
  | .ok xs =>
    let s := s.engUse g task q.hand .load vas
    let bs := xs.map fun x => x.1
    let bad := xs.any fun x => x.2
    let part : Contribution := { have' with
      bytes := have'.bytes ++ bs, poison := have'.poison ++ List.replicate (n / size) bad, readBack := done + n == total }
    .ok { s with colls := s.colls.map fun x => if x.id = k.id then { x with parts := x.parts.put s.chipId part } else x } q.pos 0

/-- What a collective tells the runs that follow of one unit: poison, whether it is the last, whether it failed; how many
bytes count; the bytes (R219, R221, R227). -/
def State.logColl (s : State) (q : StrCmd) (bad last failed : Bool) (n : Nat) (bs : List Byte) : State :=
  match s.wg? q.w, s.train? q.w q.t with
  | some g, some tr =>
    match s.taskOf? g with
    | some task =>
      if g.mode = .primary ∧ (2 ≤ task.rcd.integ ∨ task.audits g.wgid) then
        let flags := (if bad then 1 else 0) + (if last then 2 else 0) + (if failed then 4 else 0)
        let e : LogEntry := ⟨g.wgid, tr.trn, 36, q.origin.dix, q.origin.sub * 2 ^ 32 + q.pos,
          BitVec.ofNat 64 flags :: BitVec.ofNat 64 n :: packBytes bs.length bs⟩
        s.updTask g.slot fun x => { x with log := x.log ++ [e] }
      else s
    | none => s
  | _, _ => s

/-- A failure of a command is recorded in its barrier (R96, R313). -/
def State.strErr (s : State) (q : StrCmd) (e : Nat) : State :=
  match q.bar with
  | some b => s.barErr q.w b e
  | none => s

/-- Whether a poisoned sector is among the contributions that a collective takes (R313): the ROOT's alone for a broadcast. -/
def collPoison (fn chip : Nat) (t : CollTerms) (parts : Cells Contribution) : Bool :=
  let from' := if fn = 3 then [if (chipsOf t.chips).contains t.root then t.root else chip] else chipsOf t.chips
  from'.any fun c => (parts.look c).any fun p => p.poison.any fun b => b

/-- The next sector run of a collective's result goes to DADDR (R312, R313). -/
def State.collWrite (s : State) (q : StrCmd) (fn : Nat) (desc : CollDesc) (t : CollTerms) (k : Coll) : UnitRes :=
  let size := collBytes t.elem
  let total := collResult fn t * size
  let n := toSectorEnd (desc.daddr + q.pos) (total - q.pos)
  let es := (List.range (n / size)).map fun i => collElem fn s.chipId t k.parts (q.pos / size + i)
  let bs := es.flatMap fun e => toBytes e.1 size
  let bad := es.any fun e => e.2
  let wb := wbytesAt (desc.daddr + q.pos) bs
  match s.engWrite q.w q.t q.hand true (q.key q.pos) wb bad with
  | .ok s1 =>
    let err := collPoison fn s.chipId t k.parts
    let s2 := (s1.logColl q err (decide (total ≤ q.pos + n)) false n bs).updTrain q.w q.t fun tr => tr.edAdd (2 * q.id + 1) wb
    .ok (if err then s2.strErr q 2 else s2) (q.pos + n) n
  | .wait s1 => .wait s1
  | .ends cause => .ends cause (desc.daddr + q.pos)
  | .full _ => .fail 1
  | .lehr => .wait (s.stopAtLehr q.w)

/-- A run that follows takes the bytes that its original wrote (R219, R221, R227). -/
def State.collFollow (s : State) (q : StrCmd) (trn : Nat) (desc : CollDesc) : UnitRes :=
  match s.takeLog q.w trn 36 q.origin.dix (q.origin.sub * 2 ^ 32 + q.pos) with
  | some (flags :: n :: vals, s1) =>
    if flags.getLsbD 2 then .ok ((s1.updStr q.id fun q => { q with failed := true }).strErr q 1) q.pos n.toNat
    else
      let bs := unpackBytes vals n.toNat
      let s2 := s1.updTrain q.w q.t fun tr => tr.edAdd (2 * q.id + 1) (wbytesAt (desc.daddr + q.pos) bs)
      let s3 := if flags.getLsbD 1 then s2.updStr q.id fun q => { q with total := some (q.pos + n.toNat) } else s2
      .ok (if flags.getLsbD 0 then s3.strErr q 2 else s3) (q.pos + n.toNat) n.toNat
  | _ => .wait s

/-- One unit of a collective. -/
def State.collUnit (s : State) (q : StrCmd) (g : Wg) (task : Task) (fn : Nat) (desc : CollDesc) (slot : Nat) (d : RemoteData) :
    UnitRes :=
  if g.mode.follows then
    match s.train? q.w q.t with
    | some tr => s.collFollow q tr.trn desc
    | none => .wait s
  else
    match s.collOf q.id, s.collTerms q task.rcd with
    | some k, some t =>
      let size := collBytes t.elem
      let total := collSource fn t * size
      let mine := k.parts.val ⟨[], [], false, desc.terms task.rcd slot⟩ s.chipId
      if !mine.readBack then s.collRead q g task k desc.saddr total size mine d
      else if (chipsOf t.chips).all fun c => (k.parts.look c).isSome then s.collWrite q fn desc t k
      else .wait s
    | _, _ => .wait s

/-! ### The streamer at work -/

/-- Whether the workgroup of a command is on its core and not stopped. -/
def State.atWork (s : State) (w : Nat) : Bool :=
  match s.wg? w with
  | some g => g.runs && (match s.taskOf? g with
      | some task => task.endInfo.isNone
      | none => false)
  | none => false

/-- The bytes or elements that a command moves in all. -/
def State.strSize (s : State) (q : StrCmd) (g : Wg) (r : Record) : Option Nat :=
  match q.kind with
  | .coll fn _ _ =>
    if g.mode.follows then q.total else (s.collTerms q r).map fun t => collResult fn t * collBytes t.elem
  | k => some (k.size r)

/-- One unit of CPYM: bytes of a box's row into the tile register's row (R95, R318). -/
def State.tileUnit (s : State) (q : StrCmd) (r : Record) (t : Nat) (x : Shape) (origin : List Int) (d : RemoteData) : UnitRes :=
  let rb := x.rowBytes r
  let n := toSectorEnd (q.pos % rb) (rb - q.pos % rb)
  s.readBox q r x origin ((List.range n).map fun i => q.pos + i) d fun s1 bs =>
    .ok (s1.updWg q.w fun g => g.setTileBytes t (128 * (q.pos / rb) + q.pos % rb) bs) (q.pos + n) n

/-- One unit of a command. -/
def State.strUnit (s : State) (q : StrCmd) (g : Wg) (task : Task) (d : RemoteData) : UnitRes :=
  match q.kind with
  | .linear toShare dst src count => s.linearUnit q toShare dst src count d
  | .box true scr x origin => s.boxInUnit q task.rcd scr x origin d
  | .box false scr x origin => s.boxOutUnit q task.rcd scr x origin
  | .tile t x origin _ => s.tileUnit q task.rcd t x origin d
  | .coll fn desc slot => s.collUnit q g task fn desc slot d

/-- Earlier commands of the same streamer. -/
def State.strBefore (s : State) (q : StrCmd) : List StrCmd :=
  s.strQ.filter fun x => decide (x.id < q.id) && s.coreOf x.w == s.coreOf q.w

/-- Whether a command has written everything, or has failed. -/
def State.strMoved (s : State) (q : StrCmd) : Bool :=
  q.failed || q.sent.isNone && match s.wg? q.w with
    | some g => match s.taskOf? g with
      | some task => (s.strSize q g task.rcd).any fun n => decide (n ≤ q.pos)
      | none => false
    | none => false

/-- Whether a command may start (R94, R95, R147): those before it have, the train's earlier writes are performed, and no matrix
instruction accepted before it has its tile register in use. Two CPYMs of one tile register: the spec does not say whether the second's
copy waits for the first's follow-on MSTR, which enters the queue after it was issued; here it need not (DESIGN CHOICE:
notes/assumptions/86.md). -/
def State.canStart (s : State) (q : StrCmd) : Bool :=
  !q.started && q.ready && s.atWork q.w && (s.strBefore q).all (fun x => x.started) && s.forkClear q.w q.t q.fence &&
    match q.kind with
    | .tile t _ _ _ => !(s.seqQ.any fun x => x.w == q.w && decide (x.id < q.id) && (tilesOf x.insn).contains t)
    | _ => true

/-- A command starts. -/
def State.strStart (s : State) (q : StrCmd) : State := s.updStr q.id fun q => { q with started := true }

/-- STREAMER_COMMAND_START (R94). -/
def execStreamerCommandStart (c : Nat) (s : State) : Out :=
  event true s fun s =>
    match s.strCmd? c with
    | some q => if s.canStart q then s.strStart q else s
    | none => s

/-- Whether every other participant has read this chip's contribution (R313). -/
def State.allRead (s : State) (q : StrCmd) (r : Record) : Bool :=
  match s.collOf q.id, s.collTerms q r with
  | some k, some t => (chipsOf t.chips).all fun c => c == s.chipId || (k.parts.look c).any fun p => p.readBack
  | _, _ => true

/-- Whether a collective has lost a participant that it still needs (R237, R313): that chip is marked dead or unreachable. -/
def State.collLost (s : State) (q : StrCmd) (g : Wg) (r : Record) : Bool :=
  match q.kind with
  | .coll _ desc _ =>
    let chips := match s.collTerms q r with
      | some t => t.chips
      | none => desc.chips
    !g.mode.follows && !q.failed && !(s.strMoved q && s.allRead q r) &&
      (chipsOf chips).any fun c => c != s.chipId && (s.dead.getLsbD c || s.unreach.getLsbD c)
  | _ => false

/-- Whether the writes of a unit that are on their way have been performed at their homes (R94). -/
def State.landed (s : State) (w t lo hi : Nat) : Bool :=
  match s.train? w t with
  | none => true
  | some tr => !(tr.sb.any fun e => decide (lo ≤ e.id) && decide (e.id < hi) && e.stage != .granted)

/-- Bytes of a command are written at the destination (R94). -/
def State.strCount (s : State) (q : StrCmd) (n : Nat) : State :=
  match q.bar with
  | some b => s.barBytes q.w b n
  | none => s

/-- A unit of a command has been read, and written or sent (R94): its bytes count once they are written. -/
def State.strSent (s : State) (q : StrCmd) (before pos counted : Nat) : State :=
  match s.train? q.w q.t with
  | some tr =>
    if tr.sb.any fun e => decide (before ≤ e.id) then
      s.updStr q.id fun q => { q with pos := pos, sent := some (before, tr.nextId, counted) }
    else (s.updStr q.id fun q => { q with pos := pos }).strCount q counted
  | none => (s.updStr q.id fun q => { q with pos := pos }).strCount q counted

/-- A command fails (R96): it counts what it has not written, and records why. -/
def State.strFail (s : State) (q : StrCmd) (g : Wg) (task : Task) (err : Nat) : State :=
  let coll := match q.kind with
    | .coll _ _ _ => true
    | _ => false
  let left := if coll then (s.strSize q g task.rcd).getD 0 - q.pos else q.left task.rcd
  ((State.updStr (if coll then s.logColl q false true true left [] else s) q.id fun q =>
    { q with failed := true }).strErr q err).strCount q left

/-- The streamer moves one unit of a command (R92, R94, R96), or finds that the last one's writes have been performed. -/
def State.strMove (s : State) (c : Nat) (d : RemoteData) : State :=
  match s.strCmd? c with
  | none => s
  | some q =>
    match s.wg? q.w with
    | none => s
    | some g =>
      match s.taskOf? g with
      | none => s
      | some task =>
        if !q.started || !s.atWork q.w then s
        else if s.collLost q g task.rcd then
          s.endTask g.slot ⟨.pullLost, q.origin.pc, (q.origin.ops.headD 0), 0, g.wgid⟩
        else
          match q.sent with
          | some (lo, hi, n) =>
            if s.landed q.w q.t lo hi then (s.updStr c fun q => { q with sent := none }).strCount q n else s
          | none =>
            if s.strMoved q || !(s.strBefore q).all s.strMoved then s
            else
              match s.strUnit q g task d with
              | .ok s1 pos counted => s1.strSent q ((s.train? q.w q.t).map Train.nextId |>.getD 0) pos counted
              | .wait s1 => s1
              | .fail err => s.strFail q g task err
              | .ends cause addr => s.endTask g.slot ⟨cause, q.origin.pc, BitVec.ofNat 64 addr, 0, g.wgid⟩

/-- STREAMER_WRITE (R94): `d` is what another chip sent. DEDUCED: notes/assumptions/32.md. -/
def execStreamerWrite (c : Nat) (d : RemoteData) (s : State) : Out := event true s fun s => s.strMove c d

/-- The follow-on MSTR of a CPYM that has landed (R95). -/
def StrCmd.follow (q : StrCmd) (id : Nat) (t : Nat) (x : W64) : SeqCmd :=
  { id := id, w := q.w, t := q.t, insn := cpymMstr (BitVec.ofNat 3 t) x, addr := 0, idx := cpymIndex x, dix := q.origin.dix
    mode := 0, sat := false, hand := q.hand, started := false, pos := 0, fault := none, fence := q.fence
    sub := q.origin.sub, outst := q.origin.id, cpym := some q.id, buf := [] }

/-- Whether a command may complete: everything has moved and, for CPYM, its MSTR has completed (R94, R95, R99, R316). -/
def State.canFinish (s : State) (q : StrCmd) : Bool :=
  q.started && s.strMoved q && s.atWork q.w && s.engineQuiet q.w q.t &&
    (!q.arv || match q.bar with
      | some b => s.barRoom q.w b
      | none => true) &&
    (match q.kind, q.mstrId with
      | .tile _ _ _ _, some m => (s.seqCmd? m).isNone && !(match s.train? q.w q.t with
          | some tr => (tr.outst? q.origin.id).isSome
          | none => false)
      | .coll _ _ _, _ => q.failed || match s.wg? q.w with
          | some g => match s.taskOf? g with
            | some task => s.allRead q task.rcd
            | none => true
          | none => true
      | _, _ => true)

/-- A command completes (R94, R219). DEDUCED: notes/assumptions/33.md. -/
def State.strFinish (s : State) (q : StrCmd) : State :=
  let s1 := { s with strQ := s.strQ.filter (fun x => x.id != q.id), colls := s.colls.filter fun x => x.cmd != q.id }
  let s2 := if q.kind.folds then s1.updTrain q.w q.t fun tr => tr.edClose (2 * q.id + 1) else s1
  match q.arv, q.bar with
  | true, some b => s2.barArrive q.w b
  | _, _ => s2

/-- What the completion of a command does next: a CPYM that has landed sends its MSTR, any other completes. -/
def State.strComplete (s : State) (c : Nat) : State :=
  match s.strCmd? c with
  | none => s
  | some q =>
    match q.kind, q.mstrId, q.failed with
    | .tile t _ _ x, none, false =>
      if q.started && s.strMoved q && s.atWork q.w then
        let (id, s1) := s.fresh
        State.updStr { s1 with seqQ := s1.seqQ ++ [q.follow id t x] } c fun q => { q with mstrId := some id }
      else s
    | _, _, _ => if s.canFinish q then s.strFinish q else s

/-- A CPYM whose MSTR has faulted sends it again (R41, R42). -/
def State.cpymAgain (s : State) (w t o : Nat) : State :=
  match s.strQ.find? fun q => q.w == w && q.t == t && q.origin.id == o with
  | some q =>
    match q.kind with
    | .tile n _ _ x =>
      let (id, s1) := s.fresh
      (State.updStr { s1 with seqQ := s1.seqQ ++ [q.follow id n x] } q.id fun q => { q with mstrId := some id }).updTrain w t
        fun tr => { tr with outst := tr.outst.filter fun x => x.id != o }
    | _ => s
  | none => s

/-- STREAMER_COMMAND_COMPLETE (R94, R95). -/
def execStreamerCommandComplete (c : Nat) (s : State) : Out := event true s fun s => s.strComplete c

/-- Whether a participant's message is the next one for a collective (R312): CLSTs match in issue order. -/
def State.collNext (s : State) (k : Coll) (chip : Nat) (readBack : Bool) : Bool :=
  let mine := s.colls.filter fun x => x.tenant == k.tenant && x.fn == k.fn && x.tag == k.tag &&
    (match x.parts.look chip with
      | none => true
      | some p => readBack && !p.readBack)
  chip != s.chipId && (mine.head?.map fun x => x.id) == some k.id

/-- COLLECTIVE_CONTRIBUTION (R312, R313): another participant's part, or its word that it has read this chip's. -/
def execCollectiveContribution (coll chip : Nat) (c : Contribution) (s : State) : Out :=
  event (decide (chip ≤ 3)) s fun s =>
    let s := s.takeFlit chip 2
    match s.colls.find? fun x => x.id == coll with
    | some k =>
      if s.collNext k chip c.readBack then
        let part := match k.parts.look chip with
          | some p => { p with readBack := p.readBack || c.readBack }
          | none => c
        { s with colls := s.colls.map fun x => if x.id = k.id then { x with parts := x.parts.put chip part } else x }
      else s
    | none => s

end Sys2Proof.Machine
end

