-- ==== Sys2Proof/Machine/Matrix.lean ====
section
/-! DEFINITION. The macro-operation sequencer (R82, R83): tile, accumulator and matrix instructions at issue (R80, R84 to R89,
R291, R292, R296, R297, R339, R357, R363, R364, R370, R391 to R395), and what the sequencer does with them (R66, R80, R81). -/

namespace Sys2Proof.Machine

/-! ### Issue -/

/-- An instruction enters the sequencer's queue, which may be full (R82); it is outstanding until it completes. -/
def State.sequence (s : State) (c : Ctx) (addr : W64) (idx mode : Nat) (sat : Bool) : State :=
  if 16 ≤ (s.sequencerOf c.core).length then s.stall c .retry
  else
    match s.train? c.w c.t with
    | none => s
    | some tr =>
      let (id, s1) := s.fresh
      let cmd : SeqCmd :=
        { id := id, w := c.w, t := c.t, insn := c.insn, addr := addr, idx := idx, dix := c.sp.dix, mode := mode, sat := sat
          hand := c.tr.hmode, started := false, pos := 0, fault := none, fence := tr.nextId, sub := c.sub
          outst := tr.nextId, cpym := none, buf := [] }
      ((State.addOutst { s1 with seqQ := s1.seqQ ++ [cmd] } c 0 fun o => { o with
        waitsFor := some id
        ops := [addr, BitVec.ofNat 64 idx, BitVec.ofNat 64 mode, if sat then 1 else 0] })).retire c

/-- A faulted sequencer instruction is performed again (R41, R42): it enters the queue anew. -/
def State.sequenceAgain (s : State) (w t o : Nat) : State :=
  match s.train? w t with
  | none => s
  | some tr =>
    match tr.outst? o with
    | none => s
    | some x =>
      let (id, s1) := s.fresh
      let cmd : SeqCmd :=
        { id := id, w := w, t := t, insn := x.insn, addr := x.ops.getD 0 0, idx := (x.ops.getD 1 0).toNat, dix := x.dix
          mode := (x.ops.getD 2 0).toNat, sat := x.ops.getD 3 0 == 1, hand := tr.hmode, started := false, pos := 0
          fault := none, fence := o, sub := x.sub, outst := o, cpym := none, buf := [] }
      State.updTrain { s1 with seqQ := s1.seqQ ++ [cmd] } w t fun tr => tr.updOutst o fun x => { x with waitsFor := some id }

/-- The same after R87 for an instruction that consults ACOWN. -/
def State.sequenceOwned (s : State) (c : Ctx) (idx mode : Nat) (sat : Bool) : State :=
  if 16 ≤ (s.sequencerOf c.core).length then s.stall c .retry
  else s.takeStore c fun s => s.sequence c 0 idx mode sat

/-- The mode and saturate bit of an instruction that names a slot (R59). -/
def Ctx.slotMode (c : Ctx) (slot : W64) : Nat × Bool :=
  match ariOf c.sp.pfx with
  | some (sat, m) => (if m = 6 then slotRm slot else m, sat)
  | none => (slotRm slot, slotSat slot)

/-- The index of a slice or accumulator (R76, R274). -/
def Ctx.index (c : Ctx) (x i : BitVec 5) : Nat := indexOf (c.k5 x) x i

/-- Whether an index is above the limit of its slice (R76). -/
def sliceBad (slice : BitVec 2) (slot : W64) (idx : Nat) : Bool :=
  if slice = 0#2 then false
  else if slice = 1#2 then decide (31 < idx)
  else slotElem slot == 11 || decide (perRow (slotFmt slot) ≤ idx)

/-- Bytes of a slice's image (R391). -/
def imageSize (slice : BitVec 2) (slot : W64) : Nat :=
  if slice = 0#2 then 4096 else if slice = 1#2 then 128
  else if slotFmt slot = .lg6 then 24 else 32 * ((slotFmt slot).width / 8)

/-- Alignment of a slice's image (R391). -/
def imageAlign (slice : BitVec 2) (slot : W64) : Nat :=
  if slice = 2#2 then (if slotFmt slot = .lg6 then 4 else (slotFmt slot).width / 8) else 16

/-- The fault of a range of global memory, page by page (R175): LEASE, ALIAS or PULL_LOST. -/
def State.pagesFault (s : State) (c : Ctx) (va n : Nat) (k : Access) : Option Cause :=
  if Config.ctxVa < va + n then some .lease
  else
    ((List.range ((va % 4096 + n + 4095) / 4096)).map fun i => max va ((va / 4096 + i) * 4096)).findSome? fun a =>
      match s.translate c.core c.task c.tr.hmode a k with
      | .ok _ _ _ => none
      | .lease => some .lease
      | .aliasing => some .aliasing
      | .pullLost => some .pullLost

/-- The fault of a slice's image, in the order of R239 (R392). -/
def State.imageFault (s : State) (c : Ctx) (a : W64) (n al : Nat) (k : Access) : Option Cause :=
  match spaceOf a with
  | .none => some .space
  | .priv _ => some .space
  | .share h off =>
    if !aligned a.toNat al then some .misaligned
    else
      match s.shareLocs c.w c.g c.task.rcd.scratch h off n a with
      | .ok _ => none
      | .error (cause, _) => some cause
  | .glob va => if !aligned a.toNat al then some .misaligned else s.pagesFault c va n k

/-- TLD and TST at issue (R392); a TST keeps its place in thread 0's digest (R394). -/
def transfer (i : Instr) (store : Bool) (slice : BitVec 2) (x m : BitVec 5) (f : BitVec 3) (k : BitVec 4) (s : State) : Out :=
  issue i s fun c s =>
    let slot := c.task.rcd.slotW f.toNat
    let idx := c.index x m
    let a := c.tr.getK k.toNat
    if sliceBad slice slot idx then s.raiseUniform c .illegal 0
    else
      match s.imageFault c a (imageSize slice slot) (imageAlign slice slot) (if store then .store else .load) with
      | some cause => s.raiseUniform c cause a
      | none =>
        if 16 ≤ (s.sequencerOf c.core).length then s.stall c .retry
        else (if store then s.updTrain c.w c.t fun tr => tr.dqOpen tr.nextId else s).sequence c a idx 0 false

/-- TLD (R393). -/
def execTld (t : BitVec 3) (sl : BitVec 2) (x i : BitVec 5) (f : BitVec 3) (l k : BitVec 4) (s : State) : Out :=
  transfer (.tld t sl x i f l k) false sl x i f k s

/-- TST (R394). -/
def execTst (t : BitVec 3) (sl : BitVec 2) (x i : BitVec 5) (f : BitVec 3) (l k : BitVec 4) (s : State) : Out :=
  transfer (.tst t sl x i f l k) true sl x i f k s

/-- TZR (R395). -/
def execTzr (t : BitVec 3) (sl : BitVec 2) (x i : BitVec 5) (f : BitVec 3) (l : BitVec 4) (s : State) : Out :=
  issue (.tzr t sl x i f l) s fun c s =>
    let slot := c.task.rcd.slotW f.toNat
    let idx := c.index x i
    if slotElem slot = 11 ∨ sliceBad sl slot idx then s.raiseUniform c .illegal 0 else s.sequence c 0 idx 0 false

/-- AZR (R297). -/
def execAzr (x i : BitVec 5) (l : BitVec 4) (s : State) : Out :=
  issue (.azr x i l) s fun c s =>
    if 255 < c.index x i then s.raiseUniform c .illegal 0 else s.sequenceOwned c (c.index x i) 0 false

/-- ARD (R291). -/
def execArd (t : BitVec 3) (h : BitVec 2) (x i : BitVec 5) (f : BitVec 3) (l : BitVec 4) (s : State) : Out :=
  issue (.ard t h x i f l) s fun c s =>
    let slot := c.task.rcd.slotW f.toNat
    let (m, sat) := c.slotMode slot
    if slotElem slot = 11 ∨ 255 < c.index x i ∨ rowLimit (slotFmt slot) true < 32 * h.toNat + 32 then
      s.raiseUniform c .illegal 0
    else s.sequenceOwned c (c.index x i) m sat

/-- AWR (R296). -/
def execAwr (t : BitVec 3) (h : BitVec 2) (x i : BitVec 5) (f : BitVec 3) (l : BitVec 4) (s : State) : Out :=
  issue (.awr t h x i f l) s fun c s =>
    let slot := c.task.rcd.slotW f.toNat
    if slotElem slot = 11 ∨ 255 < c.index x i ∨ rowLimit (slotFmt slot) (slotScale slot) < 32 * h.toNat + 32 then
      s.raiseUniform c .illegal 0
    else s.sequenceOwned c (c.index x i) 0 false

/-- ASV and ARS at issue (R292); a page whose policy differs ends the task with LEASE, as for every access of an engine (R172). -/
def accTransfer (i : Instr) (a x m : BitVec 5) (k : Access) (s : State) : Out :=
  issue i s fun c s =>
    let idx := c.index x m
    let addr := c.k5 a
    if 255 < idx then s.raiseUniform c .illegal 0
    else if !isGlob addr then s.raiseUniform c .space addr
    else if !aligned addr.toNat 128 then s.raiseUniform c .misaligned addr
    else
      match s.pagesFault c (addr.toNat % 2 ^ 48) Config.accImage k with
      | some cause => s.raiseUniform c (if cause = .aliasing then .lease else cause) addr
      | none => s.sequence c addr idx 0 false

/-- ASV (R292). -/
def execAsv (a x i : BitVec 5) (l : BitVec 4) (s : State) : Out := accTransfer (.asv a x i l) a x i .store s

/-- ARS (R292). -/
def execArs (a x i : BitVec 5) (l : BitVec 4) (s : State) : Out := accTransfer (.ars a x i l) a x i .load s

/-- LSTAT at issue (R357). -/
def loadPlane (i : Instr) (h : BitVec 2) (f : BitVec 3) (s : State) : Out :=
  issue i s fun c s =>
    if windowOk (c.task.rcd.slotW f.toNat) h.toNat then s.sequence c 0 0 0 false else s.raiseUniform c .illegal 0

/-- LSTAT (R357). -/
def execLstat (t : BitVec 3) (h : BitVec 2) (f : BitVec 3) (l : BitVec 4) (s : State) : Out := loadPlane (.lstat t h f l) h f s

/-- LSTAT.N32 (R357). -/
def execLstatN32 (t : BitVec 3) (h : BitVec 2) (f : BitVec 3) (l : BitVec 4) (s : State) : Out :=
  loadPlane (.lstatN32 t h f l) h f s

/-- PLSW (R370). -/
def execPlsw (l : BitVec 4) (s : State) : Out :=
  issue (.plsw l) s fun c s =>
    if s.isFollower c.w c.g c.task.rcd then s.raiseUniform c .illegal 0 else s.sequence c 0 0 0 false

/-- MSTR at issue, in the order of R363. -/
def multiply (i : Instr) (h : BitVec 2) (x m : BitVec 5) (f : BitVec 3) (top : Nat) (s : State) : Out :=
  issue i s fun c s =>
    let idx := c.index x m
    if s.isFollower c.w c.g c.task.rcd || decide (top < idx) || !windowOk (c.task.rcd.slotW f.toNat) h.toNat then
      s.raiseUniform c .illegal 0
    else s.sequenceOwned c idx 0 false

/-- MSTR (R363, R364). -/
def execMstr (t : BitVec 3) (h : BitVec 2) (x i : BitVec 5) (f : BitVec 3) (l : BitVec 4) (s : State) : Out :=
  multiply (.mstr t h x i f l) h x i f 254 s

/-- MSTR.N32 (R363, R364). -/
def execMstrN32 (t : BitVec 3) (h : BitVec 2) (x i : BitVec 5) (f : BitVec 3) (l : BitVec 4) (s : State) : Out :=
  multiply (.mstrN32 t h x i f l) h x i f 255 s

/-- The formats HCVT converts into (R339). -/
def hcvtTarget (f : Fp.Fmt) (fromF32 : Bool) : Bool :=
  [Fp.Fmt.f16, .bf16, .e4m3, .e5m2, .i8, .lg6].contains f || (f == .f32 && fromF32)

/-- HCVT (R339): bit `w` is the source format, 0 F32 and 1 BF16. -/
def execHcvt (t : BitVec 3) (sl : BitVec 2) (x i : BitVec 5) (f : BitVec 3) (l : BitVec 4) (w : BitVec 1) (n : BitVec 3)
    (s : State) : Out :=
  issue (.hcvt t sl x i f l w n) s fun c s =>
    let slot := c.task.rcd.slotW f.toNat
    let idx := c.index x i
    let (m, sat) := c.slotMode slot
    if slotElem slot = 11 ∨ sliceBad sl slot idx ∨ !hcvtTarget (slotFmt slot) (w == 0#1) then s.raiseUniform c .illegal 0
    else s.sequence c 0 idx m sat

/-! ### At work -/

/-- Whether the sequencer has come to an instruction and its workgroup runs (R82): every earlier one of its core has started. DEDUCED:
notes/assumptions/35.md. -/
def State.seqTurn (s : State) (q : SeqCmd) : Bool :=
  s.atWork q.w && match s.coreOf q.w with
    | some core => (s.sequencerOf core).all fun x => x.started || decide (q.id ≤ x.id)
    | none => false

/-- Whether an instruction accesses memory: it waits for its fork edge (R147). -/
def usesMemory : Instr → Bool
  | .tld _ _ _ _ _ _ _ => true
  | .tst _ _ _ _ _ _ _ => true
  | .asv _ _ _ _ => true
  | .ars _ _ _ _ => true
  | _ => false

/-- Whether an instruction is a PLSW. -/
def isPlsw : Instr → Bool
  | .plsw _ => true
  | _ => false

/-- Whether an instruction is an LSTAT. -/
def isLstat : Instr → Bool
  | .lstat _ _ _ _ => true
  | .lstatN32 _ _ _ _ => true
  | _ => false

/-- The streamed operand of an MSTR: tile, window, slot, and whether it is .N32. -/
def mstrOperands : Instr → Option (Nat × Nat × Nat × Bool)
  | .mstr t h _ _ f _ => some (t.toNat, h.toNat, f.toNat, false)
  | .mstrN32 t h _ _ f _ => some (t.toNat, h.toNat, f.toNat, true)
  | _ => none

/-- Whether a plane breaks the conditions of R80 for a streamed slot. -/
def Plane.refuses (x : Plane) (r : Record) (slot : W64) (n32 : Bool) : Bool :=
  x.w == 0 || (x.w == 32 && !n32) || !pairsWith (slotFmt slot) (slotFmt (r.slotW x.slot))

/-- Whether the store that a quadrant's results go to belongs to its workgroup (R86, R87). R87 consults ACOWN at the issuer's core alone: where
a follower's store belongs to another context, the MSTR waits until it is free or the follower's, and takes a free one for the follower
(DESIGN CHOICE: notes/assumptions/87.md). A follower that has ended takes no results. -/
def State.storeFree (s : State) (w : Nat) : Bool :=
  match s.wg? w with
  | some g => g.place == .ended || !(s.core g.lastCore).valid || (s.core g.lastCore).owner == g.ctx
  | none => false

/-- Take a quadrant's store where VALID is 0 (R87). -/
def State.ownStore (s : State) (w : Nat) : State :=
  match s.wg? w with
  | some g =>
    let co := s.core g.lastCore
    if co.valid || g.place == .ended then s else s.setCore g.lastCore { co with owner := g.ctx, valid := true }
  | none => s

/-- The quadrants of an MSTR that take results, with their sums, as workgroups (R88). DEDUCED: notes/assumptions/36.md. -/
def State.mstrSums (s : State) (w : Nat) (g : Wg) (r : Record) : List (Nat × List (Nat × Nat)) :=
  let qs := s.quads w g r
  (fusedSums (if qs.length = 1 then 0 else s.fusionOf r)).map fun e =>
    (qs.getD e.1 w, e.2.map fun p => (qs.getD p.1 w, qs.getD p.2 w))

/-- How many units an instruction has: rows of a transfer, chunk passes of an MSTR (R81, R83), parts of a tile's image (DEDUCED:
notes/assumptions/38.md). -/
def State.seqUnits (s : State) (q : SeqCmd) (g : Wg) (r : Record) : Nat :=
  match q.insn with
  | .tld _ sl _ _ _ _ _ => if sl = 0#2 then 32 else 1
  | .tst _ sl _ _ _ _ _ => if sl = 0#2 then 32 else 1
  | .tzr _ sl _ _ _ _ => if sl = 1#2 then 1 else 32
  | .hcvt _ sl _ _ _ _ _ _ => if sl = 0#2 then 32 else 1
  | .ard _ _ _ _ _ _ => 32
  | .awr _ _ _ _ _ _ => 32
  | .asv _ _ _ _ => 32
  | .ars _ _ _ _ => 32
  | i =>
    match mstrOperands i with
    | some (_, _, f, _) =>
      let fm := slotFmt (r.slotW f)
      let sums := (s.mstrSums q.w g r).headD (0, [])
      sums.2.length * (depthOf fm / chunkTerms fm)
    | none => 1

/-- Whether an instruction has read all that it streams: every row of an MSTR has entered the quadrant (R81). -/
def State.streamed (s : State) (x : SeqCmd) (r : Record) : Bool :=
  isMstr x.insn && x.started && (x.fault.isSome || match s.wg? x.w with
    | some g => decide (s.seqUnits x g r ≤ x.pos)
    | none => true)

/-- Whether an instruction waits for an earlier, unfinished one of its core (R81, R82): for a write of a tile register or an accumulator
tile that it names, or for a read of one that it writes; for the planes, which LSTAT and PLSW write and MSTR streams against; an MSTR
for the quadrant. -/
def State.seqBehind (s : State) (q x : SeqCmd) (r : Record) : Bool :=
  let meets := fun (a b : List Nat) => a.any b.contains
  let past := s.streamed x r
  (x.w == q.w && (meets (tilesWritten x.insn) (tilesOf q.insn) || (!past && meets (tilesOf x.insn) (tilesWritten q.insn)))) ||
    meets (accsWritten x.insn x.idx) (accsOf q.insn q.idx) || meets (accsOf x.insn x.idx) (accsWritten q.insn q.idx) ||
    ((isPlsw q.insn || isLstat q.insn) && (isPlsw x.insn || isLstat x.insn)) ||
    (isPlsw q.insn && isMstr x.insn && !past) || (isMstr q.insn && isPlsw x.insn) ||
    (isMstr q.insn && isMstr x.insn && !past)

/-- Whether an instruction's resources are free (R82, R87, R89, R95). -/
def State.seqReady (s : State) (q : SeqCmd) (g : Wg) (r : Record) : Bool :=
  !(s.seqQ.any fun x => decide (x.id < q.id) && s.coreOf x.w == s.coreOf q.w && s.seqBehind q x r) &&
  (tilesOf q.insn).all (fun t => q.cpym.isSome || !s.tileBusy q.w q.id t) &&
    (!usesMemory q.insn || s.forkClear q.w q.t q.fence) &&
    match q.insn with
    | .plsw _ =>
      (s.quads q.w g r).all fun v => !(s.seqQ.any fun x => x.w == v && decide (x.id < q.id) && isLstat x.insn)
    | .lstat _ _ _ _ => !(s.seqQ.any fun x => decide (x.id < q.id) && isPlsw x.insn && (s.quads q.w g r).contains x.w)
    | .lstatN32 _ _ _ _ => !(s.seqQ.any fun x => decide (x.id < q.id) && isPlsw x.insn && (s.quads q.w g r).contains x.w)
    | i => !isMstr i || (s.mstrSums q.w g r).all fun e => s.storeFree e.1

/-- An instruction starts (R82): an MSTR meets its plane checks, and none of them leaves any effect (R80). -/
def State.seqStart (s : State) (q : SeqCmd) (g : Wg) (r : Record) : State :=
  match mstrOperands q.insn with
  | some (_, _, f, n32) =>
    let bad := (s.mstrSums q.w g r).any fun e => e.2.any fun p => match s.wg? p.2 with
      | some v => v.active.refuses r (r.slotW f) n32
      | none => true
    if bad then s.updSeq q.id fun q => { q with started := true, fault := some (.illegal, 0) }
    else ((s.mstrSums q.w g r).foldl (fun (s : State) e => s.ownStore e.1) s).updSeq q.id fun q => { q with started := true }
  | none => s.updSeq q.id fun q => { q with started := true }

/-- How a unit of a transfer ends. -/
inductive SeqRes where
  | ok (s : State)
  | wait (s : State)
  | fault (cause : Cause) (addr : W64)
  | ends (cause : Cause) (addr : W64)

/-- The key of a unit. -/
def SeqCmd.key (q : SeqCmd) : StepKey := ⟨q.dix, q.sub, q.pos⟩

/-- Read `n` bytes of an image from offset `off` (R392, R393). -/
def State.seqRead (s : State) (q : SeqCmd) (off n : Nat) (d : RemoteData) (k : State → List Byte → State) : SeqRes :=
  let a := q.addr + BitVec.ofNat 64 off
  match spaceOf q.addr with
  | .glob va =>
    match s.engRead q.w q.t q.hand 34 q.key (va + off) n d with
    | .ok s1 bs poison => if poison then .fault .poison a else .ok (k s1 bs)
    | .wait s1 => .wait s1
    | .ends cause => .ends cause a
  | _ =>
    match s.engShareRead q.w q.t a n with
    | .ok s1 bs poison => if poison then .fault .poison a else .ok (k s1 bs)
    | .wait s1 => .wait s1
    | .fail e => .fault (if e = 3 then .handle else .space) a
    | .ends cause => .ends cause a

/-- Write bytes of an image from offset `off` (R392, R394). -/
def State.seqWrite (s : State) (q : SeqCmd) (off : Nat) (bs : List Byte) : SeqRes :=
  let a := q.addr + BitVec.ofNat 64 off
  match spaceOf q.addr with
  | .glob va =>
    match s.engWrite q.w q.t q.hand false q.key (wbytesAt (va + off) bs) false with
    | .ok s1 => .ok s1
    | .wait s1 => .wait s1
    | .ends cause => .ends cause a
    | .full x => .fault .shadowFull (BitVec.ofNat 64 (x / 32 * 32))
    | .lehr => .wait (s.stopAtLehr q.w)
  | _ =>
    match s.engShareWrite q.w q.t a bs false with
    | .ok s1 _ _ => .ok s1
    | .wait s1 => .wait s1
    | .fail e => .fault (if e = 3 then .handle else .space) a
    | .ends cause => .ends cause a

/-- A saved tile is restored from its image (R209 step 3): live again, and no longer saved. -/
def State.restoreTile (s : State) (w core a : Nat) (bs : List Byte) : State :=
  (s.setCore core (((List.range 32).foldl (fun (c : Core) m =>
    c.setAccRow a m (accRowOf (bs.drop (320 * m)))) (s.core core)).setLive a true)).updWg w fun g =>
      { g with accSaved := g.accSaved &&& ~~~(1#256 <<< a) }

/-- A tile is not restored, for a sector of its image is poisoned: the context is marked (R209 step 3). -/
def State.markTile (s : State) (w : Nat) (a : W64) : State := s.updWg w fun g => { g with tileMark := some (g.tileMark.getD a) }

/-- The save engine's own ARS for a saved tile (R209 step 3): `outst` 0, for no instruction of a train waits for it. -/
def State.restoreLater (s : State) (w a base : Nat) : State :=
  let (id, s1) := s.fresh
  { s1 with seqQ := s1.seqQ ++
    [⟨id, w, 0, .ars 0 0 0 0, BitVec.ofNat 64 base, a, 0, 0, false, true, true, 0, none, 0, 0, 0, none, []⟩] }

/-- Whether the save engine still restores tiles of a workgroup: it issues behind that (R209 step 5). -/
def State.restoring (s : State) (w : Nat) : Bool := s.seqQ.any fun q => q.w == w && q.outst == 0 && q.cpym.isNone

/-- A unit of the save engine's ARS. -/
def State.restoreUnit (s : State) (q : SeqCmd) (g : Wg) (d : RemoteData) : SeqRes :=
  match s.taskOf? g with
  | none => .wait s
  | some task =>
    let vas := (List.range 320).map fun i => q.addr.toNat + 320 * q.pos + i
    match s.engBytes g task true d 0 vas with
    | .error (some cause) => .ends cause (BitVec.ofNat 64 (vas.headD 0))
    | .error none => .wait (s.askPulls (s.engPulls g task true .load vas))
    | .ok xs =>
      match xs.findIdx? fun x => x.2 with
      | some i => .fault .poison (BitVec.ofNat 64 ((vas.headD 0 + i) / 32 * 32))
      | none => .ok (s.updSeq q.id fun q => { q with buf := q.buf ++ xs.map fun x => x.1 })

/-- The bytes of a column's image from its 32 elements (R391). -/
def columnBytes (f : Fp.Fmt) (xs : List Nat) : List Byte :=
  toBytes (setElems f 0 0 xs) (if f = .lg6 then 24 else 32 * (f.width / 8))

/-- The elements of a column's image: 32 of them, packed as a row's first ones. -/
def columnElems (f : Fp.Fmt) (bs : List Byte) : List Nat := (List.range 32).map fun r => rowElem f (ofBytes bs) r

/-- Set column `c` of a tile register. -/
def Wg.setTileColumn (g : Wg) (t : Nat) (f : Fp.Fmt) (c : Nat) (xs : List Nat) : Wg :=
  (List.range 32).foldl (fun (g : Wg) r => g.setTileRow t r (setElem f (g.tileRow t r) c (xs.getD r 0))) g

/-- The row that unit `pos` of a whole or row slice is. -/
def sliceRow (sl : BitVec 2) (idx pos : Nat) : Nat := if sl = 0#2 then pos else idx

/-- The image bytes of a TST's unit. -/
def Wg.tstBytes (g : Wg) (t : Nat) (sl : BitVec 2) (f : Fp.Fmt) (idx pos : Nat) : List Byte :=
  if sl = 2#2 then columnBytes f (g.tileColumn t f idx)
  else toBytes (g.tileRow t (sliceRow sl idx pos)) 128

/-- The +0 encoding of a format (R395). -/
def zeroOf (f : Fp.Fmt) : Nat := if f = .lg6 then 0x10 else 0

/-- One row of TZR (R395). -/
def Wg.zeroRow (g : Wg) (t : Nat) (sl : BitVec 2) (f : Fp.Fmt) (idx pos : Nat) : Wg :=
  if sl = 2#2 then g.setTileRow t pos (setElem f (g.tileRow t pos) idx (zeroOf f))
  else g.setTileRow t (sliceRow sl idx pos) (setElems f 0 0 (List.replicate (if f = .lg6 then 160 else 0) (zeroOf f)))

/-- One row of HCVT (R339, R71): the elements of the destination. -/
def hcvtRow (slot : W64) (src : Fp.Fmt) (mode : Fp.Mode) (sat : Bool) (seed dix r row : Nat) : List Nat :=
  let es := perRow src
  let xs := (List.range es).map fun c => Fp.decode src (rowElem src row c)
  let f := slotFmt slot
  let n := slotHad slot
  (List.range es).map fun c =>
    let rnd := Fp.Rnd.at mode sat seed dix 0 (r * es + c)
    if n = 0 then Fp.round f (xs.getD c .nan) rnd
    else Fp.hadRound f n (Fp.hadSum ((xs.drop (c / n * n)).take n) (c % n)) rnd

/-- Tile registers and planes after one unit of an instruction that touches no memory and no accumulator. -/
def Wg.tileStep (g : Wg) (q : SeqCmd) (r : Record) : Wg :=
  match q.insn with
  | .tzr t sl _ _ f _ => g.zeroRow t.toNat sl (slotFmt (r.slotW f.toNat)) q.idx q.pos
  | .hcvt t sl _ _ f _ w n =>
    let slot := r.slotW f.toNat
    let i := sliceRow sl q.idx q.pos
    let xs := hcvtRow slot (if w = 0#1 then .f32 else .bf16) (Fp.Mode.ofCode q.mode) q.sat r.seed.toNat q.dix.toNat i
      (g.tileRow n.toNat i)
    g.setTileRow t.toNat i (setElems (slotFmt slot) (g.tileRow t.toNat i) 0 xs)
  | .lstat t h f _ => { g with shadow := ⟨64, depthOf (slotFmt (r.slotW f.toNat)), h.toNat, f.toNat,
      (g.tiles.filter fun e => decide (4096 * t.toNat ≤ e.1) && decide (e.1 < 4096 * (t.toNat + 2))).map fun e =>
        (e.1 - 4096 * t.toNat, e.2)⟩ }
  | .lstatN32 t h f _ => { g with shadow := ⟨32, depthOf (slotFmt (r.slotW f.toNat)), h.toNat, f.toNat,
      (g.tiles.filter fun e => decide (4096 * t.toNat ≤ e.1) && decide (e.1 < 4096 * (t.toNat + 1))).map fun e =>
        (e.1 - 4096 * t.toNat, e.2)⟩ }
  | _ => g

/-- Row `m` of ARD (R291): the accumulator tile's elements into a tile register. -/
def Wg.ardRow (g : Wg) (co : Core) (q : SeqCmd) (r : Record) (t h : Nat) (f : Fp.Fmt) (m : Nat) : Wg :=
  let xs := (List.range 32).map fun n =>
    Fp.round f (Fp.decode .acc80 (co.accElem q.idx m n))
      (Fp.Rnd.at (Fp.Mode.ofCode q.mode) q.sat r.seed.toNat q.dix.toNat 0 (32 * m + n))
  g.setTileRow t m (setElems f (g.tileRow t m) (32 * h) xs)

/-- Row `m` of AWR (R296): a tile register's elements into the accumulator tile. -/
def Core.awrRow (co : Core) (g : Wg) (idx t h : Nat) (f : Fp.Fmt) (m : Nat) : Core :=
  co.setAccRow idx m ((List.range 32).map fun n =>
    Fp.round .acc80 (Fp.decode f (rowElem f (g.tileRow t m) (32 * h + n))) .rne)

/-- One unit of a started instruction other than MSTR (R83). -/
def State.seqUnit (s : State) (q : SeqCmd) (g : Wg) (r : Record) (d : RemoteData) : SeqRes :=
  let co := s.core g.lastCore
  match q.insn with
  | .tld t sl _ _ f _ _ =>
    if sl = 2#2 then
      let fm := slotFmt (r.slotW f.toNat)
      s.seqRead q 0 (imageSize sl (r.slotW f.toNat)) d fun s bs =>
        s.updWg q.w fun g => g.setTileColumn t.toNat fm q.idx (columnElems fm bs)
    else
      s.seqRead q (128 * q.pos) 128 d fun s bs =>
        s.updWg q.w fun g => g.setTileBytes t.toNat (128 * (if sl = 0#2 then q.pos else q.idx)) bs
  | .tst t sl _ _ f _ _ => s.seqWrite q (128 * q.pos) (g.tstBytes t.toNat sl (slotFmt (r.slotW f.toNat)) q.idx q.pos)
  | .asv _ _ _ _ => s.seqWrite q (320 * q.pos) (co.accBytes q.idx (320 * q.pos) 320)
  | .ars _ _ _ _ => if q.outst = 0 then s.restoreUnit q g d else s.seqRead q (320 * q.pos) 320 d fun s bs => s.updSeq q.id fun q => { q with buf := q.buf ++ bs }
  | .plsw _ =>
    .ok ((s.quads q.w g r).foldl (fun (s : State) v =>
      s.updWg v fun g => { g with active := g.shadow, shadow := g.active }) s)
  | .ard t h _ _ f _ => .ok (s.setWg q.w (g.ardRow co q r t.toNat h.toNat (slotFmt (r.slotW f.toNat)) q.pos))
  | .awr t h _ _ f _ => .ok (s.setCore g.lastCore (co.awrRow g q.idx t.toNat h.toNat (slotFmt (r.slotW f.toNat)) q.pos))
  | _ => .ok (s.setWg q.w (g.tileStep q r))

/-- The workgroup and record of an instruction in the queue. -/
def State.seqOwner (s : State) (q : SeqCmd) : Option (Wg × Record) :=
  match s.wg? q.w with
  | some g => (s.taskOf? g).map fun task => (g, task.rcd)
  | none => none

/-- An instruction in the queue starts, or moves its next unit (R82, R83); `d` is what another chip sent. -/
def State.seqMove (s : State) (id : Nat) (d : RemoteData) : State :=
  match s.seqCmd? id with
  | none => s
  | some q =>
    match s.seqOwner q with
    | none => s
    | some (g, r) =>
      if !s.seqTurn q then s
      else if !q.started then (if s.seqReady q g r then s.seqStart q g r else s)
      else if q.fault.isSome || isMstr q.insn || decide (s.seqUnits q g r ≤ q.pos) then s
      else
        match s.seqUnit q g r d with
        | .ok s1 => s1.updSeq id fun q => { q with pos := q.pos + 1 }
        | .wait s1 => s1
        | .fault cause a => s.updSeq id fun q => { q with fault := some (cause, a) }
        | .ends cause a =>
          let pc := match s.train? q.w q.t with
            | some tr => match tr.outst? q.outst with
              | some o => o.pc
              | none => 0
            | none => 0
          s.endTask g.slot ⟨cause, pc, a, 0, g.wgid⟩

/-- SEQUENCER_START (R82): an instruction starts, and its rows move. -/
def execSequencerStart (q : Nat) (d : List Byte) (tags : SectorTags) (s : State) : Out :=
  event true s fun s => s.seqMove q ⟨d, tags.poison, tags.chk⟩

/-- One chunk added to one element (R66, R68): `up` says that the chunk comes from the upper quadrant, whose sum reaches the
lower one already rounded, which is the first rounding of R66. -/
def chunkElem (acc : Nat) (sa : W64) (ha a : Nat) (sb : W64) (hb b i : Nat) : Nat := Fp.chunkAdd acc (chunkTermsOf sa ha a sb hb b i)

/-- One chunk pass into a store (R80, R364): tiles `idx` on, `cols` columns. -/
def Core.chunkPass (co : Core) (stream : Wg) (t h : Nat) (slot : W64) (plane : Plane) (pslot : W64) (idx cols i : Nat) : Core :=
  let tiles := List.range (cols / 32)
  let bs := (List.range cols).map plane.row
  let co1 := (List.range 32).foldl (fun (c : Core) m =>
    let a := stream.tileRow t m
    tiles.foldl (fun (c : Core) n => c.setAccRow (idx + n) m ((List.range 32).map fun j =>
      chunkElem (co.accElem (idx + n) m j) slot h a pslot plane.h (bs.getD (32 * n + j) 0) i)) c) co
  tiles.foldl (fun (c : Core) n => c.setLive (idx + n) true) co1

/-- One chunk pass of an MSTR in every quadrant that takes results (R66, R68, R88). -/
def State.mstrPass (s : State) (q : SeqCmd) (g : Wg) (r : Record) (t h f : Nat) (n32 : Bool) : State :=
  let slot := r.slotW f
  let per := depthOf (slotFmt slot) / chunkTerms (slotFmt slot)
  (s.mstrSums q.w g r).foldl (fun (s : State) e =>
    let p := e.2.getD (q.pos / per) (0, 0)
    match s.wg? e.1, s.wg? p.1, s.wg? p.2 with
    | some dst, some stream, some st =>
      if dst.place = .ended then s else s.setCore dst.lastCore ((s.core dst.lastCore).chunkPass stream t h slot st.active (r.slotW st.active.slot) q.idx
        (if n32 then 32 else 64) (q.pos % per))
    | _, _, _ => s) (s.updSeq q.id fun q => { q with pos := q.pos + 1 })

/-- MSTR_CHUNK_PASS (R66): the next pass of the MSTR that runs. -/
def State.mstrMove (s : State) (id : Nat) : State :=
  match s.seqCmd? id with
  | none => s
  | some q =>
    match s.seqOwner q, mstrOperands q.insn with
    | some (g, r), some (t, h, f, n32) =>
      if s.seqTurn q && q.started && q.fault.isNone && decide (q.pos < s.seqUnits q g r) then s.mstrPass q g r t h f n32 else s
    | _, _ => s

/-- MSTR_CHUNK_PASS (R66). -/
def execMstrChunkPass (q : Nat) (s : State) : Out := event true s fun s => s.mstrMove q

/-- Whether an instruction has finished or faulted, and what it wrote has arrived (R82). -/
def State.seqDone (s : State) (q : SeqCmd) (g : Wg) (r : Record) : Bool :=
  s.seqTurn q && q.started && (q.fault.isSome || decide (s.seqUnits q g r ≤ q.pos)) &&
    (!usesMemory q.insn || s.engineQuiet q.w q.t)

/-- The folds of a finished TST, in ascending address (R394): none in the scratchpad. -/
def Wg.tstFolds (g : Wg) (q : SeqCmd) (r : Record) : List (W64 × W64) :=
  match q.insn, spaceOf q.addr with
  | .tst t sl _ _ f _ _, .glob va =>
    let n := if sl = 0#2 then 32 else 1
    foldsOf ((List.range n).flatMap fun i =>
      wbytesAt (va + 128 * i) (g.tstBytes t.toNat sl (slotFmt (r.slotW f.toNat)) q.idx i)) false
  | _, _ => []

/-- The live map and the digest after an instruction that has finished without a fault, and what an ARS has read (R85, R292, R394). -/
def State.seqEffect (s : State) (q : SeqCmd) (g : Wg) (r : Record) : State :=
  let live := fun (on : Bool) => s.setCore g.lastCore ((s.core g.lastCore).setLive q.idx on)
  match q.insn with
  | .azr _ _ _ => live false
  | .asv _ _ _ _ => live false
  | .ars _ _ _ _ => s.setCore g.lastCore (Core.setLive ((List.range 32).foldl (fun (c : Core) m =>
      c.setAccRow q.idx m (accRowOf (q.buf.drop (320 * m)))) (s.core g.lastCore)) q.idx true)
  | .awr _ _ _ _ _ _ => live true
  | .tst _ _ _ _ _ _ _ => s.updTrain q.w q.t fun tr => tr.dqClose q.outst (g.tstFolds q r)
  | _ => s

/-- An instruction completes (R82): the train's instruction may, or has a completion-time fault (R41). DEDUCED:
notes/assumptions/37.md. -/
def State.seqFinish (s : State) (q : SeqCmd) (g : Wg) (r : Record) : State :=
  let s0 := { s with seqQ := s.seqQ.filter fun x => x.id != q.id }
  let s1 := if q.fault.isNone then s0.seqEffect q g r else s0
  if q.outst = 0 ∧ q.cpym = none then
    match q.fault with
    | some (_, a) => s0.markTile q.w a
    | none => s0.restoreTile q.w g.lastCore q.idx q.buf
  else match q.cpym, q.fault with
  | none, none => s1.updTrain q.w q.t fun tr => tr.updOutst q.outst fun o => { o with waitsFor := none }
  | none, some (cause, a) =>
    (s1.faultOutst q.w q.t q.outst cause a 0).updTrain q.w q.t fun tr => tr.updOutst q.outst fun o => { o with waitsFor := none }
  | some _, none => s1
  | some c, some (cause, a) =>
    match s1.strCmd? c with
    | none => s1
    | some k =>
      s1.updTrain q.w q.t fun tr =>
        if tr.ended || tr.splits.isEmpty then tr
        else
          let o := { k.origin with fault := some (k.origin.ctFault cause a 0) }
          { tr with outst := (tr.outst.filter fun x => decide (x.id < o.id)) ++ o ::
              tr.outst.filter fun x => decide (o.id < x.id) }

/-- What the completion of a sequencer instruction does. -/
def State.seqComplete (s : State) (id : Nat) : State :=
  match s.seqCmd? id with
  | none => s
  | some q =>
    match s.seqOwner q with
    | some (g, r) => if s.seqDone q g r then s.seqFinish q g r else s
    | none => s

/-- SEQUENCER_COMPLETE (R82). -/
def execSequencerComplete (q : Nat) (s : State) : Out := event true s fun s => s.seqComplete q

end Sys2Proof.Machine
end

