-- ==== Sys2Proof/Machine/Post.lean ====
section
/-! DEFINITION. Event queues (R102 to R104): EVPST (R330), EVPOP (R328, R329), the posting of records, and what the chip sends
to the host (R423). -/

namespace Sys2Proof.Machine

/-! ### Frames to the host -/

/-- The ports whose HOSTPORT strap is 1 (R9). -/
def State.hostPorts (s : State) : List Nat := [0, 1].filter fun n => s.hostPort.getLsbD n

/-- What a port's clock shows as it stamps the next frame (R250). -/
def State.stamp (s : State) (port : Nat) : W64 :=
  BitVec.ofInt 64 (s.eth.getD port .reset).clock + Config.stampTick s.out.length

/-- Send a frame on its port, which stamps it (R250). -/
def State.emit (s : State) (f : OutFrame) : State := { s with out := s.out ++ [{ f with stamp := s.stamp f.port }] }

/-- Send one EVENT frame with a 64-byte record on a port (R423). -/
def State.sendEvent (s : State) (tenant status port : Nat) (bs : List Byte) : State :=
  s.emit ⟨port, 0x40, tenant, 0, 0, status, bs, 0⟩

/-- Send a record on every HOSTPORT port and on the submitting port, once each (R423). -/
def State.sendAll (s : State) (tenant status : Nat) (port : Option Nat) (bs : List Byte) : State :=
  let ports := [0, 1].filter fun n => s.hostPorts.contains n || port == some n
  ports.foldl (fun s n => s.sendEvent tenant status n bs) s

/-! ### Queues -/

/-- A queue's header (R102). -/
structure QHead where
  cap : Nat
  head : Nat
  tail : Nat
  lost : Nat
  bad : Bool
  deriving DecidableEq, Repr

/-- The fields of a header, and whether it is malformed (R102, R328). -/
def QHead.parse (bs : List Byte) : QHead :=
  let cap := fieldOfBytes bs 0 4
  let head := fieldOfBytes bs 8 8
  let tail := fieldOfBytes bs 0x10 8
  { cap := cap, head := head, tail := tail, lost := fieldOfBytes bs 0x18 8
    bad := !([4, 8, 16, 32, 64, 128, 256, 512, 1024, 2048, 4096, 8192, 16384, 32768, 65536].contains cap) ||
      decide (cap < (tail + 2 ^ 64 - head) % 2 ^ 64) || fieldOfBytes bs 4 4 != 0 || fieldOfBytes bs 0x20 32 != 0 }

/-- The address of record `i` of a queue (R102). -/
def slotVa (evq cap i : Nat) : Nat := evq + 64 + 64 * (i % cap)

/-- What a queue's home finds: the header at a chip offset of this chip, a home on another chip, lines that must be pulled first, or
no access. -/
inductive QFind where
  | here (off : Nat) (h : QHead) (poison : Bool)
  | away
  | wait (pas : List Nat)
  | ends (cause : Cause)

/-- Where a record goes for a task (R102, R103): through its pinned leaves, or through the tables when it never pinned. -/
def State.reach (s : State) (core : Nat) (t : Task) (hmode : Bool) (va : Nat) (k : Access) : Xlate :=
  match t.pinFor va with
  | some _ => s.translate core t hmode va k
  | none =>
    if !t.admits hmode va k then .lease
    else
      match s.walk t.rcd.tenant va with
      | .leaf lv e => s.useLeaf e lv va
      | _ => .lease

/-- Find a queue for a task on a core. -/
def State.findQueue (s : State) (core : Nat) (t : Task) (hmode : Bool) (evq : Nat) : QFind :=
  match s.walkPull core t.rcd.tenant evq with
  | some pa => .wait [pa]
  | none =>
  match s.reach core t hmode evq .atomic with
  | .lease => .ends .lease
  | .aliasing => .ends .lease
  | .pullLost => .ends .pullLost
  | .ok pa disc _ =>
    if s.pullLost pa then .ends .pullLost
    else if !disc && s.pullPending pa then .wait [pa]
    else if disc then .here (offOf pa) (QHead.parse (List.replicate 64 0)) false
    else if s.isLocal pa then .here (offOf pa) (QHead.parse (s.homeBytes (offOf pa) 64)) (s.anyPoison (offOf pa) 64)
    else .away

/-- A 64-bit word at its home. -/
def State.writeWord (s : State) (off : Nat) (x : Nat) : State := s.writeHome (homeBytesAt off (toBytes (x % 2 ^ 64) 8)) .other false

/-! ### EVPOP -/

/-- The eight words of a record. -/
def recordWords (bs : List Byte) : List W64 := (List.range 8).map fun i => word64 ((bs.drop (8 * i)).take 8)

/-- The request of an EVPOP goes to a queue's home on another chip (R329): its answer comes as a load's does. -/
def State.popAway (s : State) (w t o : Nat) (g : Wg) (evq : W64) : State :=
  s.updTrain w t fun tr => tr.updOutst o fun x => if x.loads.isEmpty then
    { x with
      loads := [⟨32, evq, [], false, none, false, s.clock, false, g.ctx, g.ctxgen⟩], waitsFor := none, acq := some 3 }
    else x

/-- EVPOP at the queue's home (R329): one indivisible step; the result goes to the instruction. DEDUCED:
notes/assumptions/49.md. -/
def State.popStep (s : State) (w t o : Nat) : State :=
  match s.wg? w, s.train? w t with
  | some g, some tr =>
    match s.taskOf? g, tr.outst? o with
    | some task, some x =>
      let evq := x.ops.getD 0 0
      match s.findQueue g.lastCore task tr.hmode evq.toNat with
      | .ends cause => s.endTask g.slot ⟨cause, x.pc, evq, 0, g.wgid⟩
      | .wait pas => s.askPulls pas
      | .away => s.popAway w t o g evq
      | .here off h poison =>
        if poison then s.faultCommand w t o .poison evq
        else if h.bad then s.faultCommand w t o .record evq
        else if h.tail = h.head then s.finishCommand w t o (List.replicate 8 0)
        else
          let va := slotVa evq.toNat h.cap h.head
          match s.readLine w va .load with
          | .ends cause => s.endTask g.slot ⟨cause, x.pc, evq, 0, g.wgid⟩
          | .ready bs p =>
            let half := va % 128 / 64
            if p.getLsbD (2 * half) || p.getLsbD (2 * half + 1) then s.faultCommand w t o .poison evq
            else
              ((((s.takeInbox w va).l2Use (s.boxPa off) task.rcd.tenant).writeWord (off + 8) (h.head + 1)).acquire w t 3).finishCommand w t o
                (recordWords ((bs.drop (64 * half)).take 64))
          | .ask pa core => s.askFor w t pa core
          | .wait => s
    | _, _ => s
  | _, _ => s

/-- What an EVPOP finds of its queue as it issues (R328): the header, with its poison; lines that must come first; or no access. A header
on another chip comes to the core. -/
inductive QSeen where
  | header (h : QHead) (poison : Bool)
  | ask (pa : Nat)
  | wait (pas : List Nat)
  | ends (cause : Cause)

/-- Look at a queue's header, and at the leases of the record that HEAD names. -/
def State.seeQueue (s : State) (c : Ctx) (evq : Nat) : QSeen :=
  let vas := (List.range 64).map fun i => evq + i
  let slot := fun (h : QHead) (poison : Bool) =>
    if poison || h.bad || h.tail == h.head then QSeen.header h poison
    else match s.reach c.core c.task c.tr.hmode (slotVa evq h.cap h.head) .load with
      | .ok _ _ _ => .header h poison
      | .pullLost => .ends .pullLost
      | _ => .ends .lease
  match s.findQueue c.core c.task c.tr.hmode evq with
  | .ends cause => .ends cause
  | .wait pas => .wait pas
  | .here _ h poison => slot h poison
  | .away =>
    match s.missing c.g c.task c.tr.hmode vas with
    | some pa => .ask pa
    | none =>
      match s.engBytes c.g c.task c.tr.hmode (s.fromCore c.g c.task c.tr.hmode vas) 0 vas with
      | .ok xs => slot (QHead.parse (xs.map fun x => x.1)) (xs.any fun x => x.2)
      | .error (some cause) => .ends cause
      | .error none => .wait []

/-- A level-3 EVPOP that has met no fault at issue tells its trailing copy so (R227): it issues then. -/
def State.logIssued (s : State) (c : Ctx) : State :=
  if c.task.rcd.integ = 3 then
    s.updTask c.g.slot fun t => { t with log := t.log ++ [⟨c.g.wgid, c.tr.trn, 32, c.sp.dix, c.sub, [3]⟩] }
  else s

/-- EVPOP (R328, R329). -/
def execEvpop (d b : BitVec 5) (l : BitVec 4) (s : State) : Out :=
  issue (.evpop d b l) s fun c s =>
    let evq := c.k5 b
    if !isGlob evq then s.raiseUniform c .space evq
    else if !aligned evq.toNat 64 then s.raiseUniform c .misaligned evq
    else if !s.forkClear c.w c.t c.tr.nextId then s.stall c .retry
    else
      let pop := fun (s : State) => s.issueOnce c [evq] fun s o => s.popStep c.w c.t o
      if c.g.mode = .trail then
        match s.takeLog c.w c.tr.trn 32 c.sp.dix c.sub with
        | none => s.stall c .retry
        | some (2 :: code :: addr :: _, s1) => s1.raiseUniform c (causeOf code.toNat) addr
        | some (_, s1) => pop s1
      else if c.g.mode.takesResult c.insn then pop s
      else
        match s.seeQueue c evq.toNat with
        | .ends cause => s.raiseUniform c cause evq
        | .wait pas => (s.askPulls pas).stall c .retry
        | .ask pa => s.askLine c pa
        | .header h poison =>
          let s := s.dropInbox c.g c.task c.tr.hmode ((List.range 64).map fun i => evq.toNat + i)
          if !poison && h.bad then s.raiseLogged c .record evq else pop (s.logIssued c)

/-! ### EVPST -/

/-- EVPST at the event unit (R330): nothing is posted in a task without a queue. -/
def State.postProgram (s : State) (w t o : Nat) : State :=
  match s.wg? w, s.train? w t with
  | some g, some tr =>
    match s.taskOf? g, tr.outst? o with
    | some task, some x =>
      if task.rcd.evq = 0 then s.finishCommand w t o []
      else s.post g.slot task 2 0 (x.ops.flatMap fun k => toBytes k.toNat 8) (some (w, t, o))
    | _, _ => s
  | _, _ => s

/-- EVPST (R330). -/
def execEvpst (a : BitVec 5) (l : BitVec 4) (s : State) : Out :=
  issue (.evpst a l) s fun c s =>
    let go := fun (s : State) =>
      s.issueOnce c ((List.range 5).map fun i => c.tr.getK (a.toNat + i)) fun s o => s.postProgram c.w c.t o
    match s.release c.w c.t c.p 3 with
    | .wait s1 => s1.stall c .retry
    | .done s1 => go s1
    | .lost s1 => go s1

/-! ### Posting -/

/-- The 64 bytes of a record (R104) with its SEQ. -/
def Post.bytes (p : Post) (seq : Nat) : List Byte :=
  toBytes (p.type + p.cause * 2 ^ 8 + seq % 2 ^ 32 * 2 ^ 32) 8 ++ toBytes p.task.toNat 8 ++ toBytes p.elapsed.toNat 8
    ++ (List.range 40).map fun i => p.payload.getD i 0

/-- A record that goes to the host instead of a queue (R102, R103, R423). -/
def State.divert (s : State) (p : Post) (status : Nat) : State :=
  let (n, s1) := s.drawFree
  s1.sendAll p.tenant status p.port (p.bytes (Config.seqUnposted n).toNat)

/-- An EVPST has been posted or dropped. -/
def State.postDone (s : State) (p : Post) : State :=
  match p.outst with
  | some (w, t, o) => s.finishCommand w t o []
  | none => s

/-- How the write of a record into its slot stands. -/
inductive PutRes where
  | done (s : State)
  | wait (pa : Nat)
  | ends

/-- Put a record into its slot (R102): on this chip; a slot of another chip is written there. A page without data is revived first
(R181), and a line whose pull is not finished pulled (R182). -/
def State.putRecord (s : State) (t : Task) (va : Nat) (bs : List Byte) : PutRes :=
  match s.reach 0 t false va .store with
  | .ok pa disc _ =>
    let s1 := if disc then s.revive t.rcd.tenant (va / 4096) else s
    if s.pullLost pa then .ends
    else if !disc && s.pullPending pa then .wait pa
    else if s.isLocal pa then .done ((s1.l2Use pa t.rcd.tenant).writeHome (homeBytesAt (offOf pa) bs) .other false)
    else .done s1
  | _ => .ends

/-- Whether an earlier record waits for the same queue. DEDUCED: notes/assumptions/50.md. -/
def State.postBehind (s : State) (i : Nat) (p : Post) : Bool := (s.posts.take i).any fun q => q.evq == p.evq && q.tenant == p.tenant

/-- A record whose header cannot take it (R103, R330): an EVPST faults, any other goes to the host. -/
def State.postBad (s : State) (p : Post) : State :=
  match p.outst with
  | some (w, t, o) => s.faultCommand w t o .record p.evq
  | none => s.divert p 3

/-- A record that lies outside its task's leases, or on a lost chip (R103, R330): an EVPST's task ends, any other goes to the host. -/
def State.postEnds (s : State) (p : Post) (cause : Cause) : State :=
  match p.outst with
  | some (w, t, o) =>
    match s.train? w t, s.wg? w with
    | some tr, some g => s.endTask p.slot ⟨cause, ((tr.outst? o).map fun x => x.pc).getD 0, p.evq, 0, g.wgid⟩
    | _, _ => s
  | none => s.divert p 3

/-- A record stands in its queue and TAIL has advanced (R102): its frame follows (R423). -/
def State.postSent (s : State) (p : Post) (bs : List Byte) : State :=
  match p.port with
  | some n => if p.type = 2 then s.postDone p else (s.postDone p).sendEvent p.tenant 0 n bs
  | none => s.postDone p

/-- The home of a queue on another chip has answered with the header it found (R102): the record was written there and TAIL has advanced,
unless the header is malformed or the queue full. DEDUCED: notes/assumptions/50.md. -/
def State.postAway (s s0 : State) (i : Nat) (p : Post) (task : Task) (d : RemoteData) : State :=
  let h := QHead.parse (d.bytes.take 64)
  if d.bytes.length < 64 then s
  else if remoteBad d 0 || remoteBad d 1 || h.bad then s0.postBad p
  else if (h.tail + 2 ^ 64 - h.head) % 2 ^ 64 = h.cap then (if p.type = 2 then s0.postDone p else s)
  else if s.postBehind i p then s
  else
    match s.reach 0 task false (slotVa p.evq.toNat h.cap h.tail) .store with
    | .ok _ _ _ => s0.postSent p (p.bytes h.tail)
    | _ => s0.postEnds p .lease

/-- The post unit takes record `i` (R102, R103, R330, R423); `d` is the header that the home of a queue on another chip found. -/
def State.postStep (s : State) (i : Nat) (d : RemoteData) : State :=
  match s.posts[i]? with
  | none => s
  | some p =>
    let s0 := { s with posts := s.posts.eraseIdx i }
    match s.task? p.slot with
    | none => s0
    | some task =>
      if p.evq = 0 then (if p.type = 2 then s0.postDone p else s0.divert p 0)
      else
        match s.findQueue 0 task false p.evq.toNat with
        | .wait pas => s.askPulls pas
        | .ends cause => s0.postEnds p cause
        | .away => s.postAway s0 i p task d
        | .here off h poison =>
          if poison || h.bad then s0.postBad p
          else if (h.tail + 2 ^ 64 - h.head) % 2 ^ 64 = h.cap then
            if p.type = 2 then (s0.writeWord (off + 0x18) (h.lost + 1)).postDone p else s
          else if s.postBehind i p then s
          else
            match s.walkPull 0 p.tenant (slotVa p.evq.toNat h.cap h.tail) with
            | some pa => s.askPulls [pa]
            | none =>
              match s0.putRecord task (slotVa p.evq.toNat h.cap h.tail) (p.bytes h.tail) with
              | .done s1 => (s1.writeWord (off + 0x10) (h.tail + 1)).postSent p (p.bytes h.tail)
              | .wait pa => s.askPulls [pa]
              | .ends => s0.postEnds p .lease

/-- COMPLETION_RECORD_POST (R102): not while main memory stands still (R258). -/
def execCompletionRecordPost (x : PostTurn) (s : State) : Out :=
  event true s fun s => if s.clocked then s.postStep x.record x.header else s

end Sys2Proof.Machine
end

