-- ==== Sys2Proof/Machine/Snapshot.lean ====
section
/-! DEFINITION. Snapshots (R154 to R166, R376 to R380, R415): SNAP, SACC, SREJ, SQRY, the domain's snapshot unit, and what the
supervisor does with level 0. -/

namespace Sys2Proof.Machine

/-! ### Domains -/

/-- With no live level, every pool and reserve empties into the free count (R415). -/
def Domain.settle (d : Domain) : Domain :=
  if d.levels.isEmpty then
    { d with
      free := d.free + (d.pools.map fun e => e.2).sum + (d.reserves.map fun e => e.2).sum
      pools := [], reserves := [] }
  else d

/-- The lowest generation that no live level holds (R154). -/
def Domain.freeGen (d : Domain) : Nat := (firstFrom (fun g => !(d.levels.any fun l => l.gen == g)) 15 1).getD 1

/-- Entries of a level. -/
def Domain.ofLevel (d : Domain) (n : Nat) : List Shadow := d.entries.filter fun e => e.level == n

/-- The live level that a handle names (R157): level 0 has no handle. -/
def Domain.named (d : Domain) (h : W64) : Option Level :=
  d.levels.find? fun l => l.n != 0 && bitsAt h.toNat 4 3 == l.n && bitsAt h.toNat 0 4 == l.gen

/-- A level's handle (R157). -/
def Level.handle (l : Level) : W64 := BitVec.ofNat 64 (l.gen + 16 * l.n)

/-- Give the lines of a domain that carry a generation another tag. -/
def State.retag (s : State) (slot gen : Nat) (f : Nat → Nat) : State :=
  s.lineInfo.foldl (fun (s : State) e =>
    if e.2.tag = gen ∧ s.domainOf (e.1 * 128) = some slot then s.setMeta e.1 { e.2 with tag := f e.1 } else s) s

/-- Open a level over ranges (R159, R166): the innermost, with the lowest free generation. -/
def Domain.openLevel (d : Domain) (n : Nat) (ranges : List (Nat × Nat)) : Domain :=
  { d with levels := ⟨n, d.freeGen, ranges, false⟩ :: d.levels }

/-- What becomes of an entry of an accepted level (R161): the domain, and the tag of its line. DEDUCED:
notes/assumptions/51.md. -/
def Domain.acceptEntry (d : Domain) (below : List Level) (va : Nat) (e : Shadow) : Domain × Nat :=
  match below.find? fun l => l.covers va with
  | none => ({ d with free := d.free + 1 }, 0)
  | some c =>
    if e.oldtag = c.gen then ({ d with free := d.free + 1 }, c.gen)
    else ({ d with entries := d.entries ++ [{ e with level := c.n }] }, c.gen)

/-- Whether two lists of ranges share a line (R161). -/
def rangesMeet (a b : List (Nat × Nat)) : Bool :=
  a.any fun x => b.any fun y => decide (x.1 < y.1 + y.2) && decide (y.1 < x.1 + x.2)

/-- Break every level below that covers, innermost, some line of the ranges (R161). -/
def breakBelow (ranges : List (Nat × Nat)) : List Level → List Level
  | [] => []
  | l :: ls =>
    let pages := ranges.flatMap fun r => (List.range (r.2 / 4096)).map fun i => r.1 + 4096 * i
    let left := pages.filter fun p => !l.covers p
    (if rangesMeet ranges l.ranges then { l with broken := true } else l) ::
      breakBelow (left.map fun p => (p, 4096)) ls

/-- Accept the innermost level (R161). -/
def State.acceptInnermost (s : State) (slot : Nat) : State :=
  match s.doms.look slot with
  | none => s
  | some d =>
    match d.levels with
    | [] => s
    | l :: below =>
      let d0 := { d with entries := d.entries.filter fun e => e.level != l.n, levels := below }
      let (d1, s1) := (d.ofLevel l.n).foldl (fun (x : Domain × State) e =>
        let (d', tag) := x.1.acceptEntry below (s.domainVa (e.line * 128)) e
        (d', x.2.setMeta e.line { x.2.metaOf e.line with tag := tag })) (d0, s)
      let d2 := if l.broken then { d1 with levels := breakBelow l.ranges d1.levels } else d1
      let s2 := s1.retag slot l.gen fun line =>
        ((below.find? fun c => c.covers (s.domainVa (line * 128))).map fun c => c.gen).getD 0
      s2.setDom slot d2.settle

/-- Accept levels down to level `n` (R161), at most `k` of them. -/
def State.acceptTo (s : State) (slot n : Nat) : Nat → State
  | 0 => s
  | k + 1 =>
    match s.doms.look slot with
    | none => s
    | some d =>
      match d.levels with
      | [] => s
      | l :: _ => if l.n < n then s else (s.acceptInnermost slot).acceptTo slot n k

/-- L1 sectors of the core whose train restores take what the home now holds (R120, R162). -/
def State.l1Refresh (s : State) (core line : Nat) : State :=
  let c := s.core core
  s.setCore core { c with l1 := c.l1.map fun x =>
    if x.sec / 4 = s.boxPa (line * 128) / 128 ∧ !x.priv then
      { x with data := s.homeBytes (x.sec % 2 ^ 37 * 32) 32, poison := s.poisonAt (x.sec % 2 ^ 37 * 32) }
    else x }

/-- Write an entry back as one whole-line write at its home (R162). -/
def State.restore (s : State) (core : Option Nat) (e : Shadow) : State :=
  let s1 := (s.fillHome (e.line * 128) e.data e.poison).touchL2 (s.boxPa (e.line * 128) / 128) 0xF
  let s2 := s1.setMeta e.line { s1.metaOf e.line with tag := e.oldtag }
  match core with
  | some n => s2.l1Refresh n e.line
  | none => s2

/-- Reject the innermost level (R162). -/
def State.rejectInnermost (s : State) (slot : Nat) (core : Option Nat) : State :=
  match s.doms.look slot with
  | none => s
  | some d =>
    match d.levels with
    | [] => s
    | l :: below =>
      let es := d.ofLevel l.n
      let s1 := es.foldl (fun (s : State) e => s.restore core e) s
      s1.setDom slot
        (Domain.settle { d with entries := d.entries.filter (fun e => e.level != l.n), levels := below, free := d.free + es.length })

/-- Reject levels down to level `n` (R162), at most `k` of them. DEDUCED: notes/assumptions/52.md. -/
def State.rejectTo (s : State) (slot n : Nat) (core : Option Nat) : Nat → State
  | 0 => s
  | k + 1 =>
    match s.doms.look slot with
    | none => s
    | some d =>
      match d.levels with
      | [] => s
      | l :: _ => if l.n < n then s else (s.rejectInnermost slot core).rejectTo slot n core k

/-- Remove every level that `f` picks without restoring (R166, R246): its entries are freed, its lines' tags cleared. -/
def State.removeLevels (s : State) (slot : Nat) (f : Level → Bool) : State :=
  match s.doms.look slot with
  | none => s
  | some d =>
    let gone := d.levels.filter f
    let es := d.entries.filter fun e => gone.any fun l => l.n == e.level
    let s1 := gone.foldl (fun (s : State) l => s.retag slot l.gen fun _ => 0) s
    s1.setDom slot (Domain.settle { d with
      levels := d.levels.filter fun l => !f l
      entries := d.entries.filter fun e => !(gone.any fun l => l.n == e.level)
      free := d.free + es.length })

/-! ### The instructions -/

/-- A command joins the queue of its domain's snapshot unit (R158). -/
def State.enqueueSnap (s : State) (w t o : Nat) : State :=
  match s.wg? w, s.train? w t with
  | some g, some tr =>
    match tr.outst? o, s.doms.look g.slot with
    | some x, some d =>
      s.setDom g.slot { d with queue := d.queue ++ [⟨o, w, t, x.insn, x.ops.getD 0 0, tr.nextId, false⟩] }
    | some _, none => s.finishCommand w t o [0]
    | _, _ => s
  | _, _ => s

/-- SNAP (R158, R159, R377). -/
def execSnap (d a : BitVec 5) (l : BitVec 4) (s : State) : Out :=
  issue (.snap d a l) s fun c s =>
    let list := c.k5 a
    if c.task.rcd.lehr ≠ 0 ∧ !isGlob list then s.raiseUniform c .space list
    else if c.task.rcd.lehr ≠ 0 ∧ !aligned list.toNat 8 then s.raiseUniform c .misaligned list
    else s.issueOnce c [list] fun s o => s.enqueueSnap c.w c.t o

/-- What SACC, SREJ and SQRY check at issue (R158, R376). -/
def State.snapHandle (s : State) (c : Ctx) (h : W64) : State :=
  if c.task.rcd.lehr = 0 ∨ bitsAt h.toNat 7 57 ≠ 0 then s.raiseUniform c .illegal 0
  else s.issueOnce c [h] fun s o => s.enqueueSnap c.w c.t o

/-- SACC (R161, R378). -/
def execSacc (h : BitVec 5) (l : BitVec 4) (s : State) : Out :=
  issue (.sacc h l) s fun c s => s.snapHandle c (c.k5 h)

/-- SREJ (R162, R379). -/
def execSrej (h : BitVec 5) (l : BitVec 4) (sc : BitVec 3) (s : State) : Out :=
  issue (.srej h l sc) s fun c s => s.snapHandle c (c.k5 h)

/-- SQRY (R163, R380): the field value 0 names the domain as a whole (R261). -/
def execSqry (d h : BitVec 5) (l : BitVec 4) (s : State) : Out :=
  issue (.sqry d h l) s fun c s => s.snapHandle c (if h = 0 then 0 else c.k5 h)

/-! ### The snapshot unit -/

/-- The ranges of a list (R156); none if it is malformed. -/
def rangeList (bs : List Byte) : Option (List (Nat × Nat)) :=
  let head := fieldOfBytes bs 0 8
  let n := head % 16
  let rs := (List.range n).map fun i => (fieldOfBytes bs (8 + 16 * i) 8, fieldOfBytes bs (16 + 16 * i) 8)
  let ok := fun (r : Nat × Nat) =>
    aligned r.1 4096 && decide (r.1 < 2 ^ 48) && aligned r.2 4096 && decide (4096 ≤ r.2) && decide (r.1 + r.2 ≤ 2 ^ 48)
  if head / 16 = 0 ∧ 1 ≤ n ∧ n ≤ 8 ∧ rs.all ok then some rs else none

/-- SNAP at the unit (R159). -/
def State.snapCreate (s : State) (slot : Nat) (d : Domain) (q : SnapCmd) (g : Wg) (task : Task) (tr : Train) : State :=
  let vas := (List.range 136).map fun i => q.op.toNat + i
  let ends := fun (cause : Cause) (a : W64) =>
    s.endTask slot ⟨cause, ((tr.outst? q.id).map fun x => x.pc).getD 0, a, 0, g.wgid⟩
  match s.missing g task tr.hmode vas with
  | some pa => s.askFor q.w q.t pa g.lastCore
  | none =>
    match s.engBytes g task tr.hmode (s.fromCore g task tr.hmode vas) 0 vas with
    | .error (some cause) => ends cause q.op
    | .error none => s.askPulls (s.engPulls g task tr.hmode .load vas)
    | .ok xs =>
      let s1 := (s.dropInbox g task tr.hmode vas).setDom slot { d with queue := d.queue.drop 1 }
      if xs.any fun x => x.2 then s1.faultCommand q.w q.t q.id .poison q.op
      else
        match rangeList (xs.map fun x => x.1) with
        | none => s1.faultCommand q.w q.t q.id .record q.op
        | some rs =>
          match rs.find? fun r => !task.leased r.1 r.2 with
          | some r => ends .lease (BitVec.ofNat 64 r.1)
          | none =>
            if 4 ≤ (d.levels.filter fun l => l.n != 0).length then s1.finishCommand q.w q.t q.id [0]
            else
              let n := (d.levels.filter fun l => l.n != 0).length + 1
              let d1 := Domain.openLevel { d with queue := d.queue.drop 1 } n rs
              (s1.setDom slot d1).finishCommand q.w q.t q.id
                [((d1.levels.head?).map Level.handle).getD 0]

/-- The report of SQRY (R163): of one level, or of the whole domain. DEDUCED: notes/assumptions/53.md. -/
def Domain.report (d : Domain) (l : Option Level) : W64 :=
  let depth := ((d.levels.head?).map fun l => l.n).getD 0
  let broken := match l with
    | some l => l.broken
    | none => d.levels.any fun l => l.broken
  let used := match l with
    | some l => (d.ofLevel l.n).length
    | none => d.entries.length
  BitVec.ofNat 64 (depth + (if broken then 8 else 0) + used % 2 ^ 24 * 2 ^ 8 + d.free % 2 ^ 24 * 2 ^ 32)

/-- The release of an SREJ whose lines are restored (R162, R144, R151): of the writes before its fork edge. -/
def State.snapRelease (s : State) (slot : Nat) (q : SnapCmd) (task : Task) (tr : Train) (sc : Nat) : State :=
  let done := fun (s : State) => match s.doms.look slot with
    | some d => s.setDom slot { d with queue := d.queue.drop 1 }
    | none => s
  match if s.runScope task.rcd.tenant sc = 0 then .done s else s.releaseFrom q.w q.t 64 (s.runScope task.rcd.tenant sc) q.fence tr with
  | .wait s1 => s1
  | .done s1 => (done s1).finishCommand q.w q.t q.id []
  | .lost s1 => (done s1).faultCommand q.w q.t q.id .fenceLost 0

/-- One step of a domain's snapshot unit (R158): its oldest command, behind its fork edge. -/
def State.snapStep (s : State) (slot : Nat) : State :=
  match s.doms.look slot with
  | none => s
  | some d =>
    match d.queue with
    | [] => s
    | q :: rest =>
      match s.wg? q.w, s.train? q.w q.t with
      | some g, some tr =>
        match s.taskOf? g with
        | none => s.setDom slot { d with queue := rest }
        | some task =>
          if !s.forkClear q.w q.t q.fence then s
          else
            let popped := s.setDom slot { d with queue := rest }
            match q.insn with
            | .snap _ _ _ => s.snapCreate slot d q g task tr
            | .sqry _ k _ =>
              if k = 0 then popped.finishCommand q.w q.t q.id [d.report none]
              else
                match d.named q.op with
                | none => popped.faultCommand q.w q.t q.id .illegal 0
                | some l => popped.finishCommand q.w q.t q.id [d.report (some l)]
            | .sacc _ _ =>
              match d.named q.op with
              | none => popped.faultCommand q.w q.t q.id .illegal 0
              | some l => (popped.acceptTo slot l.n 5).finishCommand q.w q.t q.id []
            | .srej _ _ sc =>
              if q.released then s.snapRelease slot q task tr sc.toNat
              else
                match d.named q.op with
                | none => popped.faultCommand q.w q.t q.id .illegal 0
                | some l =>
                  if d.levels.any fun x => decide (l.n ≤ x.n) && x.broken then
                    popped.faultCommand q.w q.t q.id .shadowFull q.op
                  else
                    let s1 := s.setDom slot { d with queue := { q with released := true } :: rest }
                    let sc' := s.runScope task.rcd.tenant sc.toNat
                    let tr1 := if sc' = 0 then tr else (tr.used.filter (markerInScope sc')).foldl (s.sendMarker q.w q.t q.fence) tr
                    ((s1.rejectTo slot l.n g.core? 5).setTrain q.w q.t tr1).snapRelease slot q task tr1 sc.toNat
            | _ => popped
      | _, _ => s.setDom slot { d with queue := rest }

/-- SNAPSHOT_COMMAND_START (R158): `dom` is the domain's number, the task's slot plus 1 (R154). -/
def execSnapshotCommandStart (dom : Nat) (s : State) : Out :=
  event true s fun s => if dom = 0 || !s.clocked then s else s.snapStep (dom - 1)

end Sys2Proof.Machine
end

