-- ==== Sys2Proof/Machine/Launch.lean ====
section
/-! DEFINITION. Task records (R184 to R187), submission and dependences (R188 to R191): LNCH, TREL. -/

namespace Sys2Proof.Machine

/-! ### Records -/

/-- A read or write range of a record (R185): first page and pages. -/
def rangeOf (bs : List Byte) (o : Nat) : Nat × Nat :=
  let x := fieldOfBytes bs o 8
  (bitsAt x 0 36, bitsAt x 36 28)

/-- A lease descriptor of a record (R173). -/
def leaseOf (bs : List Byte) (i : Nat) : Lease :=
  let x := fieldOfBytes bs (0x108 + 16 * i) 8
  ⟨fieldOfBytes bs (0x100 + 16 * i) 8, bitsAt x 0 40, bitsAt x 40 1 == 1, bitsAt x 41 1 == 1, bitsAt x 42 1 == 1⟩

/-- The fields of a task record (R184). -/
def Record.parse (bs : List Byte) : Record :=
  let q := fun o => fieldOfBytes bs o 8
  { entry := BitVec.ofNat 64 (q 0)
    wgcount := bitsAt (q 8) 0 32
    wgthr := bitsAt (q 8) 32 12
    prod := bitsAt (q 8) 48 6
    budget := bitsAt (q 8) 56 8
    scratch := bitsAt (q 0x10) 0 32
    privlim := bitsAt (q 0x10) 32 23
    l1split := bitsAt (q 0x18) 0 2
    integ := bitsAt (q 0x18) 2 2
    audk := bitsAt (q 0x18) 4 4
    det := bitsAt (q 0x18) 8 1 == 1
    coop := bitsAt (q 0x18) 9 1 == 1
    matrix := bitsAt (q 0x18) 10 1 == 1
    sysprog := bitsAt (q 0x18) 11 1 == 1
    evgate := bitsAt (q 0x18) 12 1 == 1
    prio := bitsAt (q 0x18) 13 3
    tenant := bitsAt (q 0x18) 16 4
    part := bitsAt (q 0x18) 20 4
    lehr := bitsAt (q 0x18) 32 32
    seed := BitVec.ofNat 64 (q 0x20)
    evq := BitVec.ofNat 64 (q 0x28)
    ckptn := bitsAt (q 0x30) 0 16
    slots := (List.range 8).map fun i => BitVec.ofNat 64 (q (0x40 + 8 * i))
    reads := ((List.range 8).map fun i => rangeOf bs (0x80 + 8 * i)).filter fun r => r.2 != 0
    writes := ((List.range 8).map fun i => rangeOf bs (0xC0 + 8 * i)).filter fun r => r.2 != 0
    leases := (List.range 16).map (leaseOf bs) }

/-- Whether a format slot is malformed (R69). -/
def slotBad (x : W64) : Bool :=
  let n := x.toNat
  decide (12 ≤ bitsAt n 0 4) || decide (1 < bitsAt n 4 4) || decide (1 < bitsAt n 8 4)
    || (bitsAt n 8 4 != 0 && bitsAt n 4 4 == 0) || bitsAt n 12 2 == 3 || decide (6 ≤ bitsAt n 14 3) || bitsAt n 18 46 != 0

/-- Whether a range is out of limit (R185). -/
def rangeBad (r : Nat × Nat) : Bool := if r.2 = 0 then r.1 != 0 else decide (2 ^ 36 < r.1 + r.2)

/-- Whether a lease descriptor is malformed (R173). -/
def leaseBad (bs : List Byte) (i : Nat) : Bool :=
  let l := leaseOf bs i
  let high := bitsAt (fieldOfBytes bs (0x108 + 16 * i) 8) 43 21
  if l.len = 0 ∧ !l.r ∧ !l.w ∧ !l.x ∧ high = 0 then false
  else l.len == 0 || high != 0 || !aligned l.base 4096 || decide (2 ^ 48 ≤ l.base) || !aligned l.len 4096
    || decide (2 ^ 48 < l.base + l.len)

/-- Bytes of the scratchpad part that an L1 share leaves (R1). -/
def scratchPart (split : Nat) : Nat := (1024 - (if split = 0 then 320 else if split = 1 then 448 else 576)) * 1024

/-- Whether a task record is malformed (R186). -/
def State.recordBad (s : State) (bs : List Byte) : Bool :=
  let q := fun o => fieldOfBytes bs o 8
  let r := Record.parse bs
  let p := s.partOf r.part
  let g := fusionSize p.fusion
  bitsAt (q 8) 44 4 != 0 || bitsAt (q 8) 54 2 != 0 || bitsAt (q 0x10) 55 9 != 0 || bitsAt (q 0x18) 24 8 != 0
    || bitsAt (q 0x30) 16 48 != 0 || q 0x38 != 0
    || !aligned r.entry.toNat 4 || bitsAt r.entry.toNat 48 16 != 0
    || (r.evq != 0 && (!isGlob r.evq || !aligned r.evq.toNat 64))
    || ((List.range 16).any fun i => rangeBad (rangeOf bs (0x80 + 8 * i)))
    || r.wgcount == 0 || r.wgthr == 0 || decide (2048 < r.wgthr)
    || decide (r.ntrn ≤ r.prod)
    || !aligned r.budget 8 || decide (r.budget < 8) || decide (64 < r.budget)
    || r.l1split == 3 || !aligned r.scratch 128 || decide (scratchPart r.l1split < r.scratch)
    || decide (0x400000 < r.privlim)
    || (decide (2 ≤ r.integ) && r.ckptn == 0)
    || r.slots.any slotBad || (List.range 16).any (leaseBad bs)
    || !p.word1.getLsbD 6 || bitsAt p.word1.toNat 0 4 != r.tenant
    || decide (0xFFFFFF < r.lehr)
    || (r.matrix && p.fusion != 0 && r.wgcount % g != 0)

/-! ### The in-flight table -/

/-- A task's tag (R188): its slot and its submission number, which starts at 1 and skips 0 when it wraps. -/
def taskTag (slot sub : Nat) : W64 := BitVec.ofNat 64 (slot + 256 * ((sub - 1) % (2 ^ 24 - 1) + 1))

/-- The task that a tag names. -/
def State.tagged (s : State) (tag : W64) : Option (Nat × Task) :=
  let slot := tag.toNat % 256
  match s.task? slot with
  | some t => if taskTag slot t.sub = tag then some (slot, t) else none
  | none => none

/-- Whether two lists of page ranges meet (R190). -/
def pagesMeet (a b : List (Nat × Nat)) : Bool :=
  a.any fun x => b.any fun y => decide (x.1 < y.1 + y.2) && decide (y.1 < x.1 + x.2)

/-- Whether a record depends on an earlier one (R190). -/
def Record.dependsOn (n e : Record) : Bool :=
  pagesMeet n.reads e.writes || pagesMeet n.writes e.reads || pagesMeet n.writes e.writes

/-- Where a task goes from Edged or Held (R191). -/
def Task.onward (t : Task) : Task :=
  { t with st := if !t.edges.isEmpty then .edged else if t.rcd.evgate then .gated else .resolving }

/-- A task as it enters the table (R188, R191). -/
def Task.fresh (sub : Nat) (r : Record) (addr : W64) (port : Option Nat) (edges : List Nat) : Task :=
  Task.onward
    { sub := sub, rcd := r, recAddr := addr, port := port, st := .edged, edges := edges, pins := [], window := (0, 0)
      nextWg := 0, ahead := [], mark := (0, []), redo := []
      endInfo := none, firstEnd := none, firstAt := 0, dispatched := false, interval := [], closed := 0, draining := false
      serial := false, one := false, site := none, attempts := 0, clusters := [], digests := [], log := [], audited := [], kept := []
      retireStep := 0, canceled := false, fuse := 1 }

/-- Submit a task (R188, R190): its tag, or 0 when the table is full. A new task takes the lowest free slot. -/
def State.submitTask (s : State) (r : Record) (addr : W64) (port : Option Nat) : W64 × State :=
  match firstFrom (fun n => (s.task? n).isNone) Config.inFlight 0 with
  | none => (0, s)
  | some slot =>
    let edges := (s.tasks.filter fun e => e.2.st != .retired && r.dependsOn e.2.rcd).map fun e => e.2.sub
    (taskTag slot s.subNext,
      { s.setTask slot (.fresh s.subNext r addr port edges) with subNext := s.subNext + 1 })

/-! ### LNCH -/

/-- The words of a record. -/
def wordsOf : Nat → List Byte → List W64
  | 0, _ => []
  | n + 1, bs => word64 (bs.take 8) :: wordsOf n (bs.drop 8)

/-- The range matcher takes the record that an LNCH has read (R188, R190). -/
def State.launchWith (s : State) (w t o : Nat) (addr : W64) (bs : List Byte) : State :=
  let (tag, s1) := s.submitTask (.parse bs) addr none
  s1.finishCommand w t o [tag]

/-- What makes a record that an LNCH reads RECORD (R188). -/
def State.launchBad (s : State) (tenant : Nat) (bs : List Byte) : Bool :=
  s.recordBad bs || (Record.parse bs).tenant != tenant

/-- An LNCH that is performed again reads its record anew (R42). -/
def State.launchAgain (s : State) (w t o : Nat) (g : Wg) (task : Task) (tr : Train) (addr : W64) (pc : W64) : State :=
  let vas := (List.range 512).map fun i => addr.toNat + i
  match s.missing g task tr.hmode vas with
  | some pa => s.askFor w t pa g.lastCore
  | none =>
    match s.engBytes g task tr.hmode (s.fromCore g task tr.hmode vas) 0 vas with
    | .error (some cause) => s.endTask g.slot ⟨cause, pc, addr, 0, g.wgid⟩
    | .error none => s.askPulls (s.engPulls g task tr.hmode .load vas)
    | .ok xs =>
      let bs := xs.map fun x => x.1
      let s := s.dropInbox g task tr.hmode vas
      if xs.any fun x => x.2 then s.faultCommand w t o .poison addr
      else if s.launchBad task.rcd.tenant bs then s.faultCommand w t o .record addr
      else s.launchWith w t o addr bs

/-- LNCH once it takes effect (R188, R227): its operands are the record's address, whether it is poisoned, its words; an
address alone where it is performed again. DEDUCED: notes/assumptions/64.md. -/
def State.launchStep (s : State) (w t o : Nat) : State :=
  match s.wg? w, s.train? w t with
  | some g, some tr =>
    match s.taskOf? g, tr.outst? o with
    | some task, some x =>
      match x.ops with
      | [addr] => (s.updTrain w t fun tr => tr.updOutst o fun x => { x with waitsFor := some 1 }).launchAgain w t o g task tr addr x.pc
      | addr :: 0 :: ws => s.launchWith w t o addr (ws.flatMap fun k => toBytes k.toNat 8)
      | addr :: _ => s.faultCommand w t o .poison addr
      | [] => s
    | _, _ => s
  | _, _ => s

/-- LNCH (R188, R356). -/
def execLnch (d b : BitVec 5) (l : BitVec 4) (s : State) : Out :=
  issue (.lnch d b l) s fun c s =>
    let addr := c.k5 b
    if !isGlob addr then s.raiseUniform c .space addr
    else if !aligned addr.toNat 64 then s.raiseUniform c .misaligned addr
    else if c.g.mode = .shadow ∨ c.g.mode = .replay then s.issueOnce c [addr] fun s _ => s
    else
      match s.release c.w c.t c.p 3 with
      | .wait s1 => s1.stall c .retry
      | .lost s1 => s1.stall c .retry
      | .done s1 =>
        match s1.issueRead c 35 recordPos addr.toNat 512 with
        | .stop s2 => s2
        | .ends cause => s1.raiseUniform c cause addr
        | .ok s2 bs poison =>
          if !poison && s2.launchBad c.task.rcd.tenant bs then s2.raiseLogged c .record addr
          else s2.issueOnce c (addr :: (if poison then 1 else 0) :: wordsOf 64 bs) fun s o => s.launchStep c.w c.t o

/-! ### TREL -/

/-- A task that waits for TREL goes on (R189, R191); none if it does not wait. -/
def Task.released (t : Task) : Option Task :=
  match t.st with
  | .gated => some { t with st := .resolving }
  | .held => some t.onward
  | _ => none

/-- TREL at the in-flight table (R189). -/
def State.trelStep (s : State) (w t o : Nat) : State :=
  match s.train? w t with
  | none => s
  | some tr =>
    match tr.outst? o with
    | none => s
    | some x =>
      match s.tagged (x.ops.getD 0 0) with
      | some (slot, task) =>
        match task.released with
        | some task' => (s.setTask slot task').finishCommand w t o [1]
        | none => s.finishCommand w t o [0]
      | none => s.finishCommand w t o [0]

/-- TREL (R189, R396). -/
def execTrel (d b : BitVec 5) (l : BitVec 4) (s : State) : Out :=
  issue (.trel d b l) s fun c s =>
    match s.release c.w c.t c.p 3 with
    | .wait s1 => s1.stall c .retry
    | .done s1 => s1.issueOnce c [c.k5 b] fun s o => s.trelStep c.w c.t o
    | .lost s1 => s1.issueOnce c [c.k5 b] fun s o => s.trelStep c.w c.t o

end Sys2Proof.Machine
end

