-- ==== Sys2Proof/Machine/Handler.lean ====
section
/-! DEFINITION. LONG_LATENCY_COMPLETE (R41): what the units do next for an outstanding instruction, and its completion;
commands that a checked pair performs once (R227); the return from the handler, RFT (R42, R243, R374) and EXIT (R27, R331). -/

namespace Sys2Proof.Machine

/-! ### Outstanding instructions -/

/-- A command takes its effect at its unit (R227, R41); `waitsFor` 1 says that it has been released. -/
def State.performOnce (s : State) (w t o : Nat) : State :=
  match (s.train? w t).bind fun tr => tr.outst? o with
  | none => s
  | some x =>
    let s1 := s.updTrain w t fun tr => tr.updOutst o fun x => { x with waitsFor := some 1 }
    match x.insn with
    | .evpop _ _ _ => s1.popStep w t o
    | .evpst _ _ => s1.postProgram w t o
    | .snap _ _ _ => s1.enqueueSnap w t o
    | .sacc _ _ => s1.enqueueSnap w t o
    | .srej _ _ _ => s1.enqueueSnap w t o
    | .sqry _ _ _ => s1.enqueueSnap w t o
    | .lnch _ _ _ => s1.launchStep w t o
    | .trel _ _ _ => s1.trelStep w t o
    | _ => s1

/-- One quadruple of a faulted atomic is performed again, at a turn of its operands (R42): `n` are still to come. -/
def State.atomTurn (s : State) (w t : Nat) (g : Wg) (task : Task) (tr : Train) (x : Outst) (n : Nat) : State :=
  match atomOf x.insn, x.ops with
  | some (op, d), j :: a :: b :: c :: rest =>
    let todo := fun (s : State) => s.updTrain w t fun tr => tr.updOutst x.id fun x => { x with waitsFor := if n = 1 then none else some (n - 1) }
    let s0 := s.updTrain w t fun tr => tr.updOutst x.id fun x => { x with ops := rest }
    let again := fun (s : State) => s.updTrain w t fun tr => tr.updOutst x.id fun x => { x with ops := j :: a :: b :: c :: rest }
    let q : Split := ⟨x.split, x.pc, 0, 0, 0, x.dix, false, none, 0, 0, .ready, x.pfx, 0, none, none⟩
    let ctx : Ctx := ⟨w, t, x.split, g, tr, q, task, g.lastCore, x.insn, x.word⟩
    match s0.atomAt ctx x.id j.toNat d.toNat op a b c (State.atomLocate ctx op (fun _ => a) s0 j.toNat) with
    | .ok s1 =>
      let s2 := match spaceOf a with
        | .glob _ => s1.note w t ⟨x.dix, x.sub, j.toNat⟩ (.atom a op b c) none
        | _ => s1
      todo s2
    | .fault s1 cause e =>
      if cause = .logOverflow then s1.endBy g (x.ctFault cause e j.toNat)
      else
        todo ((s1.faultOutst w t x.id cause e j.toNat).updTrain w t fun tr => tr.updOutst x.id fun x =>
          { x with ops := x.ops ++ [j, a, b, c] })
    | .wait s1 .lehr =>
      (again s1).updTrain w t fun tr => tr.updSplit x.split fun q => { q with wait := .lehr }
    | .wait s1 _ => again s1
  | _, _ => s.updTrain w t fun tr => tr.updOutst x.id fun x => { x with waitsFor := none }

/-- What the units do next for an outstanding instruction, and its completion (R41). -/
def State.advanceOutst (s : State) (w t o : Nat) : State :=
  match s.wg? w, s.train? w t with
  | some g, some tr =>
    match tr.outst? o, s.taskOf? g with
    | some x, some task =>
      match x.waitsFor with
      | some n =>
        if x.kept || !s.atWork w then s
        else
          match x.insn with
          | .hfls _ _ => s.flushStep w t o
          | .rfnc _ => s.discardStep w t o
          | .hgiv _ _ _ => if g.mode.takesResult x.insn then s else s.giveStep w t o
          | .evpop _ _ _ => if task.rcd.integ = 3 ∧ n = 0 then s else s.popStep w t o
          | .lnch _ _ _ => if n = 1 then s.launchStep w t o else s
          | i => if (atomOf i).isSome then s.atomTurn w t g task tr x n else s
      | none => if s.canComplete w t o then s.completeOutst w t o else s
    | _, _ => s
  | _, _ => s

/-- LONG_LATENCY_COMPLETE (R41). -/
def execLongLatencyComplete (w t o : Nat) (s : State) : Out := event true s fun s => s.advanceOutst w t o

/-! ### What RFT performs again -/

/-- The instruction that an RFT reports as done, or one of a split that has left, never completes in its digest's place. -/
def Train.forget (tr : Train) (x : Outst) : Train :=
  let tr1 := { tr with outst := tr.outst.filter fun y => y.id != x.id }
  match x.insn with
  | .hfls _ _ => tr1.edDrop (2 * x.id)
  | .tst _ _ _ _ _ _ _ => tr1.dqDrop x.id
  | _ => tr1

/-- The quadruples of an atomic's operands for the threads of `m`, in ascending index. -/
def quadsOf (ops : List W64) (m : Mask) : List W64 :=
  (maskThreads m).flatMap fun j =>
    match firstFrom (fun i => ops.getD (4 * i) 0 == BitVec.ofNat 64 j) (ops.length / 4) 0 with
    | some i => (ops.drop (4 * i)).take 4
    | none => []

/-- A load of an instruction goes out again, under its context's present generation (R206). -/
def Load.again (l : Load) (g : Wg) (clock : Nat) : Load :=
  { l with value := none, poison := false, since := clock, expired := false, ctx := g.ctx, gen := g.ctxgen }

/-- A kept instruction is performed again for the threads of `m`, a uniform one as a whole (R42). -/
def State.redo (s : State) (w t : Nat) (g : Wg) (task : Task) (x : Outst) (m : Mask) : State :=
  let uni := !isPerThread x.insn
  let set := fun (s : State) (f : Outst → Outst) => s.updTrain w t fun tr => tr.updOutst x.id fun y =>
    f { y with kept := false, fault := none, waitsFor := none, atoms := [], writes := []
               done := y.exm &&& ~~~m }
  let fromLog : Load := ⟨32, 0, [], true, none, false, s.clock, false, g.ctx, g.ctxgen⟩
  let once := fun (ops : List W64) =>
    if g.mode.takesResult x.insn then set s fun y => { y with loads := [fromLog] }
    else
      let s1 := set s fun y => { y with ops := ops, waitsFor := some 0 }
      if task.rcd.integ = 3 ∧ !byEachCopy x.insn then s1.note w t ⟨x.dix, x.sub, 0⟩ (.command x.insn ops) (some x.id)
      else s1.performOnce w t x.id
  match x.insn with
  | .hfls _ _ => set s fun y => { y with ops := y.ops.set 3 0, waitsFor := some 0 }
  | .rfnc _ => set s fun y => { y with waitsFor := some 0 }
  | .hgiv _ _ _ => if g.mode.takesResult x.insn then set s fun y => { y with loads := [fromLog] }
      else set s fun y => { y with waitsFor := some 0 }
  | .cpym _ _ _ _ _ _ _ => s.cpymAgain w t x.id
  | .lnch _ _ _ => once (x.ops.take 1)
  | .evpop _ _ _ =>
    if x.loads.isEmpty then once x.ops else set s fun y => { y with loads := y.loads.map fun l => l.again g s.clock }
  | .evpst _ _ => once x.ops
  | .snap _ _ _ => once x.ops
  | .sacc _ _ => once x.ops
  | .srej _ _ _ => once x.ops
  | .sqry _ _ _ => once x.ops
  | .trel _ _ _ => once x.ops
  | .htak _ _ _ => once x.ops
  | .hmap _ _ _ => once x.ops
  | i =>
    if needsMatrix i then (set s id).sequenceAgain w t x.id
    else if (atomOf i).isSome then
      let ops := quadsOf x.ops m
      set s fun y => { y with
        ops := ops, waitsFor := if ops.isEmpty then none else some (ops.length / 4)
        loads := y.loads.filter fun l => !m.getLsbD l.j }
    else set s fun y => { y with loads := y.loads.map fun l => if uni || m.getLsbD l.j then l.again g s.clock else l }

/-- RFT resumes what its train keeps (R42): the reported instruction first, for the threads that `done` does not name,
or not
at all with `skip`; what a split that has left (`gone`) had issued is dropped. DEDUCED: notes/assumptions/16.md. -/
def State.resumeKept (s : State) (w t : Nat) (g : Wg) (task : Task) (skip : Bool) (done : Mask) (gone : Option Nat) : State :=
  match s.train? w t with
  | none => s
  | some tr =>
    let kept := tr.outst.filter fun o => o.kept
    let first := (kept.head?.map fun o => o.id).getD 0
    kept.foldl (fun (s : State) x =>
      if gone = some x.split then s.updTrain w t fun tr => tr.forget x
      else if x.id = first ∧ skip then (s.updTrain w t fun tr => tr.forget x).joined w t x
      else
        let m := x.exm &&& ~~~(if x.id = first then done else x.done)
        s.redo w t g task x m) s

/-! ### The frame -/

/-- What reading a frame finds. -/
inductive FrameRead where
  | ok (s : State) (words : List W64)
  | wait (s : State)
  | ends (cause : Cause)

/-- The sixteen words at the addresses of a frame, once they are at hand; they are logged for the runs that follow. -/
def State.frameWords (s : State) (c : Ctx) (logs : Bool) (vas : List Nat) : FrameRead :=
  match s.engBytes c.g c.task true (s.fromCore c.g c.task true vas) 0 vas with
  | .error (some cause) => .ends cause
  | .error none => .wait (s.stall c .retry)
  | .ok xs =>
    if xs.any fun x => x.2 then .ends .poison
    else
      let ws := wordsOf 16 (xs.map fun x => x.1)
      let s1 := (s.engUse c.g c.task true .load vas).dropInbox c.g c.task true vas
      .ok (if logs then s1.updTask c.g.slot fun k =>
        { k with log := k.log ++ [⟨c.g.wgid, c.tr.trn, 37, c.sp.dix, c.sub, ws⟩] } else s1) ws

/-- The sixteen words of a frame as the device reads them (R243), behind the train's writes of its lines; runs that follow
take them from the log. -/
def State.readFrame (s : State) (c : Ctx) : FrameRead :=
  let logs := c.g.mode == .primary && (decide (2 ≤ c.task.rcd.integ) || c.task.audits c.g.wgid)
  if c.g.mode.follows then
    match s.takeLog c.w c.tr.trn 37 c.sp.dix c.sub with
    | some (vals, s1) => .ok s1 vals
    | none => .wait (s.stall c .retry)
  else
    let va := (c.g.frameVa c.task c.tr.trn).toNat
    let vas := (List.range 128).map fun i => va + i
    match s.missing c.g c.task true vas with
    | some pa => .wait (s.askLine c pa)
    | none =>
      match s.translate c.core c.task true va .load with
      | .aliasing => .ends .aliasing
      | .ok pa _ _ =>
        if c.tr.sb.any fun e => (e.stage != .granted || !s.isLocal pa) && e.bytes.any fun b => b.loc.line == (Loc.glob pa).line then
          .wait (s.stall c .retry)
        else s.frameWords c logs vas
      | _ => s.frameWords c logs vas

/-- Whether a frame has a reserved bit set (R242, R4). DEDUCED for EXIT: notes/assumptions/17.md. -/
def frameBad (ws : List W64) : Bool :=
  bitsAt (ws.getD 0 0).toNat 17 15 != 0 || (ws.drop 10).any fun x => x != 0

/-- k28 to k31 of a frame, and HMODE 0 (R243 step 3). -/
def Train.leaveHandler (tr : Train) (ws : List W64) : Train :=
  { (List.range 4).foldl (fun (tr : Train) i => tr.setK (28 + i) (ws.getD (6 + i) 0)) tr with hmode := false }

/-! ### RFT -/

/-- A cause that arises as the handler ends, which ends the task (R244). -/
def State.endHandler (s : State) (c : Ctx) (cause : Cause) : State :=
  s.endBy c.g (c.fault cause (c.g.frameVa c.task c.tr.trn) 0 true false 0)

/-- Where the split of an RFT continues, behind kept instructions (`ids`) or not (R42, R44, R243 step 4). -/
def Split.goBack (q : Split) (r : FaultRec) (skip : Bool) (done : Mask) (rdone : Mask) (ids : List Nat) : Split :=
  let q1 := { q with exm := r.exm &&& q.member, pfx := none }
  if !ids.isEmpty then { q1 with pc := r.rpc, done := rdone, wait := .outst ids }
  else if skip then { q1 with pc := r.rpc, dix := r.dix + 1, done := 0, wait := .ready }
  else { q1 with pc := r.pc, dix := if r.pfx then r.dix - 1 else r.dix, done := if r.uni then 0 else done &&& r.exm, wait := .ready }

/-- RFT (R243, R374). -/
def execRft (s : State) : Out :=
  issue .rft s fun c s =>
    match s.readFrame c with
    | .wait s1 => s1
    | .ends cause => s.endHandler c cause
    | .ok s1 ws =>
      if frameBad ws then s1.endHandler c .record
      else
        let r := c.tr.trap
        let skip := (ws.getD 0 0).getLsbD 16
        let done : Mask := (ws.getD 3 0).setWidth 32
        let ids := (c.tr.outst.filter fun o => o.kept).map fun o => o.id
        let s2 := (s1.countIssue c).updTrain c.w c.t fun tr =>
          (tr.leaveHandler ws).updSplit c.p fun q => q.goBack r skip done tr.rdone ids
        let s3 := s2.resumeKept c.w c.t c.g c.task skip (if r.uni then 0 else done &&& r.exm) none
        let at' := match (s3.train? c.w c.t).bind fun tr => tr.split? c.p with
          | some q => [(q.pc, q.exm)]
          | none => []
        (s3.noteControl c at').wake

/-! ### EXIT -/

/-- The threads of `m` leave a split (R27): an empty one leaves the table, a train without splits has ended. -/
def State.exitThreads (s : State) (w t p : Nat) (m : Mask) : State :=
  let s1 := s.updTrain w t fun tr => tr.updSplit p fun q => { q with member := q.member &&& ~~~m, exm := q.exm &&& ~~~m }
  if (s1.train? w t).any fun tr => (tr.split? p).any fun q => q.member ≠ 0 then s1
  else (s1.leaveSplit w t p).updTrain w t fun tr => { tr with ended := tr.splits.isEmpty }

/-- EXIT's own effect (R27, R331). -/
def State.exitNow (s : State) (c : Ctx) : State :=
  let s1 := (s.retire c).exitThreads c.w c.t c.p c.active
  let at' := match (s1.train? c.w c.t).bind fun tr => tr.split? c.p with
    | some q => [(q.pc, q.exm)]
    | none => []
  s1.noteControl c at'

/-- EXIT (R331); in handler mode it first restores k28 to k31 and clears HMODE (R243). -/
def execExit (g : BitVec 3) (s : State) : Out :=
  issue (.exit g) s fun c s =>
    if c.sp.exm = 0 then s.retire c
    else if !c.tr.hmode then s.exitNow c
    else
      match s.readFrame c with
      | .wait s1 => s1
      | .ends cause => s.endHandler c cause
      | .ok s1 ws =>
        if frameBad ws then s1.endHandler c .record
        else
        let s2 := (s1.exitNow c).updTrain c.w c.t fun tr => tr.leaveHandler ws
        let gone := match (s2.train? c.w c.t).bind fun tr => tr.split? c.p with
          | some _ => none
          | none => some c.p
        (s2.resumeKept c.w c.t c.g c.task ((ws.getD 0 0).getLsbD 16)
          (if c.tr.trap.uni then 0 else (ws.getD 3 0).setWidth 32 &&& c.tr.trap.exm) gone).wake

end Sys2Proof.Machine
end

