-- ==== Sys2Proof/Machine/Leases.lean ====
section
/-! DEFINITION. Leases (R173 to R177): resolving and pinning, Waiting, Ending; the frames that a PAGE command touches (R176). -/

namespace Sys2Proof.Machine

/-- A record of the device's own (R423): TYPE, CODE and fields of the payload from offset 0x08 on, eight bytes each. -/
def deviceRecord (type code : Nat) (ws : List Nat) : List Byte :=
  toBytes (type + code * 2 ^ 8) 8 ++ (List.range 7).flatMap fun i => toBytes (ws.getD i 0) 8

/-- The 4 KiB frame of a page that a leaf of level `lv` maps. -/
def leafPageFrame (e : W64) (lv page : Nat) : Nat := leafFrame e + page % 512 ^ lv

/-- A range of pages that a task holds with rights: its leases, and its tenant's handler window (R240). -/
structure Hold where
  idx : Nat
  page : Nat
  n : Nat
  r : Bool
  w : Bool
  x : Bool
  window : Bool
  deriving DecidableEq, Repr

/-- The leases of a task, and a handler window as an extra one (R174, R240). -/
def Record.holds (r : Record) (window : Nat × Nat) : List Hold :=
  (r.leases.zipIdx.filterMap fun e =>
    if e.1.len = 0 then none
    else some ⟨e.2, e.1.base / 4096, e.1.len / 4096, e.1.r, e.1.w, e.1.x, false⟩) ++
  if window.2 = 0 then [] else [⟨0, window.1, window.2, true, true, true, true⟩]

/-- A tenant's handler window (R240): first page and pages. -/
def State.windowOf (s : State) (tenant : Nat) : Nat × Nat :=
  match s.hdesc.look tenant with
  | some h => (h.wbase.toNat / 4096, h.wlen.toNat / 4096)
  | none => (0, 0)

/-- A page of a lease with its leaf. -/
structure HeldPage where
  idx : Nat
  page : Nat
  level : Nat
  leaf : W64
  window : Bool
  deriving DecidableEq, Repr

/-- The frame of a page of a lease. -/
def HeldPage.frame (p : HeldPage) : Nat := leafPageFrame p.leaf p.level p.page

/-- Why a page of a lease does not resolve (R174, R423): the record's CODE, the frame; or its chip is lost. -/
inductive PageFail where
  | code (n page frame idx : Nat)
  | lost (page : Nat)
  deriving DecidableEq, Repr

/-- Resolve one page of a lease (R174). DEDUCED: notes/assumptions/62.md. -/
def State.resolvePage (s : State) (tenant : Nat) (h : Hold) (page : Nat) : Except PageFail HeldPage :=
  match s.walk tenant (page * 4096) with
  | .absent => .error (.code 1 page 0 h.idx)
  | .malformed => .error (.code 2 page 0 h.idx)
  | .leaf lv e =>
    let f := leafPageFrame e lv page
    if s.dead.getLsbD (chipOf (f * 4096)) || s.unreach.getLsbD (chipOf (f * 4096)) then .error (.lost page)
    else if (h.r && !leafR e) || (h.w && !leafW e) || (h.x && !leafX e) then .error (.code 3 page f h.idx)
    else if leafPol e != (s.attrOf f).policy then .error (.code 4 page f h.idx)
    else .ok ⟨h.idx, page, lv, e, h.window⟩

/-- Resolve pages of a lease in ascending order. -/
def State.resolvePages (s : State) (tenant : Nat) (h : Hold) : Nat → Nat → Except PageFail (List HeldPage)
  | 0, _ => .ok []
  | n + 1, page =>
    match s.resolvePage tenant h page with
    | .error e => .error e
    | .ok x =>
      match s.resolvePages tenant h n (page + 1) with
      | .ok xs => .ok (x :: xs)
      | .error e => .error e

/-- Resolve every lease of a task. -/
def State.resolveHolds (s : State) (tenant : Nat) : List Hold → Except PageFail (List HeldPage)
  | [] => .ok []
  | h :: hs =>
    match s.resolvePages tenant h h.n h.page with
    | .error e => .error e
    | .ok xs =>
      match s.resolveHolds tenant hs with
      | .ok ys => .ok (xs ++ ys)
      | .error e => .error e

/-- The first page of a task's leases whose frame lies on a lost chip: its task ends, whatever else fails (R174). -/
def State.lostHold (s : State) (tenant : Nat) (hs : List Hold) : Option Nat :=
  hs.findSome? fun h => (List.range h.n).findSome? fun i => match s.resolvePage tenant h (h.page + i) with
    | .error (.lost page) => some page
    | _ => none

/-- A PAGE command that waits under R176. -/
structure PageCmd where
  frame : Frame
  op : PageOp
  va : Nat
  len : Nat
  leaf : W64
  deriving DecidableEq, Repr

/-- A page whose frame an earlier page of the list maps at another virtual page (R155). -/
def twoPages : Cells Nat → List HeldPage → Option HeldPage
  | _, [] => none
  | seen, p :: ps =>
    if p.window then twoPages seen ps
    else
      match seen.look p.frame with
      | some v => if v = p.page then twoPages seen ps else some p
      | none => twoPages (seen.put p.frame p.page) ps

/-- The request that the frame engine has begun or begins next: the first of its queue (R253). -/
def State.hostHead (s : State) : Option HostReq := s.hostQ.find? fun q => q.op != .write && q.op != .read

/-- The PAGE command that a request's data name: operation, length and new leaf (R252). DESIGN CHOICE: notes/assumptions/12.md. -/
def HostReq.pageCmd? (q : HostReq) : Option PageCmd :=
  match q.op with
  | .page => (PageOp.ofCode (q.frame.num 0 4)).map fun op =>
      ⟨q.frame, op, q.frame.addr.toNat, q.frame.num 4 4, BitVec.ofNat 64 (q.frame.num 8 8)⟩
  | _ => none

/-- The PAGE command that waits (R176). -/
def State.pageCmd? (s : State) : Option PageCmd := s.hostHead.bind HostReq.pageCmd?

/-- Whether a command covers the whole of a leaf of level `lv` that maps a page. -/
def PageCmd.coversLeaf (c : PageCmd) (lv page : Nat) : Bool :=
  let first := page / 512 ^ lv * 512 ^ lv
  decide (c.va / 4096 ≤ first) && decide (first + 512 ^ lv ≤ c.va / 4096 + c.len / 4096)

/-- The frames that a PAGE command touches, as first frame and count (R176, R180): those its pages map, all those of a
large page of which it changes a part, and the destination of a migration. -/
def State.commandFrames (s : State) (c : PageCmd) : List (Nat × Nat) :=
  let here := (List.range (c.len / 4096)).filterMap fun i =>
    let page := c.va / 4096 + i
    match s.walk c.frame.tenant (page * 4096) with
    | .leaf lv e => some (if c.coversLeaf lv page then (leafPageFrame e lv page, 1) else (leafFrame e, 512 ^ lv))
    | _ => none
  here ++ (if c.op = .migrate then [(leafFrame c.leaf, c.len / 4096)] else [])

/-- Whether a frame lies in a list of ranges. -/
def inFrames (fs : List (Nat × Nat)) (f : Nat) : Bool := fs.any fun r => decide (r.1 ≤ f) && decide (f < r.1 + r.2)

/-- Whether new leases wait behind a PAGE command (R176). -/
def State.behindCommand (s : State) (ps : List HeldPage) : Bool :=
  match s.pageCmd? with
  | some c =>
    let fs := s.commandFrames c
    ps.any fun p => inFrames fs p.frame
  | none => false

/-- Pin a page (R174): PINS for every lease, DOMAIN and VPAGE for a domain's own leases (R155); none where PINS is full. -/
def State.pinPage (s : State) (slot : Nat) (domain : Bool) (p : HeldPage) : Option State :=
  let a := s.attrOf p.frame
  let a1 := { a with pins := a.pins + 1 }
  if a.pins = 0xFF then none
  else some (s.setAttr p.frame (if domain && !p.window then { a1 with domain := slot + 1, vpage := p.page } else a1))

/-- Pin the pages of a task; a task that would take a PINS of 8 bits (R171) past 255 stays in Resolving. DESIGN CHOICE:
notes/assumptions/89.md. -/
def State.pinPages (slot : Nat) (domain : Bool) : State → List HeldPage → Option State
  | s, [] => some s
  | s, p :: ps =>
    match s.pinPage slot domain p with
    | some s1 => State.pinPages slot domain s1 ps
    | none => none

/-- The pinned leaves of resolved pages. -/
def pinsOf (ps : List HeldPage) : List Pin :=
  (ps.map fun p => (⟨p.page / 512 ^ p.level * 512 ^ p.level, p.level, p.leaf, p.window⟩ : Pin)).eraseDups

/-- The lease-waiting record (R423). -/
def waitingRecord (slot : Nat) (t : Task) (code page frame idx : Nat) : List Byte :=
  deviceRecord 0x11 code [(taskTag slot t.sub).toNat, t.recAddr.toNat, page * 4096, frame * 4096, idx]

/-- The leases of a task in Resolving are walked (R174, R191). -/
def State.resolveLeases (s : State) (slot : Nat) : State :=
  match s.task? slot with
  | none => s
  | some t =>
    if t.st != .resolving || t.endInfo.isSome then s
    else
      let wait := fun (code page frame idx : Nat) =>
        (s.setTask slot { t with st := .waiting }).sendAll t.rcd.tenant 0 t.port (waitingRecord slot t code page frame idx)
      let holds := t.rcd.holds (s.windowOf t.rcd.tenant)
      let lost := fun (page : Nat) => s.endTask slot ⟨.pullLost, 0, BitVec.ofNat 64 (page * 4096), 0, 0⟩
      match s.resolveHolds t.rcd.tenant holds with
      | .error (.lost page) => lost page
      | .error (.code n page frame idx) =>
        match s.lostHold t.rcd.tenant holds with
        | some p => lost p
        | none => wait n page frame idx
      | .ok ps =>
        let domain := decide (t.rcd.lehr ≠ 0)
        match if domain then twoPages [] ps else none with
        | some p => wait 5 p.page p.frame p.idx
        | none =>
          if s.behindCommand ps then s
          else if domain && ps.any (fun p => !p.window && (s.attrOf p.frame).domain != 0) then s
          else
            match State.pinPages slot domain s ps with
            | none => s
            | some s1 =>
              let s2 := if domain then s1.setDom slot ⟨t.rcd.lehr, t.rcd.lehr, [], [], [], [], []⟩ else s1
              s2.setTask slot { t with st := .ready, pins := pinsOf ps, window := s.windowOf t.rcd.tenant }

/-- LEASE_RESOLVE (R174). -/
def execLeaseResolve (slot : Nat) (s : State) : Out := event true s fun s => if s.clocked then s.resolveLeases slot else s

/-- The pages that a task holds, from its pinned leaves. -/
def Task.heldPages (t : Task) (hs : List Hold) : List HeldPage :=
  hs.flatMap fun h => (List.range h.n).filterMap fun i =>
    (t.pins.find? fun p => p.window == h.window && pageCovers p.page p.level ((h.page + i) * 4096)).map fun p =>
      ⟨h.idx, h.page + i, p.level, p.leaf, h.window⟩

/-- Whether two pages of `512^l` and `512^k` pages meet. -/
def pagesOverlap (p l q k : Nat) : Bool := decide (p < q + 512 ^ k) && decide (q < p + 512 ^ l)

/-- Leases pass through Ending (R174, R155): the entries of every translation cache and of the walk cache within their ranges go,
PINS and DOMAIN follow. -/
def State.endLeases (s : State) (slot : Nat) (t : Task) : State :=
  let ps := t.heldPages (t.rcd.holds t.window)
  let s1 := { s with
    cores := Cells.mapVals (fun (c : Core) => { c with
      tc := c.tc.filter fun e => !(e.tenant == t.rcd.tenant && t.pins.any fun p => p.page == e.page && p.level == e.level) }) s.cores
    walks := s.walks.filter fun e => !(e.tenant == t.rcd.tenant && t.pins.any fun p => pagesOverlap p.page p.level e.page e.level) }
  let s2 := ps.foldl (fun (s : State) p =>
    let a := s.attrOf p.frame
    let a1 := { a with pins := a.pins - 1 }
    s.setAttr p.frame (if a.domain = slot + 1 ∧ !p.window then { a1 with domain := 0 } else a1)) s1
  { s2 with doms := s2.doms.del slot }

end Sys2Proof.Machine
end

