-- ==== Sys2Proof/Machine/Place.lean ====
section
/-! DEFINITION. Where workgroups may run (R11, R112, R193 to R198, R212, R223, R226), what a workgroup is given at its first
placement (R109, R202, R240, R408, R424), resumption (R150, R206, R209). -/

namespace Sys2Proof.Machine

/-! ### Partitions -/

/-- The cores of a partition in ascending number (R193). -/
def State.partCores (s : State) (n : Nat) : List Nat := (List.range 64).filter fun c => (s.partOf n).cores.getLsbD c

/-- The clusters of a list of cores, ascending. -/
def clustersOf (cs : List Nat) : List Nat := (cs.map clusterOf).eraseDups

/-- Whether a list of cores consists of whole clusters. -/
def wholeClusters (cs : List Nat) : Bool := (clustersOf cs).all fun k => (List.range 4).all fun i => cs.contains (4 * k + i)

/-- Whether a cluster belongs to a checked pair (R225). -/
def State.isPaired (s : State) (cluster : Nat) : Bool := s.paired.getLsbD (cluster / 2)

/-- Whether a task's partition suits its integrity level (R223, R226): elsewhere it stays Ready. -/
def State.partFits (s : State) (r : Record) : Bool :=
  let cs := s.partCores r.part
  let ks := clustersOf cs
  (s.partOf r.part).word1.getLsbD 6 && !cs.isEmpty &&
  if r.integ = 3 then wholeClusters cs && ks.all fun k => s.isPaired k && ks.contains (k ^^^ 1)
  else (ks.all fun k => !s.isPaired k) && (r.integ != 2 || (wholeClusters cs && decide (2 ≤ ks.length)))

/-- The order of the four cores of a cluster in an S-pair partition (R195). -/
def sPairOrder (cs : List Nat) : List Nat :=
  (clustersOf cs).flatMap fun k => [4 * k, 4 * k + 2, 4 * k + 1, 4 * k + 3].filter cs.contains

/-- The logical cores that a task's runs are placed on (R195, R226), confined while an interval is re-executed (R231). -/
def State.logicalCores (s : State) (t : Task) : List Nat :=
  let cs := s.partCores t.rcd.part
  let cs1 := if t.rcd.integ = 3 then cs.filter fun c => clusterOf c % 2 == 0 else cs
  let cs2 := match t.site with
    | some n => cs1.filter fun c => if t.rcd.integ = 3 then clusterOf c / 2 == n else clusterOf c == n
    | none => cs1
  if s.fusionOf t.rcd = 2 then sPairOrder cs2 else cs2

/-- The power state or gating that a POWER command asks for (R258): data byte 0. -/
def powerCode (f : Frame) : Nat := f.byte 0

/-- The cluster mask of a POWER command (R258). -/
def clusterMask (f : Frame) : BitVec 16 := BitVec.ofNat 16 (f.num 2 2)

/-- Whether a cluster takes no placement: gated (R19), FAULTY (R225), or being paired, unpaired, gated or held (R233,
R258). -/
def State.clusterClosed (s : State) (k : Nat) : Bool :=
  s.gated.getLsbD k || s.faulty.getLsbD k || match s.hostHead with
    | some ⟨.pair, f⟩ => f.addr.toNat == k / 2
    | some ⟨.power, f⟩ => powerCode f == 2 || powerCode f == 3 || (powerCode f == 4 && (clusterMask f).getLsbD k)
    | _ => false

/-- The cores that a write of a partition's CORES takes from it (R201). -/
def State.removedCores (s : State) (f : Frame) : W64 :=
  let p := s.partOf f.cfgIndex
  if f.cfgSub = 0 ∧ p.word1.getLsbD 6 then p.cores &&& ~~~(BitVec.ofNat 64 f.value64) else 0

/-- Whether a core takes no placement. -/
def State.coreClosed (s : State) (core : Nat) : Bool :=
  s.clusterClosed (clusterOf core) || match s.hostHead with
    | some ⟨.cfgw, f⟩ => f.cfgClass == 3 && (s.removedCores f).getLsbD core
    | _ => false

/-- The runs on a core. -/
def State.runsOn (s : State) (core : Nat) : List Wg := s.wgs.filter fun g => g.core? == some core

/-- Whether a core has room for one more run of a task (R195, R11, R36, R112): none while it gives up what it holds. -/
def State.roomOn (s : State) (slot : Nat) (t : Task) (core : Nat) : Bool :=
  let here := s.runsOn core
  let n := here.length + 1
  let perLane := (t.rcd.ntrn + 31) / 32
  !s.coreClosed core && here.all (fun g => g.slot == slot && g.sub == t.sub && g.runs && !g.asked) &&
    decide (n ≤ if t.rcd.matrix then 1 else 4) && decide (n * perLane ≤ min 8 (128 / t.rcd.budget)) &&
    decide (n * t.rcd.scratch ≤ scratchPart t.rcd.l1split)

/-- Room for a workgroup with its trailing copy (R226). -/
def State.room (s : State) (slot : Nat) (t : Task) (core : Nat) : Bool :=
  s.roomOn slot t core && (t.rcd.integ != 3 || s.roomOn slot t (core + 4))

/-- The lowest free run position on a core. DESIGN CHOICE: notes/assumptions/11.md. -/
def State.freePos (s : State) (core : Nat) : Nat :=
  (firstFrom (fun n => !((s.runsOn core).any fun g => match g.place with
    | .resident _ m => m == n
    | .halting _ m => m == n
    | .halted _ m => m == n
    | _ => false)) 4 0).getD 0

/-! ### Contexts -/

/-- A workgroup whose task still stands in the in-flight table: its context lives (R202). -/
def State.liveCtx (s : State) (g : Wg) : Bool := (s.taskOf? g).isSome

/-- The lowest free context number (R202). -/
def State.freeCtx (s : State) : Option Nat :=
  firstFrom (fun n => !(s.wgs.any fun g => s.liveCtx g && g.ctx.toNat == n)) 65535 1

/-- The window's save area of a frame slot (R408). -/
def accAreaOf (window : Nat × Nat) (fslots slot : Nat) : Nat := 4096 * window.1 + 8192 * fslots + Config.accArea * slot

/-- Whether a frame slot is taken: by a frame, or by a save area that meets its own. -/
def State.slotTaken (s : State) (tenant area n : Nat) : Bool :=
  s.wgs.any fun g => match s.taskOf? g with
    | some t => t.rcd.tenant == tenant && (g.fslot == some n || (g.accBase != 0 &&
        decide (area < g.accBase.toNat + Config.accArea) && decide (g.accBase.toNat < area + Config.accArea)))
    | none => false

/-- The frame slot and save area of a new workgroup (R240, R408), in the window as its task pinned it; none if it needs them and there
is none. -/
def State.newFrame (s : State) (t : Task) : Option (Option Nat × W64) :=
  let h := s.hdesc.val ⟨0, 0, 0, 0⟩ t.rcd.tenant
  let slots := bitsAt h.fslots.toNat 0 16
  if h.vec = 0 ∧ !t.rcd.matrix then some (none, 0)
  else
    match firstFrom (fun n => !s.slotTaken t.rcd.tenant (accAreaOf t.window slots n) n) slots 0 with
    | none => none
    | some n =>
      if !t.rcd.matrix then some (some n, 0)
      else if accAreaOf t.window slots n + Config.accArea ≤ 4096 * (t.window.1 + t.window.2) then
        some (some n, BitVec.ofNat 64 (accAreaOf t.window slots n))
      else none

/-- Where the private windows lie (DESIGN CHOICE, notes/assumptions/7.md): chip offsets from here up to the metadata region. -/
def privPool : Nat := 0x1D00000000

/-- Bytes that the scheduler allocates for a train (R110). -/
def Record.privSize (r : Record) : Nat := (r.privlim + 6) * 128

/-- The private areas in use, those of runs that have not ended: base and end. -/
def State.privAreas (s : State) : List (Nat × Nat) :=
  s.trains.filterMap fun e => match s.wg? (e.1 / 64) with
    | some g => if g.place = .ended then none else (s.taskOf? g).map fun t => (offOf e.2.pb, offOf e.2.pb + t.rcd.privSize)
    | none => none

/-- What the leases of the tasks in flight map of this chip: base and end. -/
def State.leasedAreas (s : State) : List (Nat × Nat) :=
  s.tasks.flatMap fun e => (e.2.pins.filter fun p => s.isLocal (leafFrame p.leaf * 4096)).map fun p =>
    let a := offOf (leafFrame p.leaf * 4096)
    (a, a + 4096 * 512 ^ p.level)

/-- The lowest free private area of `n` bytes, outside every lease (R109). -/
def State.allocPriv (s : State) (n : Nat) : Option Nat :=
  let used := s.privAreas ++ s.leasedAreas
  let fits := fun (a : Nat) => decide (a + n ≤ Config.metaBase) && used.all fun u => decide (a + n ≤ u.1) || decide (u.2 ≤ a)
  (sortNat (privPool :: (used.map fun u => u.2).filter fun a => decide (privPool ≤ a))).find? fits

/-- A private area reads as zero until it is written (R424). -/
def State.clearPriv (s : State) (off n : Nat) : State :=
  let s1 := s.zeroRange off n
  { s1 with cores := Cells.mapVals (fun (c : Core) => { c with
    l1 := c.l1.filter fun x => !(x.priv && decide (off ≤ offOf (x.sec * 32)) && decide (offOf (x.sec * 32) < off + n)) }) s1.cores }

/-- A train as it starts (R22, R24, R101, R110, R217, R247, R424). DEDUCED: notes/assumptions/78.md. -/
def Train.start (r : Record) (vec : W64) (trn pb : Nat) (wait : Wait) : Train :=
  let m : Mask := BitVec.ofNat 32 (2 ^ (min 32 (r.wgthr - 32 * trn)) - 1)
  { trn := trn, launched := m, k := [], v := [], p := []
    splits := [⟨0, r.entry, 0, m, m, 0, false, none, 0, 0, wait, none, 0, none, none⟩]
    outst := [], sb := [], used := [], markers := [], gg := 0, demoted := false, hmode := false, tvec := vec, tcause := 0
    trap := FaultRec.reset, pend := none, hsplit := 0, rdone := 0, privb := BitVec.ofNat 23 r.privlim, pb := pb, seen := 0, dig := []
    ed := Config.digest0, edq := [], dq := [], fadds := [], issues := 0, hcount := 0, nextId := 65, cmp := [], ended := false }

/-- A train comes to a lane that has issued `n` instructions (R32): its splits' ages, which count from there, go on. -/
def Train.onLane (tr : Train) (n : Nat) : Train := { tr with splits := tr.splits.map fun q => { q with last := q.last + n } }

/-- It leaves the lane: `last` holds how long each split has not issued, negative. -/
def Train.offLane (tr : Train) (n : Nat) : Train := { tr with splits := tr.splits.map fun q => { q with last := q.last - n } }

/-- What the lane of a train has issued on a core. -/
def State.laneCount (s : State) (core : Nat) (tr : Train) : Nat := (s.core core).lanes.val 0 (laneOf tr.trn)

/-- Launch trains from `trn` on of a new workgroup, each with a private area and the acquire of dispatch (R109, R149), which sets
SCOPE_DEMOTED where it is narrowed (R144, R194); none if a private area is wanting. -/
def State.launchTrains (s : State) (w core : Nat) (r : Record) (vec : W64) (wait : Wait) : Nat → Nat → Option State
  | 0, _ => some s
  | n + 1, trn =>
    match s.allocPriv r.privSize with
    | none => none
    | some off =>
      let tr := Train.start r vec trn (s.boxPa off) wait
      let s1 := (s.clearPriv off r.privSize).setTrain w trn (tr.onLane (s.laneCount core tr))
      let s2 := (s1.acquire w trn (s1.runScope r.tenant 4)).noteDemoted w trn r.tenant 4
      s2.launchTrains w core r vec wait n (trn + 1)

/-- A core takes a context on: its record cache is empty (R93), and its L1 takes the context's share (R119). -/
def State.useSplit (s : State) (core split : Nat) : State :=
  let s0 := s.setCore core { s.core core with recs := [] }
  if (s0.core core).l1split = split then s0
  else
    let s1 := s0.l1Flush core
    s1.setCore core { s1.core core with l1split := split }

/-- A workgroup as it is first placed (R97, R101, R202, R424). -/
def Wg.start (slot : Nat) (t : Task) (wgid lpid ctx : Nat) (frame : Option Nat × W64) (mode : RunMode) (core pos clock : Nat)
    (save : W64) : Wg :=
  { slot := slot, sub := t.sub, wgid := wgid, lpid := lpid, ctx := BitVec.ofNat 16 ctx, ctxgen := 0, fslot := frame.1
    mode := mode, place := .resident core pos, placedAt := clock, yielded := none, share := [], sharePoison := [], bars := []
    wdg := Config.wdgReset, tiles := [], active := .empty, shadow := .empty, tileMark := none, accBase := frame.2
    accSaved := 0, saveBase := save, atomLog := 0, normal := false, asked := false, lehrStop := false }

/-- Place a new run on a core (R197, R202, R226, R240, R424); none if a context, a frame slot or private memory is
wanting. `stub` only takes the room that the run would have. DEDUCED: notes/assumptions/58.md. -/
def State.placeRun (s : State) (stub : Bool) (slot : Nat) (t : Task) (wgid lpid core : Nat) (mode : RunMode) : Option State :=
  let like := s.wgs.find? fun g => g.slot == slot && g.sub == t.sub && g.wgid == wgid && g.mode == .primary && g.lpid == lpid
  let vec := (s.hdesc.val ⟨0, 0, 0, 0⟩ t.rcd.tenant).vec
  let go := fun (ctx : Nat) (frame : Option Nat × W64) (save : Option W64) (wait : Wait) =>
    let (n, s0) := s.drawFree
    let base := save.getD (Config.saveBase n)
    let g := Wg.start slot t wgid lpid ctx frame mode core (s.freePos core) s.clock base
    let s1 := ({ s0 with wgs := s0.wgs ++ [g] }).useSplit core t.rcd.l1split
    s1.launchTrains s.wgs.length core t.rcd vec wait t.rcd.ntrn 0
  if stub then some { s with wgs := s.wgs ++ [Wg.start slot t wgid lpid 0 (none, 0) mode core (s.freePos core) s.clock 0] }
  else match mode, like with
  | .trail, some p => go p.ctx.toNat (p.fslot, p.accBase) (some p.saveBase) (.timer (s.clock + 16))
  | .primary, _ =>
    match s.freeCtx, s.newFrame t with
    | some ctx, some frame => go ctx frame none .ready
    | _, _ => none
  | _, some p =>
    match s.freeCtx, if t.rcd.matrix then s.newFrame t else some (none, 0) with
    | some ctx, some frame => go ctx (p.fslot, frame.2) none .ready
    | _, _ => none
  | _, none => none

/-- Level 0 is opened over a task's write ranges (R166, R229). -/
def State.openLevel0 (s : State) (slot : Nat) (t : Task) : State :=
  match s.doms.look slot with
  | some d =>
    if 2 ≤ t.rcd.integ ∧ !(d.levels.any fun l => l.n == 0) then
      s.setDom slot { d with levels := d.levels ++ [⟨0, d.freeGen, t.rcd.writes.map fun r => (r.1 * 4096, r.2 * 4096), false⟩] }
    else s
  | none => s

/-- A task is dispatched with its first workgroup (R149, R191, R229). -/
def State.noteDispatch (s : State) (slot : Nat) : State :=
  match s.task? slot with
  | some t => if t.dispatched then s else (s.setTask slot { t with st := .running, dispatched := true, fuse := fusionSize (s.fusionOf t.rcd) }).openLevel0 slot t
  | none => s

/-- Whether a workgroup has been placed (R196). -/
def Task.placed (t : Task) (w : Nat) : Bool := decide (w < t.nextWg) || t.ahead.contains w

/-- Advance past workgroups that were placed ahead. -/
def advanceNext : Nat → Nat → List Nat → Nat × List Nat
  | 0, n, ahead => (n, ahead)
  | k + 1, n, ahead => if ahead.contains n then advanceNext k (n + 1) (ahead.filter fun x => x != n) else (n, ahead)

/-- A workgroup has been placed for the first time in the interval. -/
def Task.notePlaced (t : Task) (w : Nat) : Task :=
  let ahead := if t.ahead.contains w then t.ahead else w :: t.ahead
  let (n, rest) := advanceNext ahead.length t.nextWg ahead
  { t with nextWg := n, ahead := rest }

/-- The LPID of a new workgroup on logical core `l`, with the lowest slot that is free on the core (R45, R197), or the one it had
(R231). -/
def State.lpidFor (s : State) (t : Task) (wgid l core : Nat) : Nat :=
  match t.redo.find? fun e => e.1 == wgid with
  | some e => e.2
  | none => l + 64 * s.freePos core

/-- Place a new workgroup, with its trailing copy at level 3, on logical core `l` (R197, R226). -/
def State.placeNew (s : State) (stub : Bool) (slot : Nat) (wgid l core : Nat) : Option State :=
  match s.task? slot with
  | none => none
  | some t =>
    if !s.room slot t core then none
    else
      let lpid := s.lpidFor t wgid l core
      match s.placeRun stub slot t wgid lpid core .primary with
      | none => none
      | some s1 =>
        let done := fun (s : State) => (s.updTask slot fun t => t.notePlaced wgid).noteDispatch slot
        if t.rcd.integ = 3 then (s1.placeRun stub slot t wgid lpid (core + 4) .trail).map done
        else some (done s1)

/-- Place a list of new workgroups, all or none (R198). -/
def State.placeAll (s : State) (stub : Bool) (slot : Nat) : List (Nat × Nat × Nat) → Option State
  | [] => some s
  | (wgid, l, core) :: rest =>
    match s.placeNew stub slot wgid l core with
    | some s1 => s1.placeAll stub slot rest
    | none => none

/-! ### Resumption -/

/-- The index of a workgroup's run of a kind. -/
def State.runIdx (s : State) (slot sub wgid : Nat) (mode : RunMode) : Option Nat :=
  (s.wgs.zipIdx.find? fun e => e.1.slot == slot && e.1.sub == sub && e.1.wgid == wgid && e.1.mode == mode &&
    e.1.place != .ended).map fun e => e.2

/-- What moves together with a workgroup: its fusion group, and with a checked pair the trailing copies (R198, R226). -/
def State.unitOf (s : State) (w : Nat) : List Nat :=
  match s.wg? w with
  | none => []
  | some g =>
    match s.taskOf? g with
    | none => [w]
    | some t =>
      let group := s.quads w g t.rcd
      if t.rcd.integ = 3 then
        (group ++ group.filterMap fun v => (s.wg? v).bind fun x => s.partner? v x).eraseDups
      else group

/-- Whether a workgroup is a member of a cluster-scope tree (R100): it then keeps its cluster (R209). -/
def State.inTree (s : State) (w : Nat) : Bool := s.roots.any fun r => r.members.contains w

/-- Whether every write of a context that has left its buffers is acknowledged (R150). -/
def State.settled (s : State) (w : Nat) : Bool :=
  (s.trainsOf w).all fun e => e.2.sb.all fun x => x.inBuffer || s.destDead x.dest

/-- The save engine writes a line of a save area (R209 step 2): its page is revived first if it is discarded (R181), and a home of
another chip receives the line as a write on its way. -/
def State.spillLine (s : State) (w core : Nat) (t : Task) (va : Nat) (bs : List Byte) : State :=
  match s.translate core t true va .store with
  | .ok pa disc _ =>
    let s1 := if disc then s.revive t.rcd.tenant (va / 4096) else s
    if s1.isLocal pa then
      ((s1.l2Use pa t.rcd.tenant).writeHome (homeBytesAt (offOf pa) bs) .other false).l1Write core (homeBytesAt pa bs) false
    else s1.updTrain w 0 fun tr =>
      tr.sendBytes (s1.destOf pa) .held none ((homeBytesAt pa bs).map fun b => ⟨.glob b.off, b.mask, b.val⟩) false
  | _ => s

/-- The save engine spills a context's live tiles from its old core (R209 step 2, R87): ASV leaves them dead, and VALID clears. -/
def State.spillTiles (s : State) (g : Wg) (w core : Nat) (t : Task) : State :=
  let co := s.core core
  if co.valid && co.owner == g.ctx then
    let live := (List.range 256).filter co.isLive
    let s1 := if g.mode = .trail then s else live.foldl (fun (s : State) a =>
      (List.range 80).foldl (fun (s : State) i =>
        s.spillLine w core t (g.accBase.toNat + Config.accImage * a + 128 * i) (co.accBytes a (128 * i) 128)) s) s
    let s2 := s1.setCore core { s1.core core with live := 0, valid := false }
    s2.updWg w fun g => { g with accSaved := g.accSaved ||| co.live }
  else s

/-- The save engine restores a context's saved tiles (R209 step 3); a tile whose image is not all on this chip is restored by an ARS
that waits for it, and its context issues behind it. -/
def State.restoreTiles (s : State) (w core : Nat) (t : Task) : State :=
  match s.wg? w with
  | none => s
  | some g =>
    if (s.core core).valid || g.accSaved == 0 then s
    else
      let s0 := s.setCore core { s.core core with owner := g.ctx, valid := true }
      ((List.range 256).filter fun a => g.accSaved.getLsbD a).foldl (fun (s : State) a =>
        let base := g.accBase.toNat + Config.accImage * a
        match s.engBytes g t true ⟨[], [], []⟩ 0 ((List.range Config.accImage).map fun i => base + i) with
        | .ok xs =>
          match xs.findIdx? fun x => x.2 with
          | some i => s.markTile w (BitVec.ofNat 64 ((base + i) / 32 * 32))
          | none => s.restoreTile w core a (xs.map fun x => x.1)
        | .error _ => s.restoreLater w a base) s0

/-- What a saved context's spill and restoration wait for (R182): lines of its save area whose pull is not finished. -/
def State.areaPulls (s : State) (w : Nat) : List Nat :=
  match s.wg? w with
  | some g =>
    match s.taskOf? g with
    | some t =>
      let co := s.core g.lastCore
      let tiles := g.accSaved ||| (if co.valid && co.owner == g.ctx then co.live else 0)
      ((List.range 256).filter fun a => tiles.getLsbD a).flatMap fun a =>
        s.engPulls g t true .store ((List.range 80).map fun i => g.accBase.toNat + Config.accImage * a + 128 * i)
    | none => []
  | none => []

/-- The splits of a resumed train look again; what a wait was for is issued again (R300, R35, R390). -/
def Split.resumed (q : Split) : Split :=
  match q.wait with
  | .barrier _ _ => { q with wait := .ready }
  | .flipped _ => { q with wait := .ready }
  | .xshc _ _ => { q with wait := .ready }
  | .timer _ => { q with wait := .ready }
  | .retry => { q with wait := .ready }
  | _ => q

/-- A train resumes (R206, R228): its replay packets go out again under the context's generation, the comparator's counts
continue; lines that only a fetch or a fill of the old core waited for are asked for anew. -/
def Train.resumed (tr : Train) (g : Wg) (clock : Nat) : Train :=
  { tr with
    splits := tr.splits.map Split.resumed
    outst := (tr.outst.filter fun o => !o.isLine).map fun o => { o with loads := o.loads.map fun l =>
      if l.value.isNone then { l with since := clock, expired := false, ctx := g.ctx, gen := g.ctxgen } else l }
    cmp := tr.cmp.map fun r => { r with since := clock - r.since } }

/-- The regions that a workgroup created move with it (R46, R118). -/
def State.moveRegions (s : State) (w : Nat) : State :=
  match s.wg? w with
  | some g => { s with regions := s.regions.map fun r => if r.creator = w then { r with cluster := g.group } else r }
  | none => s

/-- One run resumes on a core (R209): image, tiles, regions, replays and the responses kept for it, in that order. -/
def State.resumeRun (s : State) (t : Task) (w core : Nat) : State :=
  match s.wg? w with
  | none => s
  | some g =>
    let old := g.lastCore
    let s1 := State.useSplit { s with seqQ := s.seqQ.filter fun q => !(q.w == w && q.outst == 0 && q.cpym.isNone) } core t.rcd.l1split
    let s2 := if old = core ∨ g.mode = .shadow ∨ g.mode = .replay then s1 else s1.spillTiles g w old t
    let s3 := s2.updWg w fun g => { g with
      place := .resident core (s.freePos core), placedAt := s.clock, yielded := none, asked := false, lehrStop := false }
    let s4 := ((s3.restoreTiles w core t).moveRegions w).keptResponses w 1024
    let s5 := (s4.trainsOf w).foldl (fun (s : State) e =>
      ((s.updTrain w e.1 fun tr => ((tr.resumed g s.clock).onLane (s.laneCount core tr)).wake).acquire w e.1 4)) s4
    let pair := match s.partner? w g with
      | some v => [w, v]
      | none => [w]
    let cs := s5.cmps.map fun e =>
      if pair.contains (e.1 / 128) ∧ g.mode = .primary then (e.1, e.2.map fun r => { r with since := s.clock - r.since }) else e
    { s5 with cmps := cs }

/-- Whether a saved unit may resume with its leader-first members on these cores (R209). -/
def State.canResume (s : State) (stub : Bool) (slot : Nat) (t : Task) (ws cs : List Nat) : Bool :=
  (ws.zip cs).all fun (w, c) => match s.wg? w with
    | some g => (match g.place with
        | .saved _ => true
        | _ => false) && (stub || (s.settled w && (s.areaPulls w).isEmpty)) && s.roomOn slot t c && (!s.inTree w || clusterOf c == clusterOf g.lastCore) &&
        ((g.mode != .shadow && g.mode != .replay) || c == g.lastCore)
    | none => false

/-- Resume a unit: its members in turn on the cores that begin at position `i` of the logical cores, trailing copies on the
odd clusters. No workgroup yields to them any longer (R199). -/
def State.resumeUnit (s : State) (t : Task) (ws cs : List Nat) : State :=
  let s1 := (ws.zip cs).foldl (fun (s : State) e => s.resumeRun t e.1 e.2) s
  { s1 with wgs := s1.wgs.map fun g => match g.yielded with
      | some y => { g with yielded := some { y with wgs := y.wgs.filter fun v => !ws.contains v } }
      | none => g }

/-- The cores of a unit whose first core stands at position `i` of the logical cores: those of its trailing copies last. -/
def State.unitCores (s : State) (t : Task) (ws : List Nat) (i : Nat) : List Nat :=
  let ls := s.logicalCores t
  let n := if t.rcd.integ = 3 then ws.length / 2 else ws.length
  let own := (ls.drop i).take n
  if t.rcd.integ = 3 then own ++ own.map fun c => c + 4 else own

end Sys2Proof.Machine
end

