-- ==== Sys2Proof/Machine/Sched.lean ====
section
/-! DEFINITION. The ready pool (R196 to R201, R212, R223), pre-emption (R204 to R209). -/

namespace Sys2Proof.Machine

/-! ### What waits to be placed -/

/-- Workgroups of a task's fusion groups (R198): 1 without fusion. -/
def State.unitSize (s : State) (t : Task) : Nat := fusionSize (s.fusionOf t.rcd)

/-- The runs of a task that have not ended. -/
def State.liveRuns (s : State) (slot sub : Nat) : List (Nat × Wg) :=
  (s.wgs.zipIdx.filter fun e => e.1.slot == slot && e.1.sub == sub && e.1.place != .ended).map fun e => (e.2, e.1)

/-- Whether a run is saved. -/
def Wg.isSaved (g : Wg) : Bool :=
  match g.place with
  | .saved _ => true
  | _ => false

/-- Whether a task has a workgroup that was never placed and may be (R196, R229). -/
def Task.hasFresh (t : Task) : Bool := (!t.draining || t.firstEnd.isSome) && decide (t.nextWg < t.rcd.wgcount)

/-- Whether a task has a workgroup that waits for room. -/
def State.waits (s : State) (slot : Nat) (t : Task) : Bool :=
  (t.st == .ready || t.st == .running) && t.endInfo.isNone &&
    (t.hasFresh || (s.liveRuns slot t.sub).any fun e => e.2.isSaved)

/-- Whether a saved workgroup still yields (R199). -/
def State.yieldsNow (s : State) (g : Wg) (r : Record) : Bool :=
  match g.yielded with
  | none => false
  | some y =>
    (s.tasks.any fun e => y.subs.contains e.2.sub && e.2.hasFresh && e.2.endInfo.isNone) ||
    (y.wgs.any fun v => match s.wg? v with
      | some x => x.isSaved && s.liveCtx x
      | none => false) ||
    (s.wgs.any fun x => x.isSaved && match x.yielded, s.taskOf? x with
      | some z, some t => decide (z.turn < y.turn) && t.rcd.prio == r.prio && t.rcd.part == r.part
      | _, _ => false)

/-- Something of a task that may be placed: a saved unit by its leader, a shadow of a unit, a unit placed for the first time. -/
inductive Cand where
  | resume (w : Nat)
  | shadow (unit : Nat)
  | fresh (unit : Nat)
  deriving DecidableEq, Repr

/-- Units never placed that come next (R197): the lowest, or in a deterministic task the lowest of each logical core. -/
def State.freshUnits (s : State) (t : Task) : List Nat :=
  let g := s.unitSize t
  let m := (s.logicalCores t).length / g
  let units := t.rcd.wgcount / g
  if !t.hasFresh || m == 0 then []
  else if !t.isDet then (firstFrom (fun u => !t.placed (u * g)) (t.ahead.length + 1) (t.nextWg / g)).toList.filter fun u => decide (u < units)
  else
    let k0 := t.nextWg / g / m
    ((List.range m).filterMap fun r =>
      (firstFrom (fun k => !t.placed ((r + m * k) * g)) (t.ahead.length + 2) k0).map fun k => r + m * k).filter
        fun u => decide (u < units)

/-- Units of a level-2 task whose shadows are still to be placed (R223). -/
def State.shadowUnits (s : State) (slot : Nat) (t : Task) : List Nat :=
  if t.rcd.integ ≠ 2 then []
  else
    let g := s.unitSize t
    let live := s.liveRuns slot t.sub
    let ran := (live.filter fun e => e.2.mode == .primary).map (fun e => e.2.wgid) ++
      (t.digests.filter fun d => d.mode == .primary && d.attempt == t.attempts).map fun d => d.wgid
    let done := (live.filter fun e => e.2.mode == .shadow).map (fun e => e.2.wgid) ++
      (t.digests.filter fun d => d.mode == .shadow && d.attempt == t.attempts).map fun d => d.wgid
    let us := ((ran.filter fun w => !done.contains w).map fun w => w / g).eraseDups
    sortNat (us.filter fun u => (List.range g).all fun i => ran.contains (u * g + i))

/-- What a task may place, in ascending workgroups (R196). DEDUCED: notes/assumptions/59.md. -/
def State.candidates (s : State) (slot : Nat) (t : Task) : List Cand :=
  let g := s.unitSize t
  let saved := (s.liveRuns slot t.sub).filter fun e => e.2.isSaved && e.2.mode != .trail && !s.yieldsNow e.2 t.rcd && (s.unitOf e.1).headD 0 == e.1
  let alone := (s.liveRuns slot t.sub).isEmpty
  let keyed := (saved.map fun e => (3 * e.2.wgid, Cand.resume e.1)) ++
    (if t.serial && !alone then [] else
      ((s.shadowUnits slot t).map fun u => (3 * (u * g) + 1, Cand.shadow u)) ++
      ((s.freshUnits t).map fun u => (3 * (u * g) + 2, Cand.fresh u)))
  (sortNat (keyed.map fun e => e.1).eraseDups).flatMap fun k => (keyed.filter fun e => e.1 == k).map fun e => e.2

/-- The core that a workgroup's shadow runs on (R223), given where its primary ran. -/
def State.shadowCore (s : State) (t : Task) (core : Nat) : Nat :=
  match t.site with
  | some _ => core
  | none =>
    let ks := clustersOf (s.partCores t.rcd.part)
    4 * ks.getD ((ks.idxOf (clusterOf core) + 1) % ks.length) 0 + core % 4

/-- Where the primary of a workgroup runs or ran in the current attempt. -/
def State.primaryCore (s : State) (slot : Nat) (t : Task) (wgid : Nat) : Option Nat :=
  match (s.liveRuns slot t.sub).find? fun e => e.2.mode == .primary && e.2.wgid == wgid with
  | some e => some e.2.lastCore
  | none => (t.digests.find? fun d => d.mode == .primary && d.attempt == t.attempts && d.wgid == wgid).map fun d => d.core

/-- The LPID of a workgroup's primary in the current attempt. -/
def State.lpidOf (s : State) (slot : Nat) (t : Task) (wgid : Nat) : Nat :=
  ((s.wgs.reverse.find? fun g => g.slot == slot && g.sub == t.sub && g.wgid == wgid && g.mode == .primary).map
    fun g => g.lpid).getD 0

/-- Place the shadows of a unit (R223). -/
def State.placeShadows (s : State) (stub : Bool) (slot : Nat) (t : Task) (reserved : List Nat) : List Nat → Option State
  | [] => some s
  | wgid :: rest =>
    match s.primaryCore slot t wgid with
    | none => none
    | some p =>
      let core := s.shadowCore t p
      if reserved.contains core || !s.roomOn slot t core then none
      else
        match s.placeRun stub slot t wgid (s.lpidOf slot t wgid) core .shadow with
        | some s1 => s1.placeShadows stub slot t reserved rest
        | none => none

/-- Try to place a candidate: none if it fits nowhere. A `stub` takes only the room. -/
def State.tryCand (s : State) (stub : Bool) (slot : Nat) (t : Task) (reserved : List Nat) : Cand → Option State
  | .resume w =>
    let ws := s.unitOf w
    match s.wg? w with
    | none => none
    | some g =>
      if g.mode = .shadow ∨ g.mode = .replay then
        let cs := ws.map fun v => match s.wg? v with
          | some x => x.lastCore
          | none => 0
        if !(cs.any reserved.contains) && s.canResume stub slot t ws cs then some (s.resumeUnit t ws cs) else none
      else
        let n := s.unitSize t
        (List.range ((s.logicalCores t).length / n)).findSome? fun i =>
          let cs := s.unitCores t ws (i * n)
          if cs.length == ws.length && !(cs.any reserved.contains) && s.canResume stub slot t ws cs then some (s.resumeUnit t ws cs)
          else none
  | .shadow u =>
    let n := s.unitSize t
    s.placeShadows stub slot t reserved ((List.range n).map fun i => u * n + i)
  | .fresh u =>
    let n := s.unitSize t
    let ls := s.logicalCores t
    let m := ls.length / n
    let at' := if t.isDet then [u % m] else List.range m
    at'.findSome? fun i =>
      let es := (List.range n).map fun j => (u * n + j, i * n + j, ls.getD (i * n + j) 0)
      if es.any fun e => reserved.contains e.2.2 || (t.rcd.integ == 3 && reserved.contains (e.2.2 + 4)) then none
      else s.placeAll stub slot es

/-- Place one thing of a task, if anything fits. -/
def State.placeOne (s : State) (stub : Bool) (slot : Nat) (reserved : List Nat) : Option State :=
  match s.task? slot with
  | none => none
  | some t => (s.candidates slot t).findSome? fun c => s.tryCand stub slot t reserved c

/-- Place as much of a task as fits (R196). -/
def State.placeMany (s : State) (stub : Bool) (slot : Nat) (reserved : List Nat) : Nat → State
  | 0 => s
  | k + 1 =>
    match s.placeOne stub slot reserved with
    | some s1 => s1.placeMany stub slot reserved k
    | none => s

/-- How many runs the chip can hold: the rounds of one selection. -/
def placeRounds : Nat := 512

/-- Whether nothing of a task is left to place. -/
def State.allPlaced (s : State) (slot : Nat) : Bool :=
  match s.task? slot with
  | some t => decide (t.rcd.wgcount ≤ t.nextWg) && !((s.liveRuns slot t.sub).any fun e => e.2.isSaved)
  | none => true

/-- Place every workgroup of a cooperative task on free cores at once, or none (R196, R201). -/
def State.placeCoop (s : State) (stub : Bool) (slot : Nat) (reserved : List Nat) : Option State :=
  let busy := (List.range 64).filter fun c => !(s.runsOn c).isEmpty
  let s1 := s.placeMany stub slot (reserved ++ busy) placeRounds
  if s1.allPlaced slot then some s1 else none

/-- Whether a task's next workgroup fits nowhere (R199): it lacks room, not a context, a frame slot or private memory; of a
cooperative task, all of them at once (R196). -/
def State.wantsRoom (s : State) (slot : Nat) (t : Task) (reserved : List Nat) : Bool :=
  s.waits slot t && s.partFits t.rcd && !(s.candidates slot t).isEmpty &&
    (if t.rcd.coop then s.placeCoop true slot reserved else s.placeOne true slot reserved).isNone

/-! ### Pre-emption requests -/

/-- Everything that is pre-empted with a workgroup (R198, R201, R226). -/
def State.withUnit (s : State) (w : Nat) : List Nat :=
  match s.wg? w with
  | none => []
  | some g =>
    match s.taskOf? g with
    | some t =>
      if t.rcd.coop then ((s.liveRuns g.slot t.sub).filter fun e => e.2.mode != .shadow && e.2.mode != .replay).map fun e => e.1
      else s.unitOf w
    | none => [w]

/-- Send pre-emption requests (R204). -/
def State.ask (s : State) (ws : List Nat) : State :=
  ws.foldl (fun (s : State) w => s.updWg w fun g => if g.runs then { g with asked := true } else g) s

/-- The youngest of a list of workgroups (R199): placed most recently, then on the highest core. -/
def youngest (ws : List (Nat × Wg)) : Option Nat :=
  (ws.foldl (fun (b : Option (Nat × Wg)) e => match b with
    | none => some e
    | some x =>
      if x.2.placedAt < e.2.placedAt ∨ (x.2.placedAt = e.2.placedAt ∧ x.2.lastCore ≤ e.2.lastCore) then some e else some x)
    none).map fun e => e.1

/-- A task whose next workgroup fits nowhere pre-empts the youngest workgroup of lower class in its partition, one core at a time
(R199): a core holds workgroups of one task at a time (R195), so those that share its core go with it. DEDUCED:
notes/assumptions/60.md. -/
def State.preemptFor (s : State) (slot : Nat) (reserved : List Nat) : State :=
  match s.task? slot with
  | none => s
  | some t =>
    if !s.wantsRoom slot t reserved then s
    else
      let below := (s.wgs.zipIdx.filter fun e => match s.taskOf? e.1 with
        | some x => decide (x.rcd.prio < t.rcd.prio) && x.rcd.part == t.rcd.part && e.1.core?.isSome
        | none => false).map fun e => (e.2, e.1)
      if below.any fun e => e.2.asked || !e.2.runs then s
      else
        match youngest below with
        | some w =>
          let core := (s.wg? w).bind Wg.core?
          s.ask ((below.filter fun e => e.2.core? == core).flatMap fun e => s.withUnit e.1).eraseDups
        | none => s

/-! ### The selection -/

/-- Tasks of a class in the order of submission. -/
def State.ofClass (s : State) (c : Nat) : List Nat :=
  let mine := s.tasks.filter fun e => e.2.rcd.prio == c && (e.2.st == .ready || e.2.st == .running) && e.2.endInfo.isNone
  (sortNat (mine.map fun e => e.2.sub)).filterMap fun n => (mine.find? fun e => e.2.sub == n).map fun e => e.1

/-- One task's turn in the selection (R196): the state, and the cores reserved. -/
def State.selectTask (s : State) (reserved : List Nat) (slot : Nat) : State × List Nat :=
  match s.task? slot with
  | none => (s, reserved)
  | some t =>
    if !s.partFits t.rcd then (s, reserved)
    else if t.rcd.coop ∧ s.waits slot t then
      match s.placeCoop false slot reserved with
      | some s1 => (s1, reserved)
      | none => (s.preemptFor slot reserved,
          reserved ++ (s.partCores t.rcd.part).filter fun c => (s.runsOn c).isEmpty && !reserved.contains c)
    else ((s.placeMany false slot reserved placeRounds).preemptFor slot reserved, reserved)

/-- The selection of the ready pool (R196): what it reserves stands until the next one. Saved contexts that wait for a pull of their
save area ask for it (R182). -/
def State.select (s : State) : State :=
  let slots := [7, 6, 5, 4, 3, 2, 1, 0].flatMap s.ofClass
  let saved := (s.wgs.zipIdx.filter fun e => e.1.isSaved).map fun e => e.2
  let (s1, reserved) := slots.foldl (fun (x : State × List Nat) slot => x.1.selectTask x.2 slot)
    (s.askPulls (saved.flatMap fun w => s.areaPulls w), [])
  { s1 with reserved := reserved }

/-- DISPATCH_SELECTION (R196). -/
def execDispatchSelection (s : State) : Out := event true s fun s => if s.clocked then s.select else s

/-- When a workgroup's time slice ends (R199): none while nothing of its class waits. -/
def State.sliceDue (s : State) (w : Nat) : Option Nat :=
  match s.wg? w with
  | none => none
  | some g =>
    match s.taskOf? g with
    | none => none
    | some t =>
      let quant := bitsAt (s.partOf t.rcd.part).word1.toNat 8 24
      let other := fun (e : Nat × Task) => e.1 != g.slot && e.2.rcd.part == t.rcd.part && e.2.rcd.prio == t.rcd.prio &&
        s.wantsRoom e.1 e.2 s.reserved
      if g.runs && !g.asked && quant != 0 && g.mode != .trail && s.tasks.any other then some (g.placedAt + 1024 * quant) else none

/-- A workgroup is pre-empted at the end of its slice, and yields (R199). -/
def State.endSlice (s : State) (w : Nat) : State :=
  match s.wg? w, s.sliceDue w with
  | some g, some due =>
    match s.taskOf? g with
    | none => s
    | some t =>
      let (turn, s1) := ({ s with clock := max s.clock due }).fresh
      let mine := s.tasks.filter fun e => e.2.rcd.part == t.rcd.part && e.2.rcd.prio == t.rcd.prio && s.waits e.1 e.2
      let y : Yield :=
        { turn := turn
          subs := (mine.filter fun e => e.2.hasFresh).map fun e => e.2.sub
          wgs := (s.wgs.zipIdx.filter fun e => e.1.isSaved && mine.any fun k => k.1 == e.1.slot && k.2.sub == e.1.sub).map
            fun e => e.2 }
      let ws := s.withUnit w
      ws.foldl (fun (s : State) v => s.updWg v fun g => { g with yielded := some y }) (s1.ask ws)
  | _, _ => s

/-- TIME_SLICE_EXPIRY (R199). -/
def execTimeSliceExpiry (w : Nat) (s : State) : Out := event true s fun s => if s.clocked then s.endSlice w else s

/-! ### Halting and saving -/

/-- A workgroup with the other copy of its checked pair (R226). -/
def State.both (s : State) (w : Nat) : List Nat :=
  match s.wg? w with
  | some g => match s.partner? w g with
    | some v => [w, v]
    | none => [w]
  | none => []

/-- A request is delivered (R203 to R205): not before the context's 512th cycle. -/
def State.deliver (s : State) (w : Nat) : State :=
  match s.wg? w with
  | some g =>
    if g.asked && g.runs then
      let s1 := { s with clock := max s.clock (g.placedAt + 512) }
      (s.both w).foldl (fun (s : State) v => s.updWg v fun g => match g.place with
        | .resident c n => { g with
            place := .halting c n, asked := false, ctxgen := g.ctxgen + 1
            lehrStop := g.lehrStop || (s.trainsOf v).any fun e => e.2.splits.any fun q => q.wait == .lehr }
        | _ => g) s1
    else s
  | none => s

/-- PREEMPT_REQUEST (R204). -/
def execPreemptRequest (w : Nat) (s : State) : Out := event true s fun s => s.deliver w

/-- A watchdog holds (R300). -/
def Bar.hold (x : Bar) (clock : Nat) : Bar :=
  match x.since with
  | some n => { x with held := x.held + (clock - n), since := none }
  | none => x

/-- The watchdogs of a halted workgroup hold: those of its own registers, and those of its trees that no other leaf's
waiter keeps going (R300). -/
def State.holdWatches (s : State) (w : Nat) : State :=
  let s1 := s.updWg w fun g => { g with bars := Cells.mapVals (fun x => x.hold s.clock) g.bars }
  match s.wg? w with
  | none => s1
  | some _ =>
    { s1 with roots := s1.roots.map fun r =>
        let waiting := r.members.any fun m => m != w && (match s.wg? m with
          | some g => g.runs && s.anyWaiter m (r.idx % 16)
          | none => false)
        match r.since with
        | some n => if r.members.contains w ∧ !waiting then { r with since := none, held := r.held + (s.clock - n) } else r
        | none => r }

/-- Whether a run stands at a boundary where it may halt: no prefix has issued whose word is about to (R43, R268). -/
def State.atBoundary (s : State) (w : Nat) : Bool :=
  (s.trainsOf w).all fun e => !(e.2.splits.any fun q => q.pfx.isSome && q.wait == .ready && !q.parked && q.spilled.isNone &&
    (!e.2.hmode || q.id == e.2.hsplit) && !e.2.trapDue)

/-- An ARS that a halt interrupts leaves its tile dead until it completes (R292). -/
def State.haltRestores (s : State) (w core : Nat) : State :=
  (s.seqQ.filter fun q => q.w == w && q.started && decide (0 < q.pos) && match q.insn with
    | .ars _ _ _ _ => true
    | _ => false).foldl (fun (s : State) q => s.setCore core ((s.core core).setLive q.idx false)) s

/-- One run halts (R205, R228): the comparator's counts hold, its splits' ages stand, and what had come for it is dropped. -/
def State.haltRun (s : State) (w : Nat) : State :=
  match s.wg? w with
  | some g =>
    match g.place with
    | .halting c n =>
      let s1 := (s.holdWatches w).updWg w fun g => { g with place := .halted c n }
      let s2 := (s1.trainsOf w).foldl (fun (s : State) e => s.updTrain w e.1 fun tr =>
        { tr.offLane (s.laneCount c tr) with cmp := tr.cmp.map fun r => { r with since := s.clock - r.since } }) s1
      let s3 := (s2.setCore c { s2.core c with inbox := [] }).haltRestores w c
      { s3 with cmps := s3.cmps.map fun e =>
          if e.1 / 128 = w then (e.1, e.2.map fun r => { r with since := s.clock - r.since }) else e }
    | _ => s
  | none => s

/-- CORE_HALT (R205). -/
def execCoreHalt (w : Nat) (s : State) : Out := event true s fun s =>
    if (s.both w).all s.atBoundary then (s.both w).foldl (fun (s : State) v => s.haltRun v) s else s

/-- The save engine writes an image at SAVEBASE (R208): bytes that the spec does not lay out, in memory that no lease and no private
window covers. DEDUCED: notes/assumptions/39.md. -/
def State.writeImage (s : State) (base : Nat) : State :=
  let (n, s1) := s.drawFree
  let taken := s.leasedAreas ++ s.privAreas
  let bs := (homeBytesAt base (Config.imageBytes n)).filter fun b =>
    decide (b.off < Config.metaBase) && taken.all fun u => decide (b.off < u.1) || decide (u.2 ≤ b.off)
  s1.writeHome bs .other false

/-- The save engine has written a context's image (R208), and its private dirty lines (R111). DEDUCED: notes/assumptions/39.md. -/
def State.saveRun (s : State) (w : Nat) : State :=
  match s.wg? w with
  | some g =>
    match g.place, s.taskOf? g with
    | .halted c _, some t =>
      let s1 := (s.trainsOf w).foldl (fun (s : State) e =>
        s.l1WriteBackRange c (offOf e.2.pb) (offOf e.2.pb + t.rcd.privSize)) s
      (s1.writeImage g.saveBase.toNat).updWg w fun g => { g with place := .saved c }
    | _, _ => s
  | none => s

/-- CONTEXT_SAVE (R208). -/
def execContextSave (w : Nat) (s : State) : Out := event true s fun s => s.saveRun w

/-- A saved context resumes on a core (R209) where the selection places it there (R196), with all that this selection does. -/
def State.resumeAt (s : State) (w core : Nat) : State :=
  let s1 := s.select
  if (s.wg? w).any Wg.isSaved && (s1.wg? w).any fun g => g.core? == some core then s1 else s

/-- CONTEXT_RESUME (R209). -/
def execContextResume (w core : Nat) (s : State) : Out :=
  event (decide (core ≤ 63)) s fun s => if s.clocked then s.resumeAt w core else s

end Sys2Proof.Machine
end

