-- ==== Sys2Proof/Machine/Finish.lean ====
section
/-! DEFINITION. The supervisor's answer to SVC (R244, R389) and the end of a workgroup (R27, R118, R198, R218, R222, R245,
R332). -/

namespace Sys2Proof.Machine

/-! ### SVC -/

/-- The first request that a train has sent to the supervisor: its outstanding instruction and the request. -/
def Train.request? (tr : Train) : Option (Outst × W64) :=
  (tr.outst.find? fun o => !o.kept && o.waitsFor == some 1 && match o.insn with
    | .svc _ => true
    | _ => false).map fun o => (o, o.ops.getD 0 0)

/-- Request 0x01 (R244): the lehr share of a domain grows by what the supervisor grants; the state, and how much. -/
def State.growLehr (s : State) (slot wanted : Nat) : State × Nat :=
  match s.doms.look slot with
  | none => (s, 0)
  | some d =>
    let (n, s1) := s.drawFree
    let got := min (Config.lehrGrant n) (min wanted (0xFFFFFF - d.lehr))
    (s1.setDom slot { d with lehr := d.lehr + got, free := d.free + got }, got)

/-- The supervisor answers a handler's request (R244, R389). DEDUCED: notes/assumptions/65.md. -/
def State.answerSvc (s : State) (w t : Nat) : State :=
  match s.wg? w, s.train? w t with
  | some g, some tr =>
    match tr.request? with
    | none => s
    | some (o, x) =>
      let code := bitsAt x.toNat 0 8
      if code = 1 then
        let (s1, n) := s.growLehr g.slot (bitsAt x.toNat 8 56)
        s1.finishCommand w t o.id [BitVec.ofNat 64 n]
      else if code = 2 then s.endWorkgroup w (tr.trap.endInfo g.wgid)
      else if code = 3 then s.endBy g tr.trap
      else s.finishCommand w t o.id [0xFFFFFFFFFFFFFFFF]
  | _, _ => s

/-- SVC_ANSWER (R389). -/
def execSvcAnswer (w t : Nat) (s : State) : Out := event true s fun s => s.answerSvc w t

/-! ### The end of a workgroup -/

/-- Whether every train of a run has ended, and all that it issued has completed (R332). -/
def State.runDone (s : State) (w : Nat) : Bool :=
  (s.trainsOf w).all (fun e => e.2.ended && e.2.outst.isEmpty && e.2.edq.isEmpty && e.2.dq.isEmpty && e.2.cmp.isEmpty &&
    e.2.sb.all fun x => !x.inBuffer) &&
  !(s.strQ.any fun q => q.w == w) && !(s.seqQ.any fun q => q.w == w) && !(s.resp.any fun r => r.w == w) &&
  s.cmps.all fun e => e.1 / 128 != w || e.2.isEmpty

/-- The digest of a run that has ended is kept where it will be compared (R222, R224). -/
def Task.keepDigest (t : Task) (g : Wg) (wd : W64) : Task :=
  if (t.rcd.integ = 2 ∧ g.mode ≠ .trail) ∨ t.audits g.wgid then
    { t with digests := t.digests ++ [⟨g.wgid, g.mode, wd, g.lastCore, t.attempts, g.atomLog⟩] }
  else t

/-- One run has ended under R27: its regions go to their homes (R118), its digest is taken (R218); none while a line of a
region waits. -/
def State.finishRun (s : State) (w : Nat) : Option State :=
  match s.wg? w with
  | none => none
  | some g =>
    match s.taskOf? g with
    | none => none
    | some t =>
      ((s.applyShareSums w).writeBackRegions w g t (s.regions.filter fun r => r.creator == w)).map fun s1 =>
        let s2 := ((s1.dropHoldings w).leaveTrees w).updWg w fun g => { g with normal := true }
        s2.updTask g.slot fun t =>
          let t1 := t.keepDigest g (s2.wd w)
          if g.mode = .primary then { t1 with interval := t1.interval ++ [g.wgid] } else t1

/-- A run leaves its core, with its fusion group once every member has ended (R198). -/
def State.closeGroup (s : State) (w : Nat) : State :=
  match s.wg? w with
  | none => s
  | some g =>
    match s.taskOf? g with
    | none => s
    | some t =>
      let ws := s.quads w g t.rcd
      if ws.all fun v => (s.wg? v).any fun x => x.normal then ws.foldl (fun (s : State) v => s.markWgEnded v) s else s

/-- PAIRCTL (R225). -/
def State.pairctl (s : State) : Nat := s.paired.toNat + s.faulty.toNat * 2 ^ 16

/-- A replay has ended: its digest is compared with its original's (R222). -/
def State.closeAudit (s : State) (g : Wg) : State :=
  match s.taskOf? g with
  | none => s
  | some t =>
    let of := fun (m : RunMode) => t.digests.find? fun d => d.wgid == g.wgid && d.mode == m
    match of .primary, of .replay with
    | some a, some b =>
      let s1 := s.updTask g.slot fun t => { t with audited := g.wgid :: t.audited }
      if !t.chosen g.wgid || a.wd == b.wd then s1
      else
        (s1.sendAll t.rcd.tenant 0 t.port
          (deviceRecord 0x13 2 [(taskTag g.slot t.sub).toNat, 0, a.core + b.core * 256, s.pairctl])).endTask g.slot
            ⟨.audit, 0, 0, 0, g.wgid⟩
    | _, _ => s

/-- Finish runs in turn; none while one of them waits. -/
def State.finishRuns (s : State) : List Nat → Option State
  | [] => some s
  | w :: ws =>
    match s.finishRun w with
    | some s1 => s1.finishRuns ws
    | none => none

/-- What the end of a workgroup does next: a run with all its trains ended finishes, with the other copy of a checked pair
(R226); a run that ended early writes its regions back (R245). -/
def State.endStep (s : State) (w : Nat) : State :=
  match s.wg? w with
  | none => s
  | some g =>
    match s.taskOf? g with
    | none => s
    | some t =>
      if g.place = .ended then
        ((s.applyShareSums w).writeBackRegions w g t (s.regions.filter fun r => r.creator == w)).getD (s.askPulls (s.regionPulls w g t))
      else if g.normal then s.closeGroup w
      else if t.endInfo.isSome || g.mode == .trail || !(s.both w).all s.runDone then s
      else
        match s.finishRuns (s.both w) with
        | none => s.askPulls (s.regionPulls w g t)
        | some s1 =>
          let s2 := (s.both w).foldl (fun (s : State) v => s.closeGroup v) s1
          if g.mode = .replay then s2.closeAudit g else s2

/-- WORKGROUP_END (R332, R245). -/
def execWorkgroupEnd (w : Nat) (s : State) : Out := event true s fun s => if s.clocked then s.endStep w else s

end Sys2Proof.Machine
end

