-- ==== Sys2Proof/Machine/Integrity.lean ====
section
/-! DEFINITION. Checkpoints, rollback and recovery (R166, R213, R215, R224, R229 to R232), the comparator (R226 to R228), the
auditor (R221, R222), exhaustion of the lehr (R230). -/

namespace Sys2Proof.Machine

/-! ### Rollback -/

/-- Local writes of a train that have left its buffer are performed, in order (R231 step 1). -/
def State.settleWrites (s : State) (w t : Nat) : State :=
  match s.train? w t with
  | none => s
  | some tr => tr.sb.foldl (fun (s : State) e => if s.canGrant w t e.id then s.grant w t e.id else s) s

/-- Whether a workgroup was placed after the last checkpoint (R229). -/
def Task.sinceMark (t : Task) (wgid : Nat) : Bool := !(decide (wgid < t.mark.1) || t.mark.2.contains wgid)

/-- The runs of the interval since the last checkpoint. -/
def State.intervalRuns (s : State) (slot : Nat) (t : Task) : List Nat :=
  (s.wgs.zipIdx.filter fun e => e.1.slot == slot && e.1.sub == t.sub && t.sinceMark e.1.wgid).map fun e => e.2

/-- The workgroups of the interval with their LPIDs, to be executed again (R231). -/
def State.intervalLpids (s : State) (slot : Nat) (t : Task) : List (Nat × Nat) :=
  t.redo ++ ((s.wgs.filter fun g => g.slot == slot && g.sub == t.sub && t.sinceMark g.wgid && g.mode == .primary &&
    !(t.redo.any fun e => e.1 == g.wgid)).map fun g => (g.wgid, g.lpid)).eraseDups

/-- Discard a run: nothing of it is in flight, its regions go nowhere, its context is free (R231 steps 1 and 2). -/
def State.discardRun (s : State) (w : Nat) : State :=
  let s1 := (s.trainsOf w).foldl (fun (s : State) e => s.settleWrites w e.1) s
  let live := (s1.wg? w).any fun g => g.place != .ended
  let s2 := if live then s1.endRun w else s1
  { s2 with
    regions := s2.regions.filter fun r => r.creator != w
    posts := s2.posts.filter fun p => match p.outst with
      | some x => x.1 != w
      | none => true
    cmps := s2.cmps.filter fun e => e.1 / 128 != w }.updWg w fun g => { g with sub := 0 }

/-- Reject every level of a task's domain (R162, R166, R213): none of them when one is BROKEN. -/
def State.rejectAll (s : State) (slot : Nat) : State × Bool :=
  match s.doms.look slot with
  | none => (s, false)
  | some d => if d.levels.any Level.broken then (s.removeLevels slot fun _ => true, true) else (s.rejectTo slot 0 none 5, false)

/-- Steps 1 to 3 of R231: the state, and whether a level was BROKEN. DEDUCED: notes/assumptions/55.md. -/
def State.rollback (s : State) (slot : Nat) : State × Bool :=
  match s.task? slot with
  | none => (s, false)
  | some t =>
    let lpids := s.intervalLpids slot t
    let s1 := (s.intervalRuns slot t).foldl (fun (s : State) w => s.discardRun w) s
    let (s2, broken) := State.rejectAll (s1.dropSums s.chipId slot) slot
    let s3 := s2.updTask slot fun t => { t with
      nextWg := t.mark.1, ahead := t.mark.2, redo := lpids, interval := [], log := [], draining := false }
    (if broken then s3 else s3.openLevel0 slot t, broken)

/-! ### The mismatch sequence -/

/-- Clusters of a task's partition that may be used. -/
def State.openClusters (s : State) (t : Task) : List Nat :=
  (clustersOf (s.partCores t.rcd.part)).filter fun k => !s.clusterClosed k

/-- The pairs of a task's partition that may be used. -/
def State.openPairs (s : State) (t : Task) : List Nat :=
  ((clustersOf (s.partCores t.rcd.part)).map fun k => k / 2).eraseDups.filter fun p =>
    !s.clusterClosed (2 * p) && !s.clusterClosed (2 * p + 1)

/-- The digest that more than half of a workgroup's collected runs have (R231 step 6). -/
def majority (ds : List RunDigest) : Option W64 :=
  (ds.find? fun d => decide (ds.length < 2 * (ds.filter fun x => x.wd == d.wd).length)).map fun d => d.wd

/-- The clusters declared faulty at step 6 of R231. -/
def Task.faulty (t : Task) (wgid : Nat) : List Nat :=
  if t.rcd.integ = 3 then match t.clusters with
    | p :: _ => [2 * p, 2 * p + 1]
    | [] => []
  else
    let ds := t.digests.filter fun d => d.wgid == wgid
    match majority ds with
    | some x => ((ds.filter fun d => d.wd != x).map fun d => clusterOf d.core).eraseDups
    | none => []

/-- Step 6 of R231: FAULTY, the end of the task, the report to the host. -/
def State.giveUp (s : State) (slot wgid : Nat) (cause : Cause) (bad : List Nat) : State :=
  match s.task? slot with
  | none => s
  | some t =>
    let new := bitsOf (fun k => bad.contains k && !s.faulty.getLsbD k) 16
    let s1 := { s with faulty := s.faulty ||| BitVec.ofNat 16 new }
    (s1.sendAll t.rcd.tenant 0 t.port (deviceRecord 0x13 1 [(taskTag slot t.sub).toNat, new, 0, s1.pairctl])).endTask slot
      ⟨cause, 0, 0, 0, wgid⟩

/-- The mismatch sequence (R231, R232): `x` and `y` are the clusters that disagreed. -/
def State.mismatch (s : State) (slot wgid : Nat) (cause : Cause) (x y : Nat) : State :=
  match s.task? slot with
  | none => s
  | some t =>
    if t.endInfo.isSome then s
    else if t.rcd.lehr = 0 then s.endTask slot ⟨cause, 0, 0, 0, wgid⟩
    else
      let (s1, broken) := s.rollback slot
      if broken then s1.endTask slot ⟨.logOverflow, 0, 0, 0, wgid⟩
      else
        let used := if t.rcd.integ = 3 then (t.clusters ++ [x / 2]).eraseDups else (t.clusters ++ [x, y]).eraseDups
        let free := if t.rcd.integ = 3 then s1.openPairs t else s1.openClusters t
        let next := if t.rcd.integ = 3 ∧ t.attempts = 0 then some (x / 2) else free.find? fun k => !used.contains k
        let again := fun (site : Nat) => s1.updTask slot fun t => { t with
          attempts := t.attempts + 1, clusters := used, site := some site, serial := t.serial || decide (t.rcd.integ = 2) }
        match decide (t.attempts < 2), next with
        | true, some site => again site
        | _, _ => s1.giveUp slot wgid cause ({ t with clusters := used }.faulty wgid)

/-! ### Checkpoints -/

/-- Workgroup completions after which a checkpoint closes (R229, R230). -/
def Task.ckpt (t : Task) : Nat := if t.one then 1 else t.rcd.ckptn

/-- The workgroup of the interval whose two digests differ, the lowest (R224). -/
def Task.disagree (t : Task) : Option (RunDigest × RunDigest) :=
  let of := fun (w : Nat) (m : RunMode) => t.digests.find? fun d => d.wgid == w && d.mode == m && d.attempt == t.attempts
  (sortNat t.interval).findSome? fun w => match of w .primary, of w .shadow with
    | some a, some b => if a.wd = b.wd then none else some (a, b)
    | _, _ => none

/-- The digests of an interval's workgroups that are kept (R218). -/
def Task.keptNow (t : Task) : List (Nat × W64) :=
  t.interval.filterMap fun w =>
    (t.digests.find? fun d => d.wgid == w && d.mode == .primary && d.attempt == t.attempts).map fun d => (w, d.wd)

/-- A checkpoint closes (R229 steps 3 and 4). DEDUCED: notes/assumptions/56.md. -/
def State.closeNow (s : State) (slot : Nat) (t : Task) : State :=
  let s1 := (s.applySums slot).removeLevels slot fun l => l.n == 0
  let redo := t.redo.filter fun e => !t.interval.contains e.1
  (s1.updTask slot fun x => { x with
    closed := x.closed + t.interval.length, kept := x.kept ++ t.keptNow, mark := (x.nextWg, x.ahead), redo := redo
    interval := [], digests := [], log := [], draining := false, serial := t.one && !redo.isEmpty, one := t.one && !redo.isEmpty
    site := none, attempts := 0, clusters := [] }).openLevel0 slot t

/-- Whether every run of the interval has ended, and no program level is live (R229 step 2). -/
def State.drained (s : State) (slot : Nat) (t : Task) : Bool :=
  (s.liveRuns slot t.sub).isEmpty && (s.shadowUnits slot t).isEmpty && match s.doms.look slot with
    | some d => d.levels.all fun l => l.n == 0
    | none => true

/-- A step towards the close of a checkpoint (R229): placement stops; then the interval is compared and closed. -/
def State.checkpointStep (s : State) (slot : Nat) : State :=
  match s.task? slot with
  | none => s
  | some t =>
    if t.st != .running || t.rcd.integ < 2 || t.rcd.lehr = 0 || t.endInfo.isSome || t.firstEnd.isSome then s
    else if !t.draining then
      if t.ckpt ≤ t.interval.length ∧ t.nextWg < t.rcd.wgcount then s.setTask slot { t with draining := true } else s
    else if !s.drained slot t then s
    else
      match t.disagree with
      | some (a, b) => s.mismatch slot a.wgid .digest (clusterOf a.core) (clusterOf b.core)
      | none => s.closeNow slot t

/-- CHECKPOINT_CLOSE (R229). -/
def execCheckpointClose (slot : Nat) (s : State) : Out := event true s fun s => if s.clocked then s.checkpointStep slot else s

/-! ### Exhaustion of the lehr -/

/-- Whether a workgroup waits for a shadow entry in a train or a command (R230). -/
def State.waitsLehr (s : State) (w : Nat) (g : Wg) : Bool :=
  ((s.trainsOf w).any fun e => e.2.splits.any fun q => q.wait == .lehr) ||
    (g.lehrStop && match s.doms.look g.slot with
      | some d => d.free == 0
      | none => false)

/-- Whether every resident workgroup of a task waits in this way (R230): one that is pre-empted counts as resident (R229), and waits if
it did so when its request came. -/
def State.allWaitLehr (s : State) (slot : Nat) (t : Task) : Bool :=
  let runs := (s.liveRuns slot t.sub).filter fun e => e.2.mode == .primary
  !runs.isEmpty && runs.all fun e => s.waitsLehr e.1 e.2

/-- LEHR_EXHAUSTION (R230): the interval is rolled back and executed again one workgroup at a time, or the task ends.
DEDUCED: notes/assumptions/54.md. -/
def State.exhaust (s : State) (slot : Nat) : State :=
  match s.task? slot with
  | none => s
  | some t =>
    if t.st != .running || t.rcd.integ < 2 || t.endInfo.isSome || !s.allWaitLehr slot t then s
    else
      let wgid := match (s.liveRuns slot t.sub).find? fun e => e.2.mode == .primary with
        | some e => e.2.wgid
        | none => 0
      if t.one || t.rcd.lehr = 0 then s.endTask slot ⟨.logOverflow, 0, 0, 0, wgid⟩
      else
        let (s1, broken) := s.rollback slot
        if broken then s1.endTask slot ⟨.logOverflow, 0, 0, 0, wgid⟩
        else s1.updTask slot fun t => { t with serial := true, one := true, digests := t.digests.filter fun d => d.attempt != t.attempts }

/-- LEHR_EXHAUSTION (R230). -/
def execLehrExhaustion (slot : Nat) (s : State) : Out := event true s fun s => s.exhaust slot

/-! ### The comparator -/

/-- The place of a train's unmatched requests: that of its leading copy, and which copy sent them. -/
def State.cmpKey (s : State) (w t : Nat) (g : Wg) : Option (Nat × Nat) :=
  if g.mode = .trail then (s.partner? w g).map fun v => (128 * v + 2 * t + 1, 128 * v + 2 * t)
  else some (128 * w + 2 * t, 128 * w + 2 * t + 1)

/-- Unmatched requests of the leading copies that are resident on a checked pair (R228): those of others left with their contexts. -/
def State.pairLoad (s : State) (core : Nat) : Nat :=
  (s.cmps.map fun e =>
    match s.wg? (e.1 / 128) with
    | some g => if e.1 % 2 = 0 ∧ g.core?.any (fun c => c / 8 == core / 8) then e.2.length else 0
    | none => 0).sum

/-- Whether a store-buffer entry still waits for a comparison of another step. -/
def State.stillCompared (s : State) (w t key e : Nat) : Bool :=
  ((s.train? w t).any fun tr => tr.cmp.any fun r => r.entry == some e && match r.item with
    | .store _ => true
    | _ => false) || (s.cmps.val [] key).any fun r => r.entry == some e && match r.item with
    | .store _ => true
    | _ => false

/-- A matched atomic is performed at its home on this chip, or leaves for another chip (R227). -/
def State.releaseAtomic (s : State) (w t : Nat) (key : StepKey) : State :=
  match s.wg? w, s.train? w t with
  | some g, some tr =>
    let mine := fun (r : Resp) => r.w == w && r.t == t && r.j == key.pos && !r.ready && (match tr.outst? r.o with
      | some x => x.dix == key.dix && x.sub == key.sub
      | none => false)
    match s.resp.find? mine with
    | none => s
    | some r =>
      if s.isLocal r.pa then
        match tr.outst? r.o with
        | none => s
        | some x =>
          let (op, d) := (atomOf x.insn).getD (r.op, 0)
          let addr := (quadsOf x.ops (1#32 <<< r.j)).getD 1 0
          let s1 := State.updTrain { s with resp := s.resp.filter fun q => q.id != r.id } w t fun tr =>
            tr.updOutst r.o fun x => { x with atoms := x.atoms.filter fun a => a != r.id }
          let det := match s.taskOf? g with
            | some task => task.isDet
            | none => false
          s1.atomHome w t r.o r.j d.toNat addr r.pa op r.a r.b det (if r.rsv then .train (some g.lastCore) else .other)
      else { s with resp := s.resp.map fun q => if q.id = r.id then { q with ready := true } else q }
  | _, _ => s

/-- Whether a command's instruction is a collective. -/
def isCollective : Instr → Bool
  | .clstAg _ _ _ _ => true
  | .clstRs _ _ _ _ => true
  | .clstAr _ _ _ _ => true
  | .clstBc _ _ _ _ => true
  | _ => false

/-- One copy's part of a matched item is performed or dropped (R227): `lead` says whose. -/
def State.passItem (s : State) (w t key : Nat) (lead : Bool) (r : CmpReq) : State :=
  match r.item, r.entry with
  | .store _, some e =>
    if s.stillCompared w t key e then s
    else if lead then s.updTrain w t fun tr => tr.updEntry e fun x => if x.stage = .compare then { x with stage := .held } else x
    else s.updTrain w t fun tr => tr.dropEntry e
  | .atom _ _ _ _, _ => if lead then s.releaseAtomic w t r.key else s
  | .command i _, some o =>
    if !lead then s
    else if isCollective i then s.updStr o fun q => { q with ready := true }
    else s.performOnce w t o
  | _, _ => s

/-- The comparator takes the next request of a train of a checked pair (R227, R228). DEDUCED: notes/assumptions/27.md. -/
def State.compareNext (s : State) (w t : Nat) : State :=
  match s.wg? w, s.train? w t with
  | some g, some tr =>
    match tr.cmp, s.cmpKey w t g with
    | r :: rest, some (mine, other) =>
      if !g.core?.isSome then s
      else
        let others := s.cmps.val [] other
        let s1 := s.updTrain w t fun tr => { tr with cmp := rest }
        match others.find? fun x => x.key == r.key with
        | none =>
          if g.mode = .primary ∧ 256 ≤ s.pairLoad g.lastCore then s
          else { s1 with cmps := s1.cmps.store [] mine (s1.cmps.val [] mine ++ [{ r with since := s.clock }]) }
        | some x =>
          if x.item ≠ r.item then s.mismatch g.slot g.wgid .mismatch (clusterOf g.lastCore) (clusterOf g.lastCore ^^^ 1)
          else
            let s2 := { s1 with cmps := s1.cmps.store [] other (dropFirst (fun y => y.key == r.key) others) }
            let v := (s.partner? w g).getD w
            let lead := g.mode == .primary
            (s2.passItem w t mine lead r).passItem v t other (!lead) x
    | _, _ => s
  | _, _ => s

/-- COMPARATOR_REQUEST (R227). -/
def execComparatorRequest (w t : Nat) (s : State) : Out := event true s fun s => s.compareNext w t

/-- When an unmatched request of a train of a checked pair runs out (R228): none while the pair is not resident. -/
def State.compareDue (s : State) (w t : Nat) : Option Nat :=
  match s.wg? w with
  | none => none
  | some g =>
    if g.mode != .primary || !g.runs then none
    else
      let rs := s.cmps.val [] (128 * w + 2 * t) ++ s.cmps.val [] (128 * w + 2 * t + 1)
      (sortNat (rs.map fun r => r.since + 4096)).head?

/-- COMPARATOR_TIMEOUT (R228). -/
def execComparatorTimeout (w t : Nat) (s : State) : Out :=
  event true s fun s =>
    match s.wg? w, s.compareDue w t with
    | some g, some due =>
      State.mismatch { s with clock := max s.clock due } g.slot g.wgid .mismatch (clusterOf g.lastCore) (clusterOf g.lastCore ^^^ 1)
    | _, _ => s

/-! ### The auditor -/

/-- The original of a workgroup that is to be replayed: it has ended, and its audit is not yet done (R221). -/
def State.unaudited (s : State) (slot : Nat) (t : Task) (wgid : Nat) : Option RunDigest :=
  if t.audited.contains wgid || (s.liveRuns slot t.sub).any fun e => e.2.wgid == wgid && e.2.mode == .replay then none
  else t.digests.find? fun d => d.wgid == wgid && d.mode == .primary

/-- Place the replays of a fusion group, all or none. -/
def State.placeReplays (s : State) (slot : Nat) (t : Task) : List (Nat × Nat) → Option State
  | [] => some s
  | (wgid, core) :: rest =>
    if !s.roomOn slot t core then none
    else
      match s.placeRun false slot t wgid (s.lpidOf slot t wgid) core .replay with
      | some s1 => s1.placeReplays slot t rest
      | none => none

/-- The auditor places the replay of a workgroup that has ended, with its fusion group, on cores other than the
originals'
(R221); one whose log overflowed is not replayed (R222). DEDUCED: notes/assumptions/57.md. -/
def State.auditStep (s : State) (slot wgid core : Nat) : State :=
  match s.task? slot with
  | none => s
  | some t =>
    if t.rcd.integ != 1 || t.endInfo.isSome || wgid % t.fuse != 0 || !s.partFits t.rcd then s
    else
      let ws := (List.range t.fuse).map fun i => wgid + i
      let ds := ws.filterMap fun w => s.unaudited slot t w
      if ds.length ≠ t.fuse then s
      else if ds.any fun d => decide (4096 < d.logged) then s.setTask slot { t with audited := ws ++ t.audited }
      else
        let i := (s.logicalCores t).idxOf core
        let cs := ((s.logicalCores t).drop i).take t.fuse
        if i % t.fuse ≠ 0 ∨ cs.length ≠ t.fuse ∨ (ds.zip cs).any fun e => e.1.core == e.2 || s.reserved.contains e.2 then s
        else (s.placeReplays slot t (ws.zip cs)).getD s

/-- AUDIT_REPLAY (R221). -/
def execAuditReplay (slot wgid core : Nat) (s : State) : Out :=
  event (decide (core ≤ 63)) s fun s => if s.clocked then s.auditStep slot wgid core else s

end Sys2Proof.Machine
end

