-- ==== Sys2Proof/Machine/Retire.lean ====
section
/-! DEFINITION. Retirement (R149, R191, R192, R210, R211, R213, R246): the supervisor's steps from a task's last workgroup, or
its end by a cause, to its free slot. -/

namespace Sys2Proof.Machine

/-- The runs of a slot, as workgroups, discarded ones among them. -/
def State.runsOfSlot (s : State) (slot : Nat) : List Nat :=
  (s.wgs.zipIdx.filter fun e => e.1.slot == slot).map fun e => e.2

/-- Whether every workgroup of a task has been placed and has ended. -/
def State.allEnded (s : State) (slot : Nat) (t : Task) : Bool :=
  t.dispatched && decide (t.rcd.wgcount ≤ t.nextWg) && t.ahead.isEmpty && (s.liveRuns slot t.sub).isEmpty

/-- Whether every audit has finished (R221). -/
def Task.auditsDone (t : Task) : Bool :=
  t.rcd.integ != 1 || t.digests.all fun d => d.mode != .primary || t.audited.contains d.wgid

/-- A task begins to retire (R192, R245, R246): its remaining workgroups end, levels that no rollback needs go. -/
def State.beginRetire (s : State) (slot : Nat) (t : Task) (e : Option EndInfo) : State :=
  let s1 := (s.liveRuns slot t.sub).foldl (fun (s : State) x => s.endRun x.1) s
  let back := e.isSome && decide (2 ≤ t.rcd.integ) && t.rcd.lehr != 0
  let s2 := if back then s1 else s1.removeLevels slot fun _ => true
  s2.updTask slot fun t => { t with st := .retiring, retireStep := 1, endInfo := e }

/-- Write back the regions of a task's runs (R192 step 2); none while one waits. -/
def State.retireRegions (s : State) (t : Task) : List Nat → Option State
  | [] => some s
  | w :: ws =>
    match s.wg? w with
    | some g =>
      match s.writeBackRegions w g t (s.regions.filter fun r => r.creator == w) with
      | some s1 => s1.retireRegions t ws
      | none => none
    | none => s.retireRegions t ws

/-- Whether every write of a task's runs has been performed (R149), at the scope that its tenant may have (R144, R194): those to dead
chips are lost (R151). -/
def State.released (s : State) (slot tenant : Nat) : Bool :=
  let far := s.runScope tenant 4 == 4
  (s.runsOfSlot slot).all fun w =>
    (s.trainsOf w).all (fun e => e.2.sb.all fun x => s.destDead x.dest || (!far && destIsChip x.dest && x.stage == .sent)) &&
    s.resp.all fun r => r.w != w || s.destDead (.chip (chipOf r.pa)) || !far

/-- Step 3 of R192: the rollback of R213, or the recorded sums (R215). -/
def State.retireSums (s : State) (slot : Nat) (t : Task) : State :=
  let s1 := if t.endInfo.isSome && decide (2 ≤ t.rcd.integ) && t.rcd.lehr != 0 then
      let (s2, broken) := State.rejectAll (s.dropSums s.chipId slot) slot
      if broken then s2.updTask slot fun t => { t with endInfo := t.endInfo.map fun e => { e with cause := .logOverflow } }
      else s2
    else s.applySums slot
  s1.updTask slot fun t => { t with retireStep := 3 }

/-- Cores whose ACOWN names a context of a task that retires (R408). -/
def State.dropOwners (s : State) (slot : Nat) (t : Task) : State :=
  let mine := fun (n : BitVec 16) => s.wgs.any fun g => g.slot == slot && g.sub == t.sub && g.ctx == n
  { s with cores := Cells.mapVals (fun (c : Core) => if c.valid && mine c.owner then { c with valid := false, live := 0 } else c) s.cores }

/-- The task digest (R218) over workgroups and their digests. -/
def taskDigest (seed : W64) (ds : List (Nat × W64)) : W64 :=
  (sortNat (ds.map fun d => d.1)).foldl (fun d w => match ds.find? fun e => e.1 == w with
    | some e => fold d (BitVec.ofNat 64 w) e.2
    | none => d) seed

/-- DIGEST of a completion record (R211, R218). -/
def Task.digestField (t : Task) : W64 :=
  if t.rcd.integ ≠ 2 then 0
  else taskDigest t.rcd.seed (if t.endInfo.isSome ∧ t.rcd.lehr ≠ 0 then t.kept else t.kept ++ t.keptNow)

/-- The payload of a completion record of TYPE 1 or 4 (R211). -/
def Task.completion (t : Task) (slot : Nat) : List Byte :=
  let e := t.endInfo.getD ⟨.illegal, 0, 0, 0, 0⟩
  toBytes (taskTag slot t.sub).toNat 4 ++ toBytes (t.closed + t.interval.length) 4 ++ toBytes t.digestField.toNat 8
    ++ toBytes e.pc.toNat 8 ++ toBytes e.addr.toNat 8 ++ toBytes e.wgid 4 ++ toBytes e.j 4

/-- Steps 5 and 6 of R192: the leases end, the record is on its way. -/
def State.retirePost (s : State) (slot : Nat) (t : Task) : State :=
  let s1 := (s.dropOwners slot t).endLeases slot t
  let type := if t.endInfo.isSome then 4 else 1
  let cause := match t.endInfo with
    | some e => e.cause.code
    | none => 0
  (s1.post slot t type cause (t.completion slot) none).updTask slot fun t => { t with retireStep := 4 }

/-- An edge of a dependent clears (R190, R191): a task that ended by a trap or was cancelled holds it. -/
def Task.clearEdge (x : Task) (sub : Nat) (held : Bool) : Task :=
  if !x.edges.contains sub then x
  else
    let y := { x with edges := x.edges.filter fun n => n != sub }
    if x.st != .edged then y
    else if held then { y with st := .held }
    else if y.edges.isEmpty then y.onward
    else y

/-- Step 7 of R192: the edges clear and the slot is free. -/
def State.freeSlot (s : State) (slot : Nat) (t : Task) : State :=
  let ws := s.runsOfSlot slot
  { s with
    tasks := Cells.mapVals (fun x => x.clearEdge t.sub t.endInfo.isSome) (s.tasks.del slot)
    trains := s.trains.filter fun e => !ws.contains (e.1 / 64)
    regions := s.regions.filter fun r => !ws.contains r.creator }

/-- Whether a task's own completion record still waits to be posted. -/
def State.posting (s : State) (slot sub : Nat) : Bool :=
  s.posts.any fun p => p.slot == slot && p.sub == sub && (p.type == 1 || p.type == 4)

/-- A step of a task's retirement (R192). DEDUCED: notes/assumptions/63.md. -/
def State.retireAdvance (s : State) (slot : Nat) : State :=
  match s.task? slot with
  | none => s
  | some t =>
    if t.retireStep = 0 then
      if t.endInfo.isSome then s.beginRetire slot t t.endInfo
      else if !s.allEnded slot t then s
      else if t.firstEnd.isSome then s.beginRetire slot t t.firstEnd
      else if !t.auditsDone || !(s.shadowUnits slot t).isEmpty then s
      else
        match t.disagree with
        | some (a, b) => s.mismatch slot a.wgid .digest (clusterOf a.core) (clusterOf b.core)
        | none => s.beginRetire slot t none
    else if t.retireStep = 1 then
      match s.retireRegions t (s.runsOfSlot slot) with
      | some s1 => s1.updTask slot fun t => { t with retireStep := 2 }
      | none => s.askPulls ((s.runsOfSlot slot).flatMap fun w => match s.wg? w with
        | some g => s.regionPulls w g t
        | none => [])
    else if t.retireStep = 2 then (if s.released slot t.rcd.tenant then s.retireSums slot t else s)
    else if t.retireStep = 3 then s.retirePost slot t
    else if s.posting slot t.sub then s
    else s.freeSlot slot t

/-- TASK_RETIRE (R192). -/
def execTaskRetire (slot : Nat) (s : State) : Out := event true s fun s => if s.clocked then s.retireAdvance slot else s

end Sys2Proof.Machine
end

