-- ==== Sys2Proof/Machine/Pages.lean ====
section
/-! DEFINITION. Host commands that change pages (R176, R180 to R182, R252): what each writes, and the splitting of large
pages. -/

namespace Sys2Proof.Machine

/-- The pages of a command. -/
def PageCmd.pages (c : PageCmd) : List Nat := (List.range (c.len / 4096)).map fun i => c.va / 4096 + i

/-- The frame to which a migration moves a page. -/
def PageCmd.destFrame (c : PageCmd) (page : Nat) : Nat := leafFrame c.leaf + (page - c.va / 4096)

/-- The new leaf of a migration, and its range of frames, are not ones that a table may hold (R169, R170). -/
def PageCmd.leafBad (c : PageCmd) (chip : Nat) : Bool :=
  !leafV c.leaf || entryMalformed chip 0 c.leaf false || decide (Config.chipEnd < offOf (leafFrame c.leaf * 4096) + c.len)

/-- Whether a command's address, length or new leaf is one it does not accept (R252; DESIGN CHOICE, notes/assumptions/12.md). -/
def PageCmd.bad (c : PageCmd) (chip : Nat) : Bool :=
  c.len == 0 || !aligned c.len 4096 || !aligned c.va 4096 || decide (2 ^ 48 < c.va + c.len) ||
    (c.op == .migrate && c.leafBad chip)

/-- Whether a migration would move a page into the metadata region (R127). -/
def PageCmd.toMetadata (c : PageCmd) : Bool :=
  c.op == .migrate && decide (Config.metaBase < offOf (leafFrame c.leaf * 4096) + c.len)

/-- Whether every page of a command has a leaf. -/
def State.allMapped (s : State) (c : PageCmd) : Bool :=
  c.pages.all fun p => (s.leafEntry c.frame.tenant (p * 4096)).isSome

/-- Whether no lease pins a frame that a command touches (R176). -/
def State.pinsClear (s : State) (c : PageCmd) : Bool :=
  let fs := s.commandFrames c
  s.attrs.all fun e => e.2.pins == 0 || !inFrames fs e.1

/-- The first large page that a command changes in part, or that a migration cannot move whole: its leaf's place, level
and value (R180). -/
def State.toSplit (s : State) (c : PageCmd) : Option (Nat × Nat × W64) :=
  c.pages.findSome? fun p => match s.leafEntry c.frame.tenant (p * 4096) with
    | some (off, lv, e) =>
      if lv ≠ 0 ∧ (!c.coversLeaf lv p || (c.op == .migrate && c.destFrame (p / 512 ^ lv * 512 ^ lv) % 512 ^ lv != 0))
      then some (off, lv, e) else none
    | none => none

/-- Whether a leaf or a non-leaf entry that serves the pages from `page` at a level serves a page of a command. -/
def PageCmd.meets (c : PageCmd) (page level : Nat) : Bool := c.pages.any fun p => pageCovers page level (p * 4096)

/-- Translations of pages of a command leave every core and the walk cache (R180 step 6). -/
def State.dropTranslations (s : State) (c : PageCmd) : State :=
  { s with
    walks := s.walks.filter fun x => !(x.tenant == c.frame.tenant && c.meets x.page x.level)
    cores := Cells.mapVals (fun (k : Core) => { k with
    tc := k.tc.filter fun x => !(x.tenant == c.frame.tenant && c.meets x.page x.level) }) s.cores }

/-- Entry `i` of the table that takes the place of a large leaf (R180 step 3). -/
def splitEntry (e : W64) (lv i : Nat) : W64 := e + BitVec.ofNat 64 (i * 512 ^ (lv - 1) * 4096)

/-- Write the table of a split page into a frame, and then its parent entry (R180). -/
def State.splitLeaf (s : State) (off lv : Nat) (e : W64) (table : Nat) : State :=
  let bs := (List.range 512).flatMap fun i => toBytes (splitEntry e lv i).toNat 8
  (s.writeHome (homeBytesAt (offOf (table * 4096)) bs) .other false).writeEntry off (BitVec.ofNat 64 (1 + table * 4096))

/-- Split every large page that a command changes in part; none if the table pool is empty (R180). DESIGN CHOICE:
notes/assumptions/8.md. -/
def State.splitFor (c : PageCmd) : Nat → State → Option State
  | 0, s => some s
  | n + 1, s =>
    match s.toSplit c with
    | none => some s
    | some (off, lv, e) =>
      match s.tablePool with
      | [] => none
      | f :: fs => State.splitFor c n (({ s with tablePool := fs }).splitLeaf off lv e f)

/-- What a command writes in place of a leaf that begins at a page. -/
def PageCmd.newEntry (c : PageCmd) (page : Nat) (e : W64) : W64 :=
  match c.op with
  | .unmap => 0
  | .protect => (e &&& ~~~0x3C#64) ||| (c.leaf &&& 0x3C#64)
  | .discard => e ||| 0x40#64
  | .migrate => (c.leaf &&& 0x3F#64) ||| (e &&& 0x40#64) ||| BitVec.ofNat 64 (c.destFrame page * 4096)

/-- Set the POLICY of frames outside the metadata region (R171, R176). -/
def State.setPolicy (s : State) (frame n pol : Nat) : State :=
  (List.range n).foldl (fun (s : State) i =>
    if inMetadata (offOf ((frame + i) * 4096)) then s
    else s.setAttr (frame + i) { s.attrOf (frame + i) with policy := pol }) s

/-- The destination frames of a migration wait for their lines (R182 step 1); a discarded page has none. -/
def State.startPulls (s : State) (dst src n : Nat) (disc : Bool) : State :=
  (List.range n).foldl (fun (s : State) i =>
    if s.isLocal ((dst + i) * 4096) && !disc then
      s.setAttr (dst + i) { s.attrOf (dst + i) with pull := true, lost := false, pulled := 0, srcframe := src + i }
    else s) s

/-- A command changes the leaf that begins at a page, if one does; its frame's attributes first (R176, R182). -/
def State.changePage (s : State) (c : PageCmd) (page : Nat) : State :=
  match s.leafEntry c.frame.tenant (page * 4096) with
  | some (off, lv, e) =>
    if page % 512 ^ lv ≠ 0 then s
    else
      let s1 := match c.op with
        | .protect => s.setPolicy (leafFrame e) (512 ^ lv) (leafPol c.leaf)
        | .migrate => (s.setPolicy (c.destFrame page) (512 ^ lv) (leafPol c.leaf)).startPulls (c.destFrame page) (leafFrame e)
            (512 ^ lv) (leafDisc e)
        | _ => s
      s1.writeEntry off (c.newEntry page e)
  | none => s

/-- A command takes effect. -/
def State.changePages (s : State) (c : PageCmd) : State :=
  (c.pages.foldl (fun (s : State) p => s.changePage c p) s).dropTranslations c

/-- The frame engine's turn at a PAGE command: the state, and its STATUS unless it waits. DEDUCED:
notes/assumptions/43.md. -/
def State.servePage (s : State) (c : PageCmd) : State × Option Nat :=
  if c.bad s.chipId then (s, some 1)
  else if c.toMetadata || (c.op != .unmap && !s.allMapped c) then (s, some 3)
  else if !s.pinsClear c || (s.toSplit c).isSome then (s, none)
  else (s.changePages c, some 0)

/-- Whether the walker may split pages for the command that waits (R180). DEDUCED: notes/assumptions/44.md. -/
def State.canSplit (s : State) (c : PageCmd) : Bool :=
  !c.bad s.chipId && !c.toMetadata && (c.op == .unmap || s.allMapped c) && s.pinsClear c && (s.toSplit c).isSome

end Sys2Proof.Machine
end

