-- ==== Sys2Proof/Machine/Power.lean ====
section
/-! DEFINITION. Pairing (R233), power states and gating (R19, R258), the shrinking of a partition (R201): each asks for the
pre-emption it needs and is done once nothing is resident. -/

namespace Sys2Proof.Machine

/-- The runs on cores for which `f` holds. -/
def State.runsWhere (s : State) (f : Nat → Bool) : List Nat :=
  (s.wgs.zipIdx.filter fun e => match e.1.core? with
    | some c => f c
    | none => false).map fun e => e.2

/-- Ask that runs be pre-empted, each with all that is pre-empted with it (R204). -/
def State.askAll (s : State) (ws : List Nat) : State := s.ask (ws.flatMap s.withUnit)

/-- The cores of a pair. -/
def inPair (p core : Nat) : Bool := clusterOf core / 2 == p

/-- Whether every write of the contexts that were saved from a pair's cores is acknowledged (R233 step 2). -/
def State.pairReleased (s : State) (p : Nat) : Bool :=
  s.wgs.zipIdx.all fun e => match e.1.place with
    | .saved c => !inPair p c || s.settled e.2
    | _ => true

/-- Steps 2 to 4 of R233 once a pair is drained. -/
def State.setPair (s : State) (p : Nat) (on : Bool) : State :=
  let s1 := (List.range 8).foldl (fun (s : State) i => s.l1Flush (8 * p + i)) s
  let s2 := { s1 with paired := if on then s1.paired ||| (1#8 <<< p) else s1.paired &&& ~~~(1#8 <<< p) }
  if on then
    s2.tasks.foldl (fun (s : State) e =>
      if e.2.st == .ready && e.2.rcd.integ == 3 && (s.partCores e.2.rcd.part).any (inPair p) then s.openLevel0 e.1 e.2 else s) s2
  else s2

/-- The frame engine's turn at a PAIR command: the state, and its STATUS unless it waits. -/
def State.servePair (s : State) (f : Frame) : State × Option Nat :=
  let p := f.addr.toNat
  let on := f.value64 == 1
  let off := f.value64 == 0
  let unfit := fun (k : Nat) => s.gated.getLsbD k || s.faulty.getLsbD k
  if 7 < p ∨ !(on || off) then (s, some 1)
  else if on && (unfit (2 * p) || unfit (2 * p + 1)) then (s, some 3)
  else
    let ws := s.runsWhere (inPair p)
    if !ws.isEmpty then (s.askAll ws, none)
    else if !s.pairReleased p then (s, none)
    else (s.setPair p on, some 0)

/-- Everything is lost but what lies outside the chip (R258 OFF, R259). -/
def State.lose (s : State) (p : Power) : State :=
  { State.reset with
    power := p, pinChipId := s.pinChipId, pinHostPort := s.pinHostPort, clock := s.clock, supClock := s.supClock
    agenda := s.agenda, free := s.free, nextId := s.nextId, out := s.out }

/-- Whether clusters of a mask belong to a checked pair that runs work (R258). -/
def State.pairBusy (s : State) (m : BitVec 16) : Bool :=
  (List.range 8).any fun p => s.paired.getLsbD p && (m.getLsbD (2 * p) || m.getLsbD (2 * p + 1)) &&
    !(s.runsWhere (inPair p)).isEmpty

/-- Gate clusters once nothing is resident on them (R19, R258). -/
def State.gate (s : State) (m : BitVec 16) : State × Option Nat :=
  if s.pairBusy m then (s, some 3)
  else
    let ws := s.runsWhere fun c => m.getLsbD (clusterOf c)
    if !ws.isEmpty then (s.askAll ws, none) else ({ s with gated := s.gated ||| m }, some 0)

/-- Every context is pre-empted and saved (R258); then the power state changes. -/
def State.holdWork (s : State) (p : Power) : State × Option Nat :=
  let ws := s.runsWhere fun _ => true
  if !ws.isEmpty then (s.askAll ws, none) else ({ s with power := p }, some 0)

/-- The frame engine's turn at a POWER command: the state, and its STATUS unless it waits. OFF takes the supplies after
the response. DEDUCED: notes/assumptions/42.md. -/
def State.servePower (s : State) (f : Frame) : State × Option Nat :=
  let code := powerCode f
  if 5 < code ∨ f.byte 1 ≠ 0 ∨ f.num 4 4 ≠ 0 then (s, some 1)
  else if code = 0 then ({ s with power := .run }, some 0)
  else if code = 1 then ({ s with power := .runLow }, some 0)
  else if code = 2 then s.holdWork .hold
  else if code = 3 then s.holdWork .off
  else if s.power = .hold then (s, some 3)
  else if code = 4 then s.gate (clusterMask f)
  else ({ s with gated := s.gated &&& ~~~(clusterMask f) }, some 0)

end Sys2Proof.Machine
end

