-- ==== Sys2Proof/Machine/Sm.lean ====
section
/-! DEFINITION. SM3 (GB/T 32905) and SM2 signatures (GB/T 32918) of the attestation report (R257). The standards give both; R257
only names them. PRESUMED: notes/assumptions/41.md. -/

namespace Sys2Proof.Machine

/-! ### SM3 -/

/-- The number whose bytes are given, the first one highest. -/
def bigEndian (bs : List Byte) : Nat := bs.foldl (fun n b => 256 * n + b.toNat) 0

/-- The low `n` bytes of a number, the highest first. -/
def bigBytes (n x : Nat) : List Byte := (List.range n).map fun i => BitVec.ofNat 8 (x / 256 ^ (n - 1 - i))

/-- The initial value of SM3. -/
def sm3Init : List W32 :=
  [0x7380166F, 0x4914B2B9, 0x172442D7, 0xDA8A0600, 0xA96F30BC, 0x163138AA, 0xE38DEE4D, 0xB0FB0E4E]

/-- The permutation P1 of the message expansion. -/
def sm3P1 (x : W32) : W32 := x ^^^ x.rotateLeft 15 ^^^ x.rotateLeft 23

/-- The message expansion: `n` further words after those given. -/
def sm3Expand : Nat → List W32 → List W32
  | 0, ws => ws
  | n + 1, ws =>
    let w := fun k => ws.getD (ws.length - k) 0
    sm3Expand n (ws ++ [sm3P1 (w 16 ^^^ w 9 ^^^ (w 3).rotateLeft 15) ^^^ (w 13).rotateLeft 7 ^^^ w 6])

/-- Round `j` of the compression function. -/
def sm3Round (ws : List W32) (v : List W32) (j : Nat) : List W32 :=
  match v with
  | [a, b, c, d, e, f, g, h] =>
    let t : W32 := if j < 16 then 0x79CC4519 else 0x7A879D8A
    let ss1 := (a.rotateLeft 12 + e + t.rotateLeft (j % 32)).rotateLeft 7
    let ss2 := ss1 ^^^ a.rotateLeft 12
    let ff := if j < 16 then a ^^^ b ^^^ c else (a &&& b) ||| (a &&& c) ||| (b &&& c)
    let gg := if j < 16 then e ^^^ f ^^^ g else (e &&& f) ||| (~~~e &&& g)
    let tt1 := ff + d + ss2 + (ws.getD j 0 ^^^ ws.getD (j + 4) 0)
    let tt2 := gg + h + ss1 + ws.getD j 0
    [tt1, a, b.rotateLeft 9, c, tt2 ^^^ tt2.rotateLeft 9 ^^^ tt2.rotateLeft 17, e, f.rotateLeft 19, g]
  | _ => v

/-- The compression function on a block of 64 bytes. -/
def sm3Block (v : List W32) (bs : List Byte) : List W32 :=
  let ws := sm3Expand 52 ((List.range 16).map fun i => BitVec.ofNat 32 (bigEndian ((bs.drop (4 * i)).take 4)))
  List.zipWith (fun x y => x ^^^ y) ((List.range 64).foldl (sm3Round ws) v) v

/-- The padded message. -/
def sm3Pad (bs : List Byte) : List Byte :=
  bs ++ [0x80] ++ List.replicate ((119 - bs.length % 64) % 64) 0 ++ bigBytes 8 (8 * bs.length)

/-- The SM3 hash of a message: 32 bytes. -/
def sm3 (bs : List Byte) : List Byte :=
  let m := sm3Pad bs
  ((List.range (m.length / 64)).foldl (fun v i => sm3Block v ((m.drop (64 * i)).take 64)) sm3Init).flatMap fun w => bigBytes 4 w.toNat

/-! ### SM2 -/

/-- The prime of the recommended curve. -/
def sm2P : Nat := 0xFFFFFFFEFFFFFFFFFFFFFFFFFFFFFFFFFFFFFFFF00000000FFFFFFFFFFFFFFFF

/-- The order of its base point. -/
def sm2N : Nat := 0xFFFFFFFEFFFFFFFFFFFFFFFFFFFFFFFF7203DF6B21C6052B53BBF40939D54123

/-- The coefficient b; a is -3. -/
def sm2B : Nat := 0x28E9FA9E9D9F5E344D5A9E4BCF6509A7F39789F515AB8F92DDBCBD414D940E93

/-- Its base point. -/
def sm2G : Nat × Nat :=
  (0x32C4AE2C1F1981195F9904466A39C9948FE30BBFF2660BE1715A4589334C74C7,
    0xBC3736A2F4F6779C59BDCEE36B692153D0A9877CC62A474002DF32E52139F0A0)

/-- A power modulo `m`, of the exponent's low bits. -/
def powMod (m : Nat) : Nat → Nat → Nat → Nat
  | 0, _, _ => 1
  | k + 1, b, e => (if e % 2 = 1 then b else 1) * powMod m k (b * b % m) (e / 2) % m

/-- The inverse modulo a prime below 2^256. -/
def invMod (m x : Nat) : Nat := powMod m 256 (x % m) (m - 2)

/-- The point of a slope through two points of the curve. -/
def sm2Line (l : Nat) (p q : Nat × Nat) : Nat × Nat :=
  let x := (l * l + 2 * sm2P - p.1 - q.1) % sm2P
  (x, (l * (p.1 + sm2P - x) + sm2P - p.2) % sm2P)

/-- The sum of two points; none is the point at infinity. -/
def sm2Add : Option (Nat × Nat) → Option (Nat × Nat) → Option (Nat × Nat)
  | none, q => q
  | p, none => p
  | some p, some q =>
    if p.1 = q.1 then
      if p.2 = q.2 ∧ p.2 ≠ 0 then some (sm2Line ((3 * p.1 * p.1 + sm2P - 3) * invMod sm2P (2 * p.2) % sm2P) p q) else none
    else some (sm2Line ((q.2 + sm2P - p.2) * invMod sm2P (q.1 + sm2P - p.1) % sm2P) p q)

/-- A multiple of a point, of the factor's low bits. -/
def sm2Mul : Nat → Nat → Option (Nat × Nat) → Option (Nat × Nat)
  | 0, _, _ => none
  | k + 1, n, p => sm2Add (if n % 2 = 1 then p else none) (sm2Mul k (n / 2) (sm2Add p p))

/-- The public key of a private key. -/
def sm2Public (d : Nat) : Nat × Nat := (sm2Mul 256 d (some sm2G)).getD (0, 0)

/-- The two coordinates of a public key, x then y. -/
def sm2KeyBytes (d : Nat) : List Byte := bigBytes 32 (sm2Public d).1 ++ bigBytes 32 (sm2Public d).2

/-- The hash of the signer's identity, with the standard's default name, of the curve and of the key. -/
def sm2Identity (d : Nat) : List Byte :=
  sm3 (bigBytes 2 128 ++ [0x31, 0x32, 0x33, 0x34, 0x35, 0x36, 0x37, 0x38, 0x31, 0x32, 0x33, 0x34, 0x35, 0x36, 0x37, 0x38] ++
    bigBytes 32 (sm2P - 3) ++ bigBytes 32 sm2B ++ bigBytes 32 sm2G.1 ++ bigBytes 32 sm2G.2 ++ sm2KeyBytes d)

/-- The SM2 signature of a message with SM3 under a private key and a random number: r, then s. -/
def sm2Sign (d k : Nat) (m : List Byte) : List Byte :=
  let e := bigEndian (sm3 (sm2Identity d ++ m))
  let r := (e + (sm2Public k).1) % sm2N
  let s := invMod sm2N (1 + d) * (k % sm2N + sm2N * sm2N - r * (d % sm2N)) % sm2N
  bigBytes 32 r ++ bigBytes 32 s

end Sys2Proof.Machine
end

