-- ==== Sys2Proof/Machine/Host.lean ====
section
/-! DEFINITION. The frame engine: requests of the host, their checks, their order and their responses (R251 to R254, R257), and
the commands WRITE, READ, SUBMIT, CANCEL, RETRY, CFGW, CFGR, PAGE, PAIR, POWER, REPAIR, ATTEST. -/

namespace Sys2Proof.Machine

/-! ### Requests -/

/-- A request's command code (R252). -/
def HostReq.cmd (q : HostReq) : Nat :=
  match q.op with
  | .write => 0x01
  | .read => 0x02
  | .submit => 0x03
  | .cancel => 0x04
  | .retry => 0x05
  | .cfgw => 0x06
  | .cfgr => 0x07
  | .page => 0x08
  | .pair => 0x09
  | .power => 0x0A
  | .repair => 0x0B
  | .attest => 0x0C
  | .unknown c => c % 256

/-- Commands that carry data (R252). -/
def carriesData (cmd : Nat) : Bool := [0x01, 0x03, 0x06, 0x08, 0x09, 0x0A, 0x0B, 0x0C].contains cmd

/-- The bytes of a value that travels in one sector (R251). -/
def valueBytes (cmd : Nat) : Option Nat :=
  if cmd = 0x08 then some 16 else if [0x06, 0x09, 0x0A, 0x0B].contains cmd then some 8 else none

/-- Commands that are accepted only on a HOSTPORT port (R252, column P). -/
def hostPortOnly (cmd : Nat) : Bool := [0x01, 0x02, 0x06, 0x07, 0x08, 0x09, 0x0A, 0x0B].contains cmd

/-- Whether a request of a known command is malformed (R4, R251, R252). -/
def frameMalformed (f : Frame) (cmd : Nat) : Bool :=
  f.rsv != 0 || f.len % 32 != 0 || decide (8192 < f.len) ||
  (if carriesData cmd then
    f.chkn != f.len / 32 || f.data.length != f.len || f.chk.length != f.chkn || f.chk.any fun x => decide (2 ^ 14 ≤ x)
  else f.chkn != 0 || f.data.length != 0) ||
  ([0x04, 0x05, 0x07].contains cmd && f.len != 0) ||
  (match valueBytes cmd with
    | some n => f.len != 32 || (f.data.drop n).any fun b => b != 0
    | none => false) ||
  (cmd == 0x03 && f.len != 512) || (cmd == 0x0C && f.len != 32)

/-- Sector `i` of a frame's data. -/
def frameSector (f : Frame) (i : Nat) : List Byte := (f.data.drop (32 * i)).take 32

/-- Whether sector `i` fails its check at ingress (R126, R251). -/
def sectorFails (f : Frame) (i : Nat) : Bool := (checkValue (frameSector f i)).toNat != f.chk.getD i 0

/-- Whether any sector fails. -/
def anyFails (f : Frame) : Bool := (List.range (f.len / 32)).any (sectorFails f)

/-- Commands that the chip takes in HOLD (R258). -/
def inHoldOk (cmd : Nat) : Bool := [0x07, 0x0A, 0x0C].contains cmd

/-- The STATUS with which a request is refused before it acts, if it is (R251 to R253, R258; DEDUCED, notes/assumptions/40.md). -/
def State.refusal (s : State) (f : Frame) (cmd : Nat) : Option Nat :=
  if f.ver ≠ 1 then some 5
  else if s.power = .hold ∧ !inHoldOk cmd then some 4
  else if cmd = 0 ∨ 0x0C < cmd then some 5
  else if frameMalformed f cmd then some 1
  else if hostPortOnly cmd ∧ !s.hostPort.getLsbD f.port then some 3
  else if cmd ≠ 0x01 ∧ carriesData cmd ∧ anyFails f then some 2
  else none

/-- Send a response (R251, R252): bit 15 of the header is set, and SEQ copied. -/
def State.respondTo (s : State) (f : Frame) (cmd status : Nat) (addr : W64) (data : List Byte) : State :=
  s.emit ⟨f.port, if cmd < 0x80 then cmd + 0x80 else cmd, f.tenant, f.seq, addr, status, data, 0⟩

/-! ### WRITE and READ -/

/-- Whether a range of chip offsets is malformed, or not permitted (R252); an empty one touches nothing. -/
def rangeStatus (a n : Nat) : Option Nat :=
  if !aligned a 32 || decide (Config.chipEnd < a + n) then some 1
  else if n ≠ 0 ∧ Config.metaBase < a + n then some 3
  else none

/-- Whether a line of a range waits for its pull (R182). -/
def State.rangeWaits (s : State) (a n : Nat) : Bool :=
  (List.range ((a + n + 127) / 128 - a / 128)).any fun i => s.pullPending (s.boxPa ((a / 128 + i) * 128))

/-- WRITE (R252): whole sectors at their homes, a failing one poisoned. -/
def State.hostWrite (s : State) (f : Frame) : State × Nat :=
  match rangeStatus f.addr.toNat f.len with
  | some n => (s, n)
  | none =>
    ((List.range (f.len / 32)).foldl (fun (s : State) i =>
      s.writeHome (homeBytesAt (f.addr.toNat + 32 * i) (frameSector f i)) .other (sectorFails f i)) s,
      if anyFails f then 2 else 0)

/-- READ (R252): a poisoned sector reads as zeros. -/
def State.hostRead (s : State) (f : Frame) : List Byte × Nat :=
  match rangeStatus f.addr.toNat f.len with
  | some n => ([], n)
  | none =>
    ((List.range (f.len / 32)).flatMap fun i =>
      if s.poisonAt (f.addr.toNat + 32 * i) then List.replicate 32 0 else s.homeBytes (f.addr.toNat + 32 * i) 32,
      if s.anyPoison f.addr.toNat f.len && f.len != 0 then 6 else 0)

/-- Whether a request is a WRITE of a port. -/
def isWriteOf (port : Nat) (q : HostReq) : Bool := q.op == .write && q.frame.port == port

/-- Whether a request is a WRITE or a READ of a port. -/
def isDataOf (port : Nat) (q : HostReq) : Bool := (q.op == .write || q.op == .read) && q.frame.port == port

/-- Whether a WRITE or READ that no refusal meets may be performed now (R182). -/
def State.dataWaits (s : State) (f : Frame) (cmd : Nat) : Bool :=
  (s.refusal f cmd).isNone && (rangeStatus f.addr.toNat f.len).isNone && s.rangeWaits f.addr.toNat f.len

/-- The first WRITE or READ that may be performed: the earliest of its port, waiting for no line (R253). -/
def State.dataReady (s : State) : Option Nat :=
  firstFrom (fun k => match s.hostQ[k]? with
    | some q => isDataOf q.frame.port q && !((s.hostQ.take k).any (isDataOf q.frame.port)) && !s.dataWaits q.frame q.cmd
    | none => false) s.hostQ.length 0

/-- Perform a WRITE or READ and answer it. -/
def State.serveData (s : State) (q : HostReq) : State :=
  match s.refusal q.frame q.cmd with
  | some n => s.respondTo q.frame q.cmd n q.frame.addr []
  | none =>
    if q.op = .write then
      let (s1, n) := s.hostWrite q.frame
      s1.respondTo q.frame q.cmd n q.frame.addr []
    else
      let (bs, n) := s.hostRead q.frame
      s.respondTo q.frame q.cmd n q.frame.addr bs

/-! ### Tasks -/

/-- SUBMIT (R252, R188, R419): the STATUS and the tag. -/
def State.hostSubmit (s : State) (f : Frame) : State × Nat × W64 :=
  let r := Record.parse f.data
  if r.tenant ≠ f.tenant then (s, 3, 0)
  else if s.recordBad f.data then (s, 1, 0)
  else
    let (tag, s1) := s.submitTask r 0 (some f.port)
    if tag = 0 then (s, 4, 0) else (s1, 0, tag)

/-- CANCEL (R252, R246): the task ends with LEASE, in any state before Retired. DEDUCED: notes/assumptions/46.md. -/
def State.hostCancel (s : State) (f : Frame) : State × Nat :=
  match s.tagged f.addr with
  | some (slot, t) =>
    if t.st = .retiring ∨ t.st = .retired then (s, 3)
    else ((s.endTask slot ⟨.lease, 0, 0, 0, 0⟩).updTask slot fun t => { t with canceled := true }, 0)
  | none => (s, 3)

/-- RETRY (R252): Waiting to Resolving, Held onward. -/
def State.hostRetry (s : State) (f : Frame) : State × Nat :=
  match s.tagged f.addr with
  | some (slot, t) =>
    if t.endInfo.isSome then (s, 3)
    else if t.st = .waiting then (s.setTask slot { t with st := .resolving }, 0)
    else if t.st = .held then (s.setTask slot t.onward, 0)
    else (s, 3)
  | none => (s, 3)

/-! ### Configuration registers -/

/-- Whether a selector names a register of R254. -/
def selectorOk (f : Frame) : Bool :=
  let i := f.cfgIndex
  let j := f.cfgSub
  bitsAt f.addr.toNat 24 40 == 0 &&
  match f.cfgClass with
  | 1 => decide (i ≤ 31) && decide (j ≤ 15)
  | 2 => decide (i ≤ 15) && j == 0
  | 3 => decide (i ≤ 15) && decide (j ≤ 1)
  | 4 => decide (i ≤ 15) && j == 0
  | 5 => decide (i ≤ 15) && decide (j ≤ 3)
  | 6 => decide (i ≤ 80) && j == 0
  | 7 => i == 0 && j == 0
  | 8 => decide (i ≤ 15) && j == 0
  | 9 => i == 0 && j == 0
  | 10 => decide (i ≤ 1) && decide (j ≤ 7)
  | _ => false

/-- Lines that a tenant allocated in ways of a mask at a slice (R123). -/
def State.linesIn (s : State) (slice tenant : Nat) (ways : BitVec 16) : List L2Line :=
  s.l2.filter fun l => l.tenant == tenant && homeSlice (offOf (l.line * 128)) == slice && ways.getLsbD l.way

/-- A removal ends when no line, guest lines among them, is left in its ways (R123). -/
def State.closeRemoval (s : State) (slice tenant : Nat) : State :=
  let m := s.wayMaskOf slice tenant
  if m.removed = 0 ∨ !(s.linesIn slice tenant m.removed).isEmpty then s
  else { s with wayMask := s.wayMask.store .reset (16 * slice + tenant) { m with busy := false, removed := 0 } }

/-- A new way mask (R122, R123): added ways at once, removed ones once they are empty. -/
def State.writeWayMask (s : State) (slice tenant : Nat) (x : Nat) : State :=
  let m := s.wayMaskOf slice tenant
  let ways := BitVec.ofNat 16 x
  let removed := (m.removed ||| (m.ways &&& ~~~ways)) &&& ~~~ways
  State.closeRemoval { s with wayMask := s.wayMask.store .reset (16 * slice + tenant) ⟨ways, removed != 0, removed⟩ } slice tenant

/-- A translation root (R168): refused where EN is 1 and TABLE names another chip. -/
def State.writeTroot (s : State) (tenant x : Nat) : Option State :=
  if bitsAt x 0 1 = 1 ∧ bitsAt x 42 2 ≠ s.chipId then none
  else some { s with troot := s.troot.store 0 tenant (BitVec.ofNat 64 (bitsAt x 0 1 + bitsAt x 12 32 * 2 ^ 12)) }

/-- Whether a core belongs to a partition with every other core of its fusion group (R193). -/
def fusionWhole (fusion : Nat) (cores : W64) : Bool :=
  let all := fun (g : List Nat) => g.all (fun c => cores.getLsbD c) || g.all fun c => !cores.getLsbD c
  (List.range 16).all fun k => match fusion with
    | 1 => all [4 * k, 4 * k + 1] && all [4 * k + 2, 4 * k + 3]
    | 2 => all [4 * k, 4 * k + 2] && all [4 * k + 1, 4 * k + 3]
    | 3 => all [4 * k, 4 * k + 1, 4 * k + 2, 4 * k + 3]
    | _ => true

/-- Whether a partition may take a new value (R193). -/
def State.partOk (s : State) (n : Nat) (p : Part) : Bool :=
  !p.word1.getLsbD 6 ||
    (fusionWhole (bitsAt p.word1.toNat 4 2) p.cores &&
      (List.range 16).all fun m => m == n || !(s.partOf m).word1.getLsbD 6 || ((s.partOf m).cores &&& p.cores) == 0)

/-- The value that a write gives a partition descriptor (R193). -/
def State.newPart (s : State) (f : Frame) : Part :=
  let p := s.partOf f.cfgIndex
  if f.cfgSub = 0 then { p with cores := BitVec.ofNat 64 f.value64 }
  else { p with word1 := BitVec.ofNat 64 (f.value64 % 2 ^ 32) &&& ~~~0x80#64 }

/-- The frame engine's turn at a partition descriptor (R193, R201): cores are removed once nothing runs on them.
DEDUCED: notes/assumptions/45.md. -/
def State.servePartition (s : State) (f : Frame) : State × Option Nat :=
  if !s.partOk f.cfgIndex (s.newPart f) then (s, some 3)
  else
    let gone := s.removedCores f
    let ws := s.runsWhere fun c => gone.getLsbD c
    if !ws.isEmpty then (s.askAll ws, none)
    else ({ s with parts := s.parts.store ⟨0, 0⟩ f.cfgIndex (s.newPart f) }, some 0)

/-- A word of a handler descriptor (R240): refused where a word is not legal or WLEN falls below 8,192 × FSLOTS. -/
def State.writeHdesc (s : State) (tenant word x : Nat) : Option State :=
  let h := s.hdesc.val ⟨0, 0, 0, 0⟩ tenant
  let bad := (word == 0 && (!aligned x 4 || x / 2 ^ 48 != 0)) || (word == 1 && !aligned x 4096) ||
    (word == 2 && !aligned (x % 2 ^ 40) 4096)
  let h' : HDesc := match word with
    | 0 => { h with vec := BitVec.ofNat 64 x }
    | 1 => { h with wbase := BitVec.ofNat 64 x }
    | 2 => { h with wlen := BitVec.ofNat 64 (x % 2 ^ 40) }
    | _ => { h with fslots := BitVec.ofNat 64 (x % 2 ^ 16) }
  if bad || decide (h'.wlen.toNat < 8192 * h'.fslots.toNat) then none
  else some { s with hdesc := s.hdesc.store ⟨0, 0, 0, 0⟩ tenant h' }

/-- A leaky bucket's register (R235): MARK and LEAK are written, EVT is cleared by 1, FILL is read only. -/
def State.writeBucket (s : State) (i x : Nat) : State :=
  let b := s.buckets.val .reset i
  let leaked := if b.leak = bitsAt x 32 16 then b.leaked else s.clock
  let b' := { b with mark := bitsAt x 16 16, leak := bitsAt x 32 16, evt := b.evt && bitsAt x 48 1 == 0, leaked := leaked }
  { s with buckets := s.buckets.store .reset i b' }

/-- PAIRCTL (R225, R254): only FAULTY bits may be cleared; a write that would do more is refused. -/
def State.writePairctl (s : State) (x : Nat) : Option State :=
  let faulty := BitVec.ofNat 16 (bitsAt x 16 16)
  if bitsAt x 0 8 ≠ s.paired.toNat ∨ faulty &&& ~~~s.faulty ≠ 0 then none else some { s with faulty := faulty }

/-- CFGW (R254): a register's new value; none where its own rules refuse the write, or it is read only. TENPOL (R194) and
a reduction context's owner (R256) have no behaviour of their own. -/
def State.writeConfig (s : State) (f : Frame) : Option State :=
  let i := f.cfgIndex
  let x := f.value64
  match f.cfgClass with
  | 1 => some (s.writeWayMask i f.cfgSub x)
  | 2 => s.writeTroot i x
  | 4 => some ({ s with tenpol := s.tenpol.store 0 i (BitVec.ofNat 64 (x % 2)) } : State)
  | 5 => s.writeHdesc i f.cfgSub x
  | 6 => some (s.writeBucket i x)
  | 7 => s.writePairctl x
  | 8 => some ({ s with redOwner := s.redOwner.store 0 i (BitVec.ofNat 16 (x % 32)) } : State)
  | _ => none

/-- The frame engine's turn at a CFGW (R254): a write that a register's own rules refuse, or to no register, changes
nothing. -/
def State.serveCfgw (s : State) (f : Frame) : State × Option Nat :=
  if !selectorOk f then (s, some 3)
  else if f.cfgClass = 3 then s.servePartition f
  else
    match s.writeConfig f with
    | some s1 => (s1, some 0)
    | none => (s, some 3)

/-- FILL, MARK, LEAK and EVT (R235). -/
def Bucket.value (b : Bucket) : Nat := b.fill + b.mark * 2 ^ 16 + b.leak * 2 ^ 32 + if b.evt then 2 ^ 48 else 0

/-- CFGR (R254): a register's value, none where the selector names none. -/
def State.readConfig (s : State) (f : Frame) : Option (W64 × State) :=
  let i := f.cfgIndex
  let j := f.cfgSub
  if !selectorOk f then none
  else match f.cfgClass with
  | 1 => let m := s.wayMaskOf i j
    some (BitVec.ofNat 64 (m.ways.toNat + if m.busy then 2 ^ 16 else 0), s)
  | 2 => some (s.troot.val 0 i, s)
  | 3 => some (if j = 0 then (s.partOf i).cores else (s.partOf i).word1, s)
  | 4 => some (s.tenpol.val 0 i, s)
  | 5 => let h := s.hdesc.val ⟨0, 0, 0, 0⟩ i
    some ([h.vec, h.wbase, h.wlen, h.fslots].getD j 0, s)
  | 6 => some (BitVec.ofNat 64 (s.buckets.val .reset i).value, s)
  | 7 => some (BitVec.ofNat 64 s.pairctl, s)
  | 8 => some (BitVec.ofNat 64 (s.redOwner.val 0 i).toNat, s)
  | 9 => let (n, s1) := s.drawFree
    some (Config.dieTemp n, s1)
  | _ =>
    let p := s.eth.getD i .reset
    if j = 0 then some (BitVec.ofNat 64 p.drops, s)
    else
      let (n, s1) := s.drawFree
      some (if j = 7 then BitVec.ofInt 64 p.clock + Config.portTick n else Config.portCounter n, s1)

/-! ### ATTEST -/

/-- REPAIR (R234, R252): a spare row takes the place of a row of a controller's bank, with the channel quiesced: within one step
nothing else uses it. DESIGN CHOICE: notes/assumptions/90.md. -/
def State.serveRepair (s : State) (f : Frame) : State × Option Nat :=
  if 11 < f.addr.toNat ∨ f.num 4 4 ≠ 0 then (s, some 1)
  else
    let row := (f.addr.toNat, f.byte 0, f.num 1 3)
    ({ s with repaired := row :: s.repaired.filter fun r => r != row }, some 0)

/-- What MCFG is the hash of (R257): PAIRCTL and the partition descriptors. -/
def State.configImage (s : State) : List Byte :=
  toBytes s.pairctl 8 ++ (List.range 16).flatMap fun i => toBytes (s.partOf i).cores.toNat 8 ++ toBytes (s.partOf i).word1.toNat 8

/-- What a report's signature covers (R257): bytes 0x000 to 0x0E7. Before step 6 MCTL and MCFG read as zero. DEDUCED:
notes/assumptions/41.md. -/
def State.reportBody (s : State) (nonce : List Byte) : List Byte :=
  let chip := if s.power = .inReset then s.pinChipId else s.chipId
  toBytes (1 + chip % 4 * 2 ^ 16) 8 ++ nonce ++ sm3 Config.bootRom ++ sm3 Config.supImage ++
    (if s.mctl then sm3 Config.ctlImage ++ sm3 s.configImage else List.replicate 64 0) ++ sm2KeyBytes Config.deviceKey

/-- The attestation report with its signature (R257), padded to whole sectors (R251). -/
def State.report (s : State) (nonce : List Byte) : List Byte × State :=
  let (n, s1) := s.drawFree
  let body := s.reportBody nonce
  (body ++ sm2Sign Config.deviceKey (Config.signNonce n) body ++ List.replicate 24 0, s1)

/-! ### The queue -/

/-- The frame engine's turn at a request that no refusal meets: the state, the STATUS unless it waits, ADDR and data of the
response. -/
def State.serve (s : State) (q : HostReq) : (State × Option Nat) × W64 × List Byte :=
  let f := q.frame
  let plain := fun (x : State × Option Nat) => (x, f.addr, ([] : List Byte))
  match q.op with
  | .submit =>
    let (s1, n, tag) := s.hostSubmit f
    ((s1, some n), tag, [])
  | .cancel =>
    let (s1, n) := s.hostCancel f
    plain (s1, some n)
  | .retry =>
    let (s1, n) := s.hostRetry f
    plain (s1, some n)
  | .cfgw => plain (s.serveCfgw f)
  | .cfgr =>
    match s.readConfig f with
    | some (x, s1) => ((s1, some 0), f.addr, toBytes x.toNat 8 ++ List.replicate 24 0)
    | none => plain (s, some 3)
  | .page => match q.pageCmd? with
    | some c => plain (s.servePage c)
    | none => plain (s, some 1)
  | .pair => plain (s.servePair f)
  | .power => plain (s.servePower f)
  | .repair => plain (s.serveRepair f)
  | .attest =>
    let (bs, s1) := s.report f.data
    ((s1, some 0), f.addr, bs)
  | _ => plain (s, some 5)

/-- The first request of the common queue that may begin: every earlier WRITE of its port is performed (R253). -/
def State.cmdReady (s : State) : Option Nat :=
  match firstFrom (fun k => match s.hostQ[k]? with
    | some q => q.op != .write && q.op != .read
    | none => false) s.hostQ.length 0 with
  | none => none
  | some k =>
    match s.hostQ[k]? with
    | some q => if (s.hostQ.take k).any (isWriteOf q.frame.port) then none else some k
    | none => none

/-- A request is answered and leaves the queue; OFF then takes the supplies (R258). -/
def State.answer (s : State) (k : Nat) (q : HostReq) (status : Nat) (addr : W64) (data : List Byte) : State :=
  let s1 := { s.respondTo q.frame q.cmd status addr data with hostQ := s.hostQ.eraseIdx k }
  if s1.power = .off then s1.lose .off else s1

/-- Serve the request at place `k` of the queue: the state, and whether it is answered. -/
def State.serveAt (s : State) (k : Nat) (q : HostReq) : State × Bool :=
  match s.refusal q.frame q.cmd with
  | some n => (s.answer k q n q.frame.addr [], true)
  | none =>
    match s.serve q with
    | ((s1, some n), addr, bs) => (s1.answer k q n addr bs, true)
    | ((s1, none), _, _) => (s1, false)

/-- The frame engine goes on until nothing more can be answered. -/
def State.pumpN : Nat → State → State
  | 0, s => s
  | n + 1, s =>
    match s.dataReady with
    | some k =>
      match s.hostQ[k]? with
      | some q => State.pumpN n { s.serveData q with hostQ := s.hostQ.eraseIdx k }
      | none => s
    | none =>
      match s.cmdReady with
      | some k =>
        match s.hostQ[k]? with
        | some q =>
          match s.serveAt k q with
          | (s1, true) => State.pumpN n s1
          | (s1, false) => s1
        | none => s
      | none => s

/-- The frame engine goes on (R253). -/
def State.pump (s : State) : State := State.pumpN s.hostQ.length s

/-- Whether the chip takes a request (R257, R258): before bring-up is complete only ATTEST, and without clocks none. -/
def State.accepts (s : State) (op : HostOp) : Bool :=
  match s.power with
  | .off => false
  | .stopped => false
  | .bootFailed => false
  | .inReset => op == .attest
  | _ => true

/-- A request arrives (R251, R253). -/
def State.arrive (s : State) (op : HostOp) (f : Frame) : State :=
  if s.accepts op then State.pump { s with hostQ := s.hostQ ++ [⟨op, f⟩] } else s

/-- A request of the host that an event brings. -/
def request (ok : Bool) (op : HostOp) (f : Frame) (s : State) : Out := event (decide (f.port ≤ 1) && ok) s fun s => s.arrive op f

/-- WRITE (R252). -/
def execWrite (f : Frame) (s : State) : Out := request true .write f s

/-- READ (R252). -/
def execRead (f : Frame) (s : State) : Out := request true .read f s

/-- SUBMIT (R252). -/
def execSubmit (f : Frame) (s : State) : Out := request true .submit f s

/-- CANCEL (R252). -/
def execCancel (f : Frame) (s : State) : Out := request true .cancel f s

/-- RETRY (R252). -/
def execRetry (f : Frame) (s : State) : Out := request true .retry f s

/-- CFGW of a register without behaviour of its own (R254). -/
def execCfgw (f : Frame) (s : State) : Out := request (!cfgwOwnRow f.cfgClass) .cfgw f s

/-- CFGW of an L2 way mask (R122, R123). -/
def execCfgwWayMask (f : Frame) (s : State) : Out := request (f.cfgClass == 1) .cfgw f s

/-- CFGW of TROOT (R168). -/
def execCfgwTroot (f : Frame) (s : State) : Out := request (f.cfgClass == 2) .cfgw f s

/-- CFGW of a partition descriptor (R193). -/
def execCfgwPartition (f : Frame) (s : State) : Out := request (f.cfgClass == 3) .cfgw f s

/-- CFGW of a handler descriptor (R240). -/
def execCfgwHandlerDesc (f : Frame) (s : State) : Out := request (f.cfgClass == 5) .cfgw f s

/-- CFGW of a leaky bucket (R235). -/
def execCfgwLeakyBucket (f : Frame) (s : State) : Out := request (f.cfgClass == 6) .cfgw f s

/-- CFGW of PAIRCTL (R225). -/
def execCfgwPairctl (f : Frame) (s : State) : Out := request (f.cfgClass == 7) .cfgw f s

/-- CFGR (R254). -/
def execCfgr (f : Frame) (s : State) : Out := request true .cfgr f s

/-- PAGE, unmap, and the operations that R252 does not name (R176); `len` and `leaf` are what the data say. -/
def execPageUnmap (f : Frame) (len : Nat) (s : State) : Out :=
  request ((f.num 0 4 == 0 || decide (3 < f.num 0 4)) && f.num 4 4 == len) .page f s

/-- PAGE, protect (R176). -/
def execPageProtect (f : Frame) (len leaf : Nat) (s : State) : Out :=
  request (f.num 0 4 == 1 && f.num 4 4 == len && f.num 8 8 == leaf) .page f s

/-- PAGE, discard (R181). -/
def execPageDiscard (f : Frame) (len : Nat) (s : State) : Out := request (f.num 0 4 == 2 && f.num 4 4 == len) .page f s

/-- PAGE, migrate (R182). -/
def execPageMigrate (f : Frame) (len leaf : Nat) (s : State) : Out :=
  request (f.num 0 4 == 3 && f.num 4 4 == len && f.num 8 8 == leaf) .page f s

/-- PAIR (R233). -/
def execPair (f : Frame) (s : State) : Out := request (f.value64 != 0) .pair f s

/-- PAIR, unpair (R233). -/
def execUnpair (f : Frame) (s : State) : Out := request (f.value64 == 0) .pair f s

/-- POWER, RUN, and the codes that name no state (R258). -/
def execPowerRun (f : Frame) (s : State) : Out := request (powerCode f == 0 || decide (5 < powerCode f)) .power f s

/-- POWER, RUN-LOW (R258). -/
def execPowerRunLow (f : Frame) (s : State) : Out := request (powerCode f == 1) .power f s

/-- POWER, HOLD (R258). -/
def execPowerHold (f : Frame) (s : State) : Out := request (powerCode f == 2) .power f s

/-- POWER, OFF (R258). -/
def execPowerOff (f : Frame) (s : State) : Out := request (powerCode f == 3) .power f s

/-- POWER, gate clusters (R19, R258). -/
def execPowerGate (f : Frame) (s : State) : Out := request (powerCode f == 4) .power f s

/-- POWER, ungate clusters (R258). -/
def execPowerUngate (f : Frame) (s : State) : Out := request (powerCode f == 5) .power f s

/-- REPAIR (R234). -/
def execRepair (f : Frame) (bank row : Nat) (s : State) : Out :=
  request (f.byte 0 == bank && f.num 1 3 == row) .repair f s

/-- ATTEST (R257). -/
def execAttest (f : Frame) (s : State) : Out := request true .attest f s

/-- A request with an unassigned or device-only CMD (R252). -/
def execUnknownCommand (f : Frame) (cmd : Nat) (s : State) : Out := request (!cmdKnown cmd) (.unknown cmd) f s

/-- The walker splits the large pages of the command that waits (R180); with an empty table pool the command fails. -/
def State.splinter (s : State) : State :=
  match s.cmdReady with
  | none => s
  | some k =>
    match s.hostQ[k]? with
    | none => s
    | some q =>
      match q.pageCmd? with
      | none => s
      | some c =>
        if (s.refusal q.frame q.cmd).isNone && s.canSplit c then
          match State.splitFor c (c.len / 4096 + 4) s with
          | some s1 => s1.pump
          | none => State.pump (s.answer k q 4 q.frame.addr [])
        else s

/-- SPLINTER (R180). -/
def execSplinter (s : State) : Out := event true s fun s => if s.clocked then s.splinter else s

end Sys2Proof.Machine
end

