-- ==== Sys2Proof/Machine/Links.lean ====
section
/-! DEFINITION. The chip's outside: Ethernet ports (R249, R250), Wituisk links (R255), lost links and dead chips (R183, R236,
R237), bring-up (R10, R257), the thermal trip (R259). -/

namespace Sys2Proof.Machine

/-! ### Ethernet -/

/-- Change an Ethernet port. -/
def State.updEth (s : State) (port : Nat) (f : Eth → Eth) : State :=
  match s.eth[port]? with
  | some p => { s with eth := s.eth.set port (f p) }
  | none => s

/-- ETHERNET_INGRESS_DROP (R249): a frame that the port does not take is counted in its drop counter. -/
def execEthernetIngressDrop (f : EthFrame) (s : State) : Out :=
  event (decide (f.port ≤ 1) && f.dropped) s fun s => s.updEth f.port fun p => { p with drops := p.drops + 1 }

/-- A gate control list of at most 256 entries is loaded (R249): its first entry's gates open. -/
def State.loadGates (s : State) (port : Nat) (list : List (Nat × BitVec 8)) : State :=
  if 256 < list.length then s
  else s.updEth port fun p => { p with gates := list, gatePos := 0, gateOpen := (list.head?.map fun e => e.2).getD 0xFF }

/-- TIME_SYNC_MESSAGE (R249, R250): the port's own clock is adjusted. -/
def execTimeSyncMessage (port : Nat) (offset : Int) (s : State) : Out :=
  event (decide (port ≤ 1)) s fun s => s.updEth port fun p => { p with clock := p.clock + offset }

/-- The next entry of a gate control list opens and closes its gates at the end of the current one's interval (R249, R250). -/
def Eth.advance (p : Eth) : Eth :=
  match p.gates[p.gatePos]? with
  | none => p
  | some e =>
    let n := (p.gatePos + 1) % p.gates.length
    { p with clock := p.clock + e.1, gatePos := n, gateOpen := ((p.gates[n]?).map fun x => x.2).getD p.gateOpen }

/-- GATE_CONTROL_LIST_ADVANCE (R250). -/
def execGateControlListAdvance (port : Nat) (s : State) : Out :=
  event (decide (port ≤ 1)) s fun s => s.updEth port Eth.advance

/-! ### Lost links and dead chips -/

/-- The frame of a page that a task holds (R174): by its pinned leaf, or by the tables while none is pinned. -/
def State.heldFrame (s : State) (t : Task) (h : Hold) (page : Nat) : Option Nat :=
  match t.pins.find? fun p => p.window == h.window && pageCovers p.page p.level (page * 4096) with
  | some p => some (leafPageFrame p.leaf p.level page)
  | none => match s.walk t.rcd.tenant (page * 4096) with
    | .leaf lv e => some (leafPageFrame e lv page)
    | _ => none

/-- The first address of a task's leases and of its handler window whose frame lies on chip `x` (R174, R237, R240). -/
def State.lostVa (s : State) (t : Task) (x : Nat) : Option Nat :=
  (t.rcd.holds (if t.pins.isEmpty then s.windowOf t.rcd.tenant else t.window)).findSome? fun h =>
    (List.range h.n).findSome? fun i =>
      if (s.heldFrame t h (h.page + i)).any fun f => chipOf (f * 4096) == x then some ((h.page + i) * 4096) else none

/-- The lines of a frame that have not been pulled are poisoned (R183). -/
def State.poisonUnpulled (s : State) (frame : Nat) (pulled : BitVec 32) : State :=
  (List.range 32).foldl (fun (s : State) i =>
    let line := offOf (frame * 4096) / 128 + i
    if pulled.getLsbD i then s else s.setMeta line { s.metaOf line with poison := 0xF }) s

/-- Pulls from a chip are lost (R183). -/
def State.losePulls (s : State) (x : Nat) : State :=
  s.attrs.foldl (fun (s : State) e =>
    if e.2.pull && !e.2.lost && chipOf (e.2.srcframe * 4096) == x then
      (s.poisonUnpulled e.1 e.2.pulled).setAttr e.1 { e.2 with lost := true }
    else s) s

/-- Writes that were sent to a chip and not acknowledged are lost (R151). -/
def State.loseWrites (s : State) (x : Nat) : State :=
  { s with trains := Cells.mapVals (fun (tr : Train) =>
      { tr with sb := tr.sb.filter fun e => !(e.stage == .sent && e.dest == .chip x) }) s.trains }

/-- A chip is dead or unreachable (R151, R237): tasks with leases there end, writes to it and pulls from it are lost, its guest lines
go. -/
def State.loseChip (s : State) (x : Nat) : State :=
  let s1 := s.tasks.foldl (fun (s : State) e =>
    match s.lostVa e.2 x with
    | some va => s.endTask e.1 ⟨.pullLost, 0, BitVec.ofNat 64 va, 0, 0⟩
    | none => s) s
  ((s1.loseWrites x).losePulls x).dropGuests fun l => chipOf (l * 128) == x

/-- The chip at the other end of a port (R9). -/
def State.peerOf (s : State) (port : Nat) : Nat := (s.chipId + 1 + port) % 4

/-- Whether a chip that is still reached reports its own port to chip `x` up (R236). -/
def State.reportedUp (s : State) (x : Nat) : Bool :=
  [0, 1, 2].any fun i => (s.links[i]?).any (fun l => l.up) && s.peerOf i != x && (s.reports.val 0 (s.peerOf i)).getLsbD x

/-- The marks that a lost port calls for (R236): dead, or unreachable while another survivor reaches the chip. -/
def State.markChip (s : State) (port : Nat) : State :=
  let x := s.peerOf port
  if !(s.links[port]?).any (fun l => l.lost) || s.dead.getLsbD x then s
  else if s.reportedUp x then
    if s.unreach.getLsbD x then s else State.loseChip { s with unreach := s.unreach ||| (1#4 <<< x) } x
  else State.loseChip { s with dead := s.dead ||| (1#4 <<< x) } x

/-- The marks are drawn anew. -/
def State.markChips (s : State) : State := [0, 1, 2].foldl State.markChip s

/-- Change a link. -/
def State.updLink (s : State) (port : Nat) (f : Link → Link) : State :=
  match s.links[port]? with
  | some l => { s with links := s.links.set port (f l) }
  | none => s

/-- What the supervisor's clock shows (R236, R258): the core cycles, and those for which only it ran. -/
def State.supNow (s : State) : Nat := s.clock + s.supClock

/-- Time goes on until the supervisor's clock has reached a count: core cycles while the cores run. -/
def State.supUntil (s : State) (n : Nat) : State :=
  if s.clocked then { s with clock := max s.clock (n - s.supClock) } else { s with supClock := max s.supClock (n - s.clock) }

/-- Cycles for which a link stays down before its port is lost (R236). -/
def lossCycles : Nat := 1400000

/-- Whether a link may be declared lost. -/
def State.canLose (s : State) (port : Nat) : Bool := (s.links[port]?).any fun l => !l.up && !l.lost

/-- A port is lost once its link has stayed down (R236). DEDUCED: notes/assumptions/68.md. -/
def State.losePort (s : State) (port : Nat) : State :=
  match s.links[port]? with
  | some l => State.markChips ((s.supUntil (l.downAt + lossCycles)).updLink port fun l => { l with lost := true })
  | none => s

/-- Whether the supervisor runs: after bring-up, while the chip has supplies (R257, R258). -/
def State.supervised (s : State) : Bool := s.power == .run || s.power == .runLow || s.power == .hold

/-- LINK_LOSS (R236). -/
def execLinkLoss (port : Nat) (s : State) : Out :=
  event (decide (port ≤ 2)) s fun s => if s.supervised && s.canLose port then s.losePort port else s

/-- PORT_STATUS_REPORT (R236): the chips to which a peer's ports are up. -/
def execPortStatusReport (chip : Nat) (upTo : BitVec 4) (s : State) : Out :=
  event (decide (chip ≤ 3)) s fun s =>
    State.markChips { s.takeFlit chip 3 with reports := s.reports.store 0 chip upTo }

/-! ### Links -/

/-- A link goes down (R255). -/
def State.downLink (s : State) (port : Nat) : State :=
  s.updLink port fun l => if l.up then { l with up := false, low := false, high := false, downAt := s.supNow } else l

/-- LINK_DOWN (R255): a flit failed 16 times, or a lane failed. Either way the link is down until it retrains. -/
def execLinkDown (port : Nat) (_ : DownReason) (s : State) : Out :=
  event (decide (port ≤ 2)) s fun s => s.downLink port

/-- A link that is down has trained (R255): on all lanes, on one half, or not; never with a peer of the same identity (R10). -/
def Link.train (l : Link) (low high same : Bool) : Link :=
  if l.up then l
  else if same then { l with dup := true }
  else if low || high then
    { l with up := true, low := low, high := high, dup := false, lost := false
             chans := l.chans.map fun c => { c with retries := 0 } }
  else l

/-- LINK_RETRAIN (R255, R10). -/
def execLinkRetrain (port : Nat) (lowHalf highHalf sameId : Bool) (s : State) : Out :=
  event (decide (port ≤ 2)) s fun s => s.updLink port fun l => l.train lowHalf highHalf sameId

/-- A data flit has come whole (R255): at 48 flits the channel is paused. -/
def Chan.got (c : Chan) : Chan :=
  { c with level := min 64 (c.level + 1), paused := c.paused || decide (48 ≤ c.level + 1), retries := 0 }

/-- A data flit arrives (R255): one that fails its CRC is sent again, and at its 16th failure the link goes down. -/
def State.getFlit (s : State) (port chan : Nat) (ok : Bool) : State :=
  match s.links[port]? with
  | none => s
  | some l =>
    if !l.up then s
    else if ok then s.updChan port chan Chan.got
    else if 16 ≤ (l.chans.getD chan .reset).retries + 1 then s.downLink port
    else s.updChan port chan fun c => { c with retries := c.retries + 1 }

/-- FLIT_RECEIVE (R255). -/
def execFlitReceive (port chan : Nat) (crcOk : Bool) (s : State) : Out :=
  event (decide (port ≤ 2) && decide (chan ≤ 3)) s fun s => s.getFlit port chan crcOk

/-- PAUSE_FLIT (R255): the peer stops this side's channel. -/
def execPauseFlit (port chan : Nat) (s : State) : Out :=
  event (decide (port ≤ 2) && decide (chan ≤ 3)) s fun s => s.updChan port chan fun c => { c with stopped := true }

/-- RESUME_FLIT (R255). -/
def execResumeFlit (port chan : Nat) (s : State) : Out :=
  event (decide (port ≤ 2) && decide (chan ≤ 3)) s fun s => s.updChan port chan fun c => { c with stopped := false }

/-! ### Bring-up and the thermal trip -/

/-- The payload of a bring-up record (R423). -/
def bootWord (chip : Nat) (up dup : BitVec 3) : Nat := chip + dup.toNat * 2 ^ 8 + up.toNat * 2 ^ 16

/-- The links as they have trained (R10, R255, R257 step 3): each on its low half, its high half, both or none; never with a peer of
the same identity. -/
def trainedLinks (low high dup : BitVec 3) (now : Nat) : List Link :=
  (List.range 3).map fun i =>
    { Link.reset with
      up := (low.getLsbD i || high.getLsbD i) && !dup.getLsbD i, low := low.getLsbD i && !dup.getLsbD i
      high := high.getLsbD i && !dup.getLsbD i, dup := dup.getLsbD i, downAt := now }

/-- Bring-up (R257): the straps, the image's check, memory and attributes as it writes them, the first record. `low`, `high` and `dup`
say how the training of each port went. -/
def State.boot (s : State) (imageOk : Bool) (low high dup : BitVec 3) : State :=
  let chip := s.pinChipId % 4
  let s1 := { s.lose .inReset with chipId := chip, hostPort := s.pinHostPort }
  if imageOk then
    let live := (low ||| high) &&& ~~~dup
    let s2 : State := { s1 with
      power := .run, mctl := true, links := trainedLinks low high dup s.supNow
      tablePool := Config.tablePool.map fun n => (chip * 2 ^ 42 + offOf (n * 4096)) / 4096 }
    s2.hostPorts.foldl (fun (s : State) n => s.sendEvent 0 0 n (deviceRecord 0x10 0 [bootWord chip live dup])) s2
  else
    [0, 1].foldl (fun (s : State) n => s.sendEvent 0 0 n (deviceRecord 0x10 1 [bootWord chip 0 0])) { s1 with power := .bootFailed }

/-- BRING_UP (R257): when the board releases reset, after a reset, a failed check, OFF or a thermal trip. -/
def execBringUp (imageOk : Bool) (up : Halves) (dup : BitVec 3) (s : State) : Out :=
  event true s fun s => if s.supervised then s else s.boot imageOk up.low up.high dup

/-- The thermal trip (R259): one THERMAL frame on each port and the THERMTRIP pin; every clock stops and nothing is retained. -/
def State.trip (s : State) : State :=
  let s1 := (s.emit ⟨0, 0x41, 0, 0, 0, 0, [], 0⟩).emit ⟨1, 0x41, 0, 0, 0, 0, [], 0⟩
  { s1.lose .stopped with thermtrip := true }

/-- THERMAL_TRIP (R259): the die has reached 125 °C. -/
def execThermalTrip (s : State) : Out :=
  event true s fun s => if s.power = .off ∨ s.power = .stopped then s else s.trip

end Sys2Proof.Machine
end

