-- ==== Sys2Proof/Machine/Errors.lean ====
section
/-! DEFINITION. Corrected errors: the classifiers (R234), the leaky buckets (R235); L2 fills and way removals (R121 to R123). -/

namespace Sys2Proof.Machine

/-! ### Classifiers -/

/-- A predictive-failure record (R423). -/
def State.sendFailure (s : State) (code : Nat) (ws : List Nat) : State := s.sendAll 0 0 none (deviceRecord 0x12 code ws)

/-- Distinct values. -/
def countOf (xs : List Nat) : Nat := xs.eraseDups.length

/-- The patterns of R234 that a list of errors shows at a bank, row and column, by CODE: row, column, bank. DEDUCED:
notes/assumptions/69.md. -/
def patternsAt (es : List ErrEntry) (bank row column : Nat) : List Nat :=
  let here := es.filter fun e => e.bank == bank
  let inRow := countOf ((here.filter fun e => e.row == row).map fun e => e.column)
  let inCol := countOf ((here.filter fun e => e.column == column).map fun e => e.row)
  (if 3 ≤ inRow then [2] else []) ++ (if 3 ≤ inCol then [3] else []) ++
    if 8 ≤ countOf (here.map fun e => e.row) ∧ 8 ≤ countOf (here.map fun e => e.column) then [4] else []

/-- A corrected error enters a controller's classifier of 64 entries (R234); each pattern that it completes is reported. -/
def State.classify (s : State) (ctl bank row column : Nat) : State :=
  let es := s.classif.val [] ctl
  let same := fun (e : ErrEntry) => e.bank == bank && e.row == row && e.column == column
  let es' := (⟨bank, row, column, s.clock⟩ :: es.filter fun e => !same e).take 64
  let codes := (if es.any same then [1] else []) ++
    (patternsAt es' bank row column).filter fun c => !(patternsAt es bank row column).contains c
  codes.foldl (fun (s : State) c => s.sendFailure c [ctl, bank + row * 2 ^ 8 + column * 2 ^ 32])
    { s with classif := s.classif.store [] ctl es' }

/-- A corrected error counts in a leaky bucket (R235). -/
def State.countBucket (s : State) (i : Nat) : State :=
  let b := s.buckets.val .reset i
  let fill := min 0xFFFF (b.fill + 1)
  let hit := decide (b.fill < b.mark) && decide (b.mark ≤ fill) && !b.evt
  let leaked := if b.fill = 0 then s.clock else b.leaked
  let s1 := { s with buckets := s.buckets.store .reset i { b with fill := fill, evt := b.evt || hit, leaked := leaked } }
  if hit then s1.sendFailure 5 [i, 0, fill] else s1

/-- CORRECTED_ERROR (R234, R235). -/
def execCorrectedError (site : ErrSite) (s : State) : Out :=
  event site.wf s fun s => if !s.supervised then s
    else match site with
      | .memory ctl bank row column => s.classify ctl bank row column
      | .bucket i => s.countBucket i

/-- Cycles after which a classifier's entry expires (R234). -/
def expiryCycles : Nat := 2 ^ 32

/-- CLASSIFIER_ENTRY_EXPIRY (R234). -/
def execClassifierEntryExpiry (ctl idx : Nat) (s : State) : Out :=
  event (decide (ctl ≤ 11)) s fun s =>
    let es := s.classif.val [] ctl
    match es[idx]? with
    | some e =>
      if s.clocked then
        { s with clock := max s.clock (e.since + expiryCycles), classif := s.classif.store [] ctl (es.eraseIdx idx) }
      else s
    | none => s

/-- When a bucket leaks next (R235). -/
def Bucket.due (b : Bucket) : Option Nat := if b.leak = 0 ∨ b.fill = 0 then none else some (b.leaked + 65536 * b.leak)

/-- LEAKY_BUCKET_LEAK (R235). -/
def execLeakyBucketLeak (idx : Nat) (s : State) : Out :=
  event (decide (idx ≤ 80)) s fun s =>
    let b := s.buckets.val .reset idx
    match b.due with
    | some n =>
      if s.clocked then
        { s with clock := max s.clock n, buckets := s.buckets.store .reset idx { b with fill := b.fill - 1, leaked := n } }
      else s
    | none => s

/-! ### L2 -/

/-- The memory channel of a chip offset (R16). -/
def channelOf (off : Nat) : Nat := bitsAt off 8 34 % 12

/-- A sector is verified on its way from memory (R126): one that fails is poisoned. -/
def State.verifySector (s : State) (sec : Nat) : State := if s.checkFails (sec * 32) then s.remakeSector sec true else s

/-- A fill verifies a sector and takes what the memory's own code found (R121, R126, R128, R234). -/
def State.fillSector (s : State) (sec : Nat) : SectorErr → State
  | .good => s.verifySector sec
  | .corrected bank row column => (s.verifySector sec).classify (channelOf (sec * 32)) bank row column
  | .uncorrectable => s.remakeSector sec true

/-- Data returns from memory into a line (R121): verified, and allocated in a way its tenant may use, but for a UC page (R169). -/
def State.fillLine (s : State) (line tenant : Nat) (errs : List SectorErr) : State :=
  let s1 := (errs.zipIdx).foldl (fun (s : State) e => s.fillSector (4 * line + e.2) e.1) s
  s1.l2Use (s1.boxPa (line * 128)) tenant

/-- Whether a byte of a list of locations lies in a line of this chip. -/
def State.locsOn (s : State) (line : Nat) (ls : List Loc) : Bool := ls.any fun l => match l with
  | .glob pa => pa / 128 == s.boxPa (line * 128) / 128
  | .priv pa => pa / 128 == s.boxPa (line * 128) / 128
  | _ => false

/-- Whether an access under way of a train requires a line (R129): a load that has not returned, or a write sent to its home. -/
def State.trainRequires (s : State) (line : Nat) (tr : Train) : Bool :=
  (tr.outst.any fun o => o.loads.any fun l => l.value.isNone && s.locsOn line l.locs) ||
    tr.sb.any fun x => x.stage == .sent && s.locsOn line (x.bytes.map fun b => b.loc)

/-- Whether a step of a workgroup requires a line (R129): an access under way, or the next instruction of a candidate split. -/
def State.wgRequires (s : State) (line w : Nat) (g : Wg) (t : Task) : Bool :=
  ((s.trainsOf w).any fun e => s.trainRequires line e.2) || match g.core? with
    | some core => (s.wgVas w core t).any fun va => match s.walk t.rcd.tenant va with
      | .leaf lv e => leafPa e lv va / 128 == s.boxPa (line * 128) / 128
      | _ => false
    | none => false

/-- Whether a state holds a home line of this chip in L2. -/
def State.holdsLine (s : State) (line : Nat) : Bool := s.l2.any fun l => l.line == s.boxPa (line * 128) / 128

/-- Whether the next unit of an engine command of a tenant reads or writes a line (R129): it would bring the line into L2. -/
def State.engineRequires (s : State) (line tenant : Nat) : Bool :=
  let mine := fun (w : Nat) => (s.wg? w).any fun g => (s.taskOf? g).any fun t => t.rcd.tenant == tenant
  (s.strQ.any fun q => mine q.w && (s.strMove q.id ⟨[], [], []⟩).holdsLine line) ||
    s.seqQ.any fun q => mine q.w && (s.seqMove q.id ⟨[], [], []⟩).holdsLine line

/-- Whether a request of the host reads or writes a line (R252). -/
def State.hostRequires (s : State) (line tenant : Nat) : Bool :=
  s.hostQ.any fun q => isDataOf q.frame.port q && q.frame.tenant == tenant &&
    decide (q.frame.addr.toNat < line * 128 + 128) && decide (line * 128 < q.frame.addr.toNat + q.frame.len)

/-- Whether anything of a tenant requires a line (R129). -/
def State.requires (s : State) (line tenant : Nat) : Bool :=
  ((List.range s.wgs.length).any fun w => match s.wg? w with
    | some g => match s.taskOf? g with
      | some t => t.rcd.tenant == tenant && s.wgRequires line w g t
      | none => false
    | none => false) || s.engineRequires line tenant || s.hostRequires line tenant

/-- L2_FILL (R121): only for an access that requires the line (R129). -/
def execL2Fill (line tenant : Nat) (errs : List SectorErr) (s : State) : Out :=
  event (decide (tenant ≤ 15) && errs.length == 4) s fun s =>
    if s.clocked && decide (line * 128 < Config.metaBase) && !s.holdsLine line && s.requires line tenant then s.fillLine line tenant errs
    else s

/-- A sector of a resident line meets an error that the code of L2's arrays cannot correct (R121): it is poisoned (R128). -/
def State.upset (s : State) (line sector : Nat) : State :=
  match s.l2.find? fun l => l.line == line with
  | none => s
  | some x =>
    if x.guest.isSome then
      { s with l2 := s.l2.map fun l => if l.line = line then
          { l with guest := l.guest.map fun g => { g with poison := g.poison ||| (1#4 <<< (sector % 4)) } } else l }
    else s.remakeSector (4 * (offOf (line * 128) / 128) + sector % 4) true

/-- WAY_REMOVAL_LINE (R123): one line of a removed way is written back and leaves. -/
def execWayRemovalLine (slice tenant : Nat) (s : State) : Out :=
  event (decide (slice ≤ 31) && decide (tenant ≤ 15)) s fun s =>
    match s.linesIn slice tenant (s.wayMaskOf slice tenant).removed with
    | l :: _ => State.closeRemoval { s with l2 := s.l2.filter fun x => x.line != l.line } slice tenant
    | [] => s.closeRemoval slice tenant

end Sys2Proof.Machine
end

