-- ==== Sys2Proof/Machine/Agent.lean ====
section
/-! DEFINITION. The control core as an agent of the chip (R7, R15, R130): what its untrusted firmware may have it do to the machine. It
works at the virtual addresses of a tenant, bound by no lease, tenant or privilege check (R188, R328). Its own registers and program are
not in the spec. DESIGN CHOICE: notes/assumptions/91.md. -/

namespace Sys2Proof.Machine

/-- Where the control core's access to a tenant's address goes (R170, R172), and whether the page is discarded (R181); the metadata
region is closed to it (R127, R257). -/
def State.controlAt (s : State) (tenant va : Nat) : Option (Nat × Bool) :=
  match s.walk tenant va with
  | .leaf lv e => match s.useLeaf e lv va with
    | .ok pa disc _ => if inMetadata (offOf pa) then none else some (pa, disc)
    | _ => none
  | _ => none

/-- What the control core reads: bytes with their poison (R128, R183), lines that must be pulled first (R182), or nothing. -/
inductive ControlRead where
  | ok (bs : List Byte) (poison : Bool)
  | wait (pas : List Nat)
  | none
  deriving DecidableEq, Repr

/-- Byte `i` of what the control core reads, with its poison; `d` is what the home of another chip sends. -/
def State.controlByte (s : State) (d : RemoteData) (i : Nat) (at' : Nat × Bool) : Byte × Bool :=
  if at'.2 then (0, false)
  else if s.isLocal at'.1 then (Memory.read s.mem (offOf at'.1), s.poisonAt (offOf at'.1) || s.pullLost at'.1)
  else (d.bytes.getD i 0, remoteBad d (i / 32))

/-- The control core reads `n` bytes. -/
def State.controlRead (s : State) (tenant va n : Nat) (d : RemoteData) : ControlRead :=
  match (List.range n).mapM fun i => s.controlAt tenant (va + i) with
  | some xs =>
    let waits := xs.filter fun x => !x.2 && s.pullPending x.1
    if waits.isEmpty then
      let bs := xs.zipIdx.map fun e => s.controlByte d e.2 e.1
      .ok (bs.map fun b => b.1) (bs.any fun b => b.2)
    else .wait (waits.map fun x => x.1)
  | none => .none

/-- The widths of the control core's loads and stores, naturally aligned. -/
def controlSize (va n : Nat) : Bool := [1, 2, 4, 8].contains n && aligned va n

/-- The control core stores: once its page holds data (R181, R182), at its home; what goes to another chip leaves no trace here. -/
def State.controlStore (s : State) (tenant va : Nat) (bs : List Byte) : State :=
  match s.controlAt tenant va with
  | some (pa, disc) =>
    if disc then { s with revivals := if s.revivals.contains (tenant, va / 4096) then s.revivals else s.revivals ++ [(tenant, va / 4096)] }
    else if s.pullPending pa then s.askPulls [pa]
    else if s.isLocal pa && !s.pullLost pa then s.writeHome (homeBytesAt (offOf pa) bs) .other false
    else s
  | none => s

/-- The control core submits a record of any tenant (R188): its tag, 0 when the table is full. -/
def State.controlLaunch (s : State) (tenant va : Nat) (d : RemoteData) : State :=
  match s.controlRead tenant va 512 d with
  | .ok bs false =>
    if s.recordBad bs then s
    else
      let (tag, s1) := s.submitTask (Record.parse bs) (BitVec.ofNat 64 va) none
      { s1 with ctl := [tag] }
  | .wait pas => s.askPulls pas
  | _ => s

/-- The control core pops a record of a queue at its home on this chip (R328, R329). -/
def State.controlPop (s : State) (tenant va : Nat) : State :=
  match s.controlAt tenant va, s.controlRead tenant va 64 ⟨[], [], []⟩ with
  | some (pa, false), .ok bs false =>
    let h := QHead.parse bs
    if h.bad || !s.isLocal pa then s
    else if h.tail = h.head then { s with ctl := List.replicate 8 0 }
    else
      match s.controlRead tenant (slotVa va h.cap h.head) 64 ⟨[], [], []⟩ with
      | .ok rec false => { s.writeWord (offOf pa + 8) (h.head + 1) with ctl := recordWords rec }
      | .wait pas => s.askPulls pas
      | _ => s
  | _, .wait pas => s.askPulls pas
  | _, _ => s

/-- The control core releases a task that waits (R189). -/
def State.controlRelease (s : State) (tag : W64) : State :=
  match s.tagged tag with
  | some (slot, task) => match task.released with
    | some task' => { s.setTask slot task' with ctl := [1] }
    | none => { s with ctl := [0] }
  | none => { s with ctl := [0] }

/-- What the control core does. -/
def State.controlStep (s : State) : ControlOp → State
  | .load tenant va n =>
    if controlSize va n then match s.controlRead tenant va n ⟨[], [], []⟩ with
      | .ok bs false => { s with ctl := [BitVec.ofNat 64 (ofBytes bs)] }
      | .wait pas => s.askPulls pas
      | _ => s
    else s
  | .store tenant va bs => if controlSize va bs.length then s.controlStore tenant va bs else s
  | .lnch tenant va d => if aligned va 64 && decide (va + 512 ≤ 2 ^ 48) then s.controlLaunch tenant va d else s
  | .evpop tenant va => if aligned va 64 && decide (va + 64 ≤ 2 ^ 48) then s.controlPop tenant va else s
  | .trel tag => s.controlRelease tag

/-- A move of the control core, which runs with the cores (R258). -/
def State.control (s : State) (c : ControlOp) : State := if s.clocked then (s.controlStep c).wake else s

end Sys2Proof.Machine
end

