-- ==== Sys2Proof/Machine/Exchange.lean ====
section
/-! DEFINITION. Exchange instructions (R34, R35, R398 to R403). -/

namespace Sys2Proof.Machine

/-- The register of a source thread: zero for a thread that was never launched (R399). -/
def Train.exchV (tr : Train) (j r : Nat) : W32 := if tr.launched.getLsbD j then tr.getV j r else 0

/-- XCH and XBC (R400): every thread takes the register of its source thread. -/
def exchange (d src : BitVec 6) (from' : Ctx → Nat → Nat) (c : Ctx) (s : State) : State :=
  perThread d (fun c j => c.tr.exchV (from' c j) src.toNat) c s

/-- Running combinations of the participating threads, in ascending order (R402). -/
def scan (f : W32 → W32 → W32) (v : Nat → W32) : Option W32 → List Nat → List (Nat × W32)
  | _, [] => []
  | none, j :: js => (j, v j) :: scan f v (some (v j)) js
  | some a, j :: js => (j, f a (v j)) :: scan f v (some (f a (v j))) js

/-- XRED (R402): the last combination, in every participating thread. -/
def reduce (d src : BitVec 6) (f : W32 → W32 → W32) (c : Ctx) (s : State) : State :=
  let r := ((scan f (fun j => c.tr.exchV j src.toNat) none c.threads).getLastD (0, 0)).2
  perThread d (fun _ _ => r) c s

/-- XSCN (R402): each thread takes its own combination. -/
def inclusive (d src : BitVec 6) (f : W32 → W32 → W32) (c : Ctx) (s : State) : State :=
  let rs := scan f (fun j => c.tr.exchV j src.toNat) none c.threads
  perThread d (fun _ j => ((rs.find? fun e => e.1 == j).getD (j, 0)).2) c s

/-- ADD.F32 of R402: RNE, whatever the slot. -/
def addF32 (a b : W32) : W32 := BitVec.ofNat 32 (faddE .f32 a.toNat b.toNat .rne)

/-- MIN.F32 of R402. -/
def minF32 (a b : W32) : W32 := BitVec.ofNat 32 (Fp.minMax .f32 false a.toNat b.toNat)

/-- MAX.F32 of R402. -/
def maxF32 (a b : W32) : W32 := BitVec.ofNat 32 (Fp.minMax .f32 true a.toNat b.toNat)

/-- The ballot of a predicate (R398). -/
def Ctx.ballot (c : Ctx) (p : BitVec 3) : Mask := c.active &&& c.tr.getP p.toNat

/-- XCH.UP (R400). -/
def execXchUp (d src : BitVec 6) (k : BitVec 5) (g : BitVec 3) (s : State) : Out :=
  issue (.xchUp d src k g) s (exchange d src fun c j => if ((c.k5 k).toNat % 32) ≤ j then j - ((c.k5 k).toNat % 32) else j)

/-- XCH.DN (R400). -/
def execXchDn (d src : BitVec 6) (k : BitVec 5) (g : BitVec 3) (s : State) : Out :=
  issue (.xchDn d src k g) s (exchange d src fun c j => if j + ((c.k5 k).toNat % 32) ≤ 31 then j + ((c.k5 k).toNat % 32) else j)

/-- XCH.XOR (R400). -/
def execXchXor (d src : BitVec 6) (k : BitVec 5) (g : BitVec 3) (s : State) : Out :=
  issue (.xchXor d src k g) s (exchange d src fun c j => j ^^^ ((c.k5 k).toNat % 32))

/-- XCH.IDX (R400). -/
def execXchIdx (d src : BitVec 6) (g : BitVec 3) (s : State) : Out :=
  issue (.xchIdx d src g) s (exchange d src fun c j => (c.v d j).toNat % 32)

/-- XBC (R400). -/
def execXbc (d src : BitVec 6) (k : BitVec 5) (g : BitVec 3) (s : State) : Out :=
  issue (.xbc d src k g) s (exchange d src fun c _ => ((c.k5 k).toNat % 32))

/-- XRED.ADD.I32 (R402). -/
def execXredAddI32 (d src : BitVec 6) (g : BitVec 3) (s : State) : Out :=
  issue (.xredAddI32 d src g) s (reduce d src (· + ·))

/-- XRED.ADD.F32 (R402). -/
def execXredAddF32 (d src : BitVec 6) (g : BitVec 3) (s : State) : Out :=
  issue (.xredAddF32 d src g) s (reduce d src addF32)

/-- XRED.MIN.S (R402). -/
def execXredMinS (d src : BitVec 6) (g : BitVec 3) (s : State) : Out :=
  issue (.xredMinS d src g) s (reduce d src minSW)

/-- XRED.MAX.S (R402). -/
def execXredMaxS (d src : BitVec 6) (g : BitVec 3) (s : State) : Out :=
  issue (.xredMaxS d src g) s (reduce d src maxSW)

/-- XRED.MIN.F32 (R402). -/
def execXredMinF32 (d src : BitVec 6) (g : BitVec 3) (s : State) : Out :=
  issue (.xredMinF32 d src g) s (reduce d src minF32)

/-- XRED.MAX.F32 (R402). -/
def execXredMaxF32 (d src : BitVec 6) (g : BitVec 3) (s : State) : Out :=
  issue (.xredMaxF32 d src g) s (reduce d src maxF32)

/-- XSCN.ADD.I32 (R402). -/
def execXscnAddI32 (d src : BitVec 6) (g : BitVec 3) (s : State) : Out :=
  issue (.xscnAddI32 d src g) s (inclusive d src (· + ·))

/-- XSCN.ADD.F32 (R402). -/
def execXscnAddF32 (d src : BitVec 6) (g : BitVec 3) (s : State) : Out :=
  issue (.xscnAddF32 d src g) s (inclusive d src addF32)

/-- XSCN.MIN.S (R402). -/
def execXscnMinS (d src : BitVec 6) (g : BitVec 3) (s : State) : Out :=
  issue (.xscnMinS d src g) s (inclusive d src minSW)

/-- XSCN.MAX.S (R402). -/
def execXscnMaxS (d src : BitVec 6) (g : BitVec 3) (s : State) : Out :=
  issue (.xscnMaxS d src g) s (inclusive d src maxSW)

/-- XSCN.MIN.F32 (R402). -/
def execXscnMinF32 (d src : BitVec 6) (g : BitVec 3) (s : State) : Out :=
  issue (.xscnMinF32 d src g) s (inclusive d src minF32)

/-- XSCN.MAX.F32 (R402). -/
def execXscnMaxF32 (d src : BitVec 6) (g : BitVec 3) (s : State) : Out :=
  issue (.xscnMaxF32 d src g) s (inclusive d src maxF32)

/-- VOTE.BALLOT (R398). -/
def execVoteBallot (d : BitVec 6) (p g : BitVec 3) (s : State) : Out :=
  issue (.voteBallot d p g) s (perThread d fun c _ => c.ballot p)

/-- VOTE.ANY (R398). -/
def execVoteAny (q p g : BitVec 3) (s : State) : Out :=
  issue (.voteAny q p g) s (perThreadP q fun c _ => c.ballot p != 0)

/-- VOTE.ALL (R398). -/
def execVoteAll (q p g : BitVec 3) (s : State) : Out :=
  issue (.voteAll q p g) s (perThreadP q fun c _ => c.ballot p == c.active)

/-! ### XSHC -/

/-- The partner a k register names (R35): LPID and TRN. -/
def xshcPartner (x : W64) : Nat × Nat := (bitsAt x.toNat 0 8, bitsAt x.toNat 8 6)

/-- A split that waits in XSHC for the train `c` with its registers: workgroup, train, split, word, source, k register. -/
def State.xshcMeets (s : State) (c : Ctx) (name : W64) : Option (Cursor × W32) :=
  let (lpid, trn) := xshcPartner name
  let ws := s.wgs.zipIdx.filter fun e =>
    e.1.slot == c.g.slot && e.1.sub == c.g.sub && e.1.mode == c.g.mode && e.1.lpid == lpid && e.1.runs &&
      clusterOf e.1.lastCore == clusterOf c.core ^^^ 1
  ws.findSome? fun e =>
    match s.train? e.2 trn with
    | some tr => tr.splits.findSome? fun q =>
        match q.wait with
        | .xshc _ word =>
          match Sys2Proof.decode word with
          | some (.xshc _ _ k _) =>
            if xshcPartner (tr.getK k.toNat) = (c.g.lpid, c.tr.trn) ∧ bitsAt (tr.getK k.toNat).toNat 14 50 = 0
            then some (⟨e.2, trn, q.id⟩, word) else none
          | _ => none
        | _ => none
    | none => none

/-- One side of the exchange: it receives the other side's register, logs what it received (R403) and goes on. -/
def State.xshcSide (s : State) (c : Ctx) (d : BitVec 6) (from' : Train) (src : BitVec 6) : State :=
  let s1 := c.threads.foldl (fun s j =>
    s.logValue c.w c.tr.trn j c.sp.dix c.sub false true
      [(from'.exchV j src.toNat).setWidth 64]) s
  (s1.updTrain c.w c.t fun tr => tr.writeV d.toNat (fun j => from'.exchV j src.toNat) c.threads).retire c

/-- A follower takes what its original received from the log (R403); it waits for what is not there yet. -/
def State.xshcFromLog (s : State) (c : Ctx) (d : BitVec 6) : State :=
  let sub := c.sub
  let got := c.threads.foldl (fun (r : Option State) j => match r with
    | none => none
    | some s =>
      match s.takeLog c.w c.tr.trn j c.sp.dix sub with
      | some (vals, s1) => some (s1.updTrain c.w c.t fun tr => tr.setV j d.toNat ((vals.getD 0 0).setWidth 32))
      | none => none) (some s)
  match got with
  | some s1 => s1.retire c
  | none => s.stall c .retry

/-- XSHC (R35, R403). DEDUCED: notes/assumptions/70.md. -/
def execXshc (d src : BitVec 6) (k : BitVec 5) (g : BitVec 3) (s : State) : Out :=
  issue (.xshc d src k g) s fun c s =>
    let name := c.k5 k
    if c.sp.exm = 0 then s.retire c
    else if bitsAt name.toNat 14 50 ≠ 0 ∨ xshcPartner name = (c.g.lpid, c.tr.trn) ∨ c.task.rcd.integ = 3 then
      s.raiseIssue c .illegal 0
    else if c.g.mode = .shadow ∨ c.g.mode = .replay then s.xshcFromLog c d
    else
      match s.xshcMeets c name with
      | some (k', word) =>
        match State.ctx? { s with cur := some k', fetched := word } (.xshc d src k g), Sys2Proof.decode word with
        | some c0, some (.xshc d' src' k2 g') =>
          let c' : Ctx := { c0 with insn := .xshc d' src' k2 g' }
          (s.xshcSide c d c'.tr src').xshcSide c' d' c.tr src
        | _, _ => s
      | none => s.stall c (.xshc s.clock c.word)

/-- XSHC_TIMEOUT (R35, R248): the wait has lasted WDG cycles. -/
def execXshcTimeout (w t p : Nat) (s : State) : Out :=
  event true s fun s =>
    match State.train? s w t, s.wg? w with
    | some tr, some g =>
      match tr.split? p with
      | some q =>
        match q.wait with
        | .xshc since word =>
          match Sys2Proof.decode word with
          | some i =>
            let s1 := { s with clock := max s.clock (since + g.wdg.toNat) }
            match State.ctx? { s1 with cur := some ⟨w, t, p⟩, fetched := word } i, i with
            | some c, .xshc _ _ k _ =>
              if g.wdg = 0 ∨ !g.runs ∨ tr.hmode then s
              else
                (s1.updTrain w t fun tr => tr.updSplit p fun q => { q with wait := .ready }).raise c
                  (c.fault .xshcTimeout (c.k5 k) 0 true false 0)
            | _, _ => s
          | none => s
        | _ => s
      | none => s
    | _, _ => s

end Sys2Proof.Machine
end

