-- ==== Sys2Proof/Machine/Dispatch.lean ====
section
/-! DEFINITION. One arm per constructor of Instr: the meaning of each instruction and event. -/

namespace Sys2Proof.Machine

/-- The effect of one instruction or event. -/
def exec (i : Instr) (s : State) : Host.Outcome State Fault Refusal :=
  match i with
  | .add d a b g => Sys2Proof.Machine.execAdd d a b g s
  | .addc d a b g => Sys2Proof.Machine.execAddc d a b g s
  | .sub d a b g => Sys2Proof.Machine.execSub d a b g s
  | .subb d a b g => Sys2Proof.Machine.execSubb d a b g s
  | .mul d a b g => Sys2Proof.Machine.execMul d a b g s
  | .mulhS d a b g => Sys2Proof.Machine.execMulhS d a b g s
  | .mulhU d a b g => Sys2Proof.Machine.execMulhU d a b g s
  | .minS d a b g => Sys2Proof.Machine.execMinS d a b g s
  | .minU d a b g => Sys2Proof.Machine.execMinU d a b g s
  | .maxS d a b g => Sys2Proof.Machine.execMaxS d a b g s
  | .maxU d a b g => Sys2Proof.Machine.execMaxU d a b g s
  | .abs d a g => Sys2Proof.Machine.execAbs d a g s
  | .neg d a g => Sys2Proof.Machine.execNeg d a g s
  | .popc d a g => Sys2Proof.Machine.execPopc d a g s
  | .clz d a g => Sys2Proof.Machine.execClz d a g s
  | .ctz d a g => Sys2Proof.Machine.execCtz d a g s
  | .brev d a g => Sys2Proof.Machine.execBrev d a g s
  | .mov d a g => Sys2Proof.Machine.execMov d a g s
  | .movVK d a g => Sys2Proof.Machine.execMovVK d a g s
  | .addK d a b => Sys2Proof.Machine.execAddK d a b s
  | .subK d a b => Sys2Proof.Machine.execSubK d a b s
  | .mulK d a b => Sys2Proof.Machine.execMulK d a b s
  | .mulhSK d a b => Sys2Proof.Machine.execMulhSK d a b s
  | .mulhUK d a b => Sys2Proof.Machine.execMulhUK d a b s
  | .minSK d a b => Sys2Proof.Machine.execMinSK d a b s
  | .minUK d a b => Sys2Proof.Machine.execMinUK d a b s
  | .maxSK d a b => Sys2Proof.Machine.execMaxSK d a b s
  | .maxUK d a b => Sys2Proof.Machine.execMaxUK d a b s
  | .absK d a => Sys2Proof.Machine.execAbsK d a s
  | .negK d a => Sys2Proof.Machine.execNegK d a s
  | .popcK d a => Sys2Proof.Machine.execPopcK d a s
  | .clzK d a => Sys2Proof.Machine.execClzK d a s
  | .ctzK d a => Sys2Proof.Machine.execCtzK d a s
  | .brevK d a => Sys2Proof.Machine.execBrevK d a s
  | .movK d a => Sys2Proof.Machine.execMovK d a s
  | .and d a b g => Sys2Proof.Machine.execAnd d a b g s
  | .andn d a b g => Sys2Proof.Machine.execAndn d a b g s
  | .or d a b g => Sys2Proof.Machine.execOr d a b g s
  | .xor d a b g => Sys2Proof.Machine.execXor d a b g s
  | .not d a g => Sys2Proof.Machine.execNot d a g s
  | .shl d a b g => Sys2Proof.Machine.execShl d a b g s
  | .shr d a b g => Sys2Proof.Machine.execShr d a b g s
  | .sra d a b g => Sys2Proof.Machine.execSra d a b g s
  | .rot d a b g => Sys2Proof.Machine.execRot d a b g s
  | .bfxU d a b g => Sys2Proof.Machine.execBfxU d a b g s
  | .bfxS d a b g => Sys2Proof.Machine.execBfxS d a b g s
  | .andK d a b => Sys2Proof.Machine.execAndK d a b s
  | .andnK d a b => Sys2Proof.Machine.execAndnK d a b s
  | .orK d a b => Sys2Proof.Machine.execOrK d a b s
  | .xorK d a b => Sys2Proof.Machine.execXorK d a b s
  | .notK d a => Sys2Proof.Machine.execNotK d a s
  | .shlK d a b => Sys2Proof.Machine.execShlK d a b s
  | .shrK d a b => Sys2Proof.Machine.execShrK d a b s
  | .sraK d a b => Sys2Proof.Machine.execSraK d a b s
  | .rotK d a b => Sys2Proof.Machine.execRotK d a b s
  | .bfxUK d a b => Sys2Proof.Machine.execBfxUK d a b s
  | .bfxSK d a b => Sys2Proof.Machine.execBfxSK d a b s
  | .mad d a b g => Sys2Proof.Machine.execMad d a b g s
  | .bfi d a b g => Sys2Proof.Machine.execBfi d a b g s
  | .lea0 d a b g => Sys2Proof.Machine.execLea0 d a b g s
  | .lea1 d a b g => Sys2Proof.Machine.execLea1 d a b g s
  | .lea2 d a b g => Sys2Proof.Machine.execLea2 d a b g s
  | .lea3 d a b g => Sys2Proof.Machine.execLea3 d a b g s
  | .cmp p m a b u k g => Sys2Proof.Machine.execCmp p m a b u k g s
  | .sel d a b p g => Sys2Proof.Machine.execSel d a b p g s
  | .divU d a b l g => Sys2Proof.Machine.execDivU d a b l g s
  | .remU d a b l g => Sys2Proof.Machine.execRemU d a b l g s
  | .divS d a b l g => Sys2Proof.Machine.execDivS d a b l g s
  | .remS d a b l g => Sys2Proof.Machine.execRemS d a b l g s
  | .fadd d a b t g => Sys2Proof.Machine.execFadd d a b t g s
  | .fsub d a b t g => Sys2Proof.Machine.execFsub d a b t g s
  | .fmul d a b t g => Sys2Proof.Machine.execFmul d a b t g s
  | .fmin d a b t g => Sys2Proof.Machine.execFmin d a b t g s
  | .fmax d a b t g => Sys2Proof.Machine.execFmax d a b t g s
  | .frnd d a t g => Sys2Proof.Machine.execFrnd d a t g s
  | .ffma d a b t g => Sys2Proof.Machine.execFfma d a b t g s
  | .ffmaSub d a b t g => Sys2Proof.Machine.execFfmaSub d a b t g s
  | .ffmaNeg d a b t g => Sys2Proof.Machine.execFfmaNeg d a b t g s
  | .fcmp p m a b t k g => Sys2Proof.Machine.execFcmp p m a b t k g s
  | .fdiv d a b l g => Sys2Proof.Machine.execFdiv d a b l g s
  | .fsqrt d src l g => Sys2Proof.Machine.execFsqrt d src l g s
  | .frcp d src l g => Sys2Proof.Machine.execFrcp d src l g s
  | .frsq d src l g => Sys2Proof.Machine.execFrsq d src l g s
  | .fsinp d src l g => Sys2Proof.Machine.execFsinp d src l g s
  | .fcosp d src l g => Sys2Proof.Machine.execFcosp d src l g s
  | .fex2 d src l g => Sys2Proof.Machine.execFex2 d src l g s
  | .flg2 d src l g => Sys2Proof.Machine.execFlg2 d src l g s
  | .packBf16 d a b g => Sys2Proof.Machine.execPackBf16 d a b g s
  | .packF16 d a b g => Sys2Proof.Machine.execPackF16 d a b g s
  | .unpkBf16Lo d src g => Sys2Proof.Machine.execUnpkBf16Lo d src g s
  | .unpkBf16Hi d src g => Sys2Proof.Machine.execUnpkBf16Hi d src g s
  | .unpkF16Lo d src g => Sys2Proof.Machine.execUnpkF16Lo d src g s
  | .unpkF16Hi d src g => Sys2Proof.Machine.execUnpkF16Hi d src g s
  | .hcvt t src x ix f l w n => Sys2Proof.Machine.execHcvt t src x ix f l w n s
  | .cvt d src f t r g => Sys2Proof.Machine.execCvt d src f t r g s
  | .addImm d a ix g => Sys2Proof.Machine.execAddImm d a ix g s
  | .andImm d a ix g => Sys2Proof.Machine.execAndImm d a ix g s
  | .orImm d a ix g => Sys2Proof.Machine.execOrImm d a ix g s
  | .xorImm d a ix g => Sys2Proof.Machine.execXorImm d a ix g s
  | .shlImm d a n g => Sys2Proof.Machine.execShlImm d a n g s
  | .shrImm d a n g => Sys2Proof.Machine.execShrImm d a n g s
  | .sraImm d a n g => Sys2Proof.Machine.execSraImm d a n g s
  | .rotImm d a n g => Sys2Proof.Machine.execRotImm d a n g s
  | .cmpImm p m a k u ix g => Sys2Proof.Machine.execCmpImm p m a k u ix g s
  | .movi d ix g => Sys2Proof.Machine.execMovi d ix g s
  | .moviHi d ix g => Sys2Proof.Machine.execMoviHi d ix g s
  | .addKImm d a ix => Sys2Proof.Machine.execAddKImm d a ix s
  | .moviK d ix q => Sys2Proof.Machine.execMoviK d ix q s
  | .cmpK d a b u k => Sys2Proof.Machine.execCmpK d a b u k s
  | .ld d x k w l g => Sys2Proof.Machine.execLd d x k w l g s
  | .ldS d x k w l g => Sys2Proof.Machine.execLdS d x k w l g s
  | .st d x k w l g => Sys2Proof.Machine.execSt d x k w l g s
  | .ldk d x k w l => Sys2Proof.Machine.execLdk d x k w l s
  | .stk d x k w l => Sys2Proof.Machine.execStk d x k w l s
  | .atomAdd d x k l g => Sys2Proof.Machine.execAtomAdd d x k l g s
  | .atomAnd d x k l g => Sys2Proof.Machine.execAtomAnd d x k l g s
  | .atomOr d x k l g => Sys2Proof.Machine.execAtomOr d x k l g s
  | .atomXor d x k l g => Sys2Proof.Machine.execAtomXor d x k l g s
  | .atomMinS d x k l g => Sys2Proof.Machine.execAtomMinS d x k l g s
  | .atomMaxS d x k l g => Sys2Proof.Machine.execAtomMaxS d x k l g s
  | .atomMinU d x k l g => Sys2Proof.Machine.execAtomMinU d x k l g s
  | .atomMaxU d x k l g => Sys2Proof.Machine.execAtomMaxU d x k l g s
  | .atomExch32 d x k l g => Sys2Proof.Machine.execAtomExch32 d x k l g s
  | .atomCas32 d x k l g => Sys2Proof.Machine.execAtomCas32 d x k l g s
  | .atomAdd64 d x k l g => Sys2Proof.Machine.execAtomAdd64 d x k l g s
  | .atomExch64 d x k l g => Sys2Proof.Machine.execAtomExch64 d x k l g s
  | .atomCas64 d x k l g => Sys2Proof.Machine.execAtomCas64 d x k l g s
  | .atomFaddF32 d x k l g => Sys2Proof.Machine.execAtomFaddF32 d x k l g s
  | .atomFaddBf16x2 d x k l g => Sys2Proof.Machine.execAtomFaddBf16x2 d x k l g s
  | .fence src k => Sys2Proof.Machine.execFence src k s
  | .cpyG2s a b n v z l => Sys2Proof.Machine.execCpyG2s a b n v z l s
  | .cpyS2g a b n v z l => Sys2Proof.Machine.execCpyS2g a b n v z l s
  | .cpytG2s a b n v z l => Sys2Proof.Machine.execCpytG2s a b n v z l s
  | .cpytS2g a b n v z l => Sys2Proof.Machine.execCpytS2g a b n v z l s
  | .cpym a b n v z l t => Sys2Proof.Machine.execCpym a b n v z l t s
  | .bini a n l => Sys2Proof.Machine.execBini a n l s
  | .barv n l => Sys2Proof.Machine.execBarv n l s
  | .bexp a n l => Sys2Proof.Machine.execBexp a n l s
  | .btst a n l => Sys2Proof.Machine.execBtst a n l s
  | .bwait a n l => Sys2Proof.Machine.execBwait a n l s
  | .clstAg a n l f => Sys2Proof.Machine.execClstAg a n l f s
  | .clstRs a n l f => Sys2Proof.Machine.execClstRs a n l f s
  | .clstAr a n l f => Sys2Proof.Machine.execClstAr a n l f s
  | .clstBc a n l f => Sys2Proof.Machine.execClstBc a n l f s
  | .evpst a l => Sys2Proof.Machine.execEvpst a l s
  | .rfnc l => Sys2Proof.Machine.execRfnc l s
  | .audm a l => Sys2Proof.Machine.execAudm a l s
  | .digr a l => Sys2Proof.Machine.execDigr a l s
  | .snap d a l => Sys2Proof.Machine.execSnap d a l s
  | .sacc h l => Sys2Proof.Machine.execSacc h l s
  | .srej h l src => Sys2Proof.Machine.execSrej h l src s
  | .sqry d h l => Sys2Proof.Machine.execSqry d h l s
  | .hgiv h p l => Sys2Proof.Machine.execHgiv h p l s
  | .htak d h l => Sys2Proof.Machine.execHtak d h l s
  | .hmap d o l => Sys2Proof.Machine.execHmap d o l s
  | .hfls h l => Sys2Proof.Machine.execHfls h l s
  | .lnch d b l => Sys2Proof.Machine.execLnch d b l s
  | .evpop d b l => Sys2Proof.Machine.execEvpop d b l s
  | .trel d t l => Sys2Proof.Machine.execTrel d t l s
  | .xchUp d src k g => Sys2Proof.Machine.execXchUp d src k g s
  | .xchDn d src k g => Sys2Proof.Machine.execXchDn d src k g s
  | .xchXor d src k g => Sys2Proof.Machine.execXchXor d src k g s
  | .xchIdx d src g => Sys2Proof.Machine.execXchIdx d src g s
  | .xbc d src k g => Sys2Proof.Machine.execXbc d src k g s
  | .xredAddI32 d src g => Sys2Proof.Machine.execXredAddI32 d src g s
  | .xredAddF32 d src g => Sys2Proof.Machine.execXredAddF32 d src g s
  | .xredMinS d src g => Sys2Proof.Machine.execXredMinS d src g s
  | .xredMaxS d src g => Sys2Proof.Machine.execXredMaxS d src g s
  | .xredMinF32 d src g => Sys2Proof.Machine.execXredMinF32 d src g s
  | .xredMaxF32 d src g => Sys2Proof.Machine.execXredMaxF32 d src g s
  | .xscnAddI32 d src g => Sys2Proof.Machine.execXscnAddI32 d src g s
  | .xscnAddF32 d src g => Sys2Proof.Machine.execXscnAddF32 d src g s
  | .xscnMinS d src g => Sys2Proof.Machine.execXscnMinS d src g s
  | .xscnMaxS d src g => Sys2Proof.Machine.execXscnMaxS d src g s
  | .xscnMinF32 d src g => Sys2Proof.Machine.execXscnMinF32 d src g s
  | .xscnMaxF32 d src g => Sys2Proof.Machine.execXscnMaxF32 d src g s
  | .voteBallot d p g => Sys2Proof.Machine.execVoteBallot d p g s
  | .voteAny q p g => Sys2Proof.Machine.execVoteAny q p g s
  | .voteAll q p g => Sys2Proof.Machine.execVoteAll q p g s
  | .xshc d src k g => Sys2Proof.Machine.execXshc d src k g s
  | .bra k c o => Sys2Proof.Machine.execBra k c o s
  | .brd p n o => Sys2Proof.Machine.execBrd p n o s
  | .call o => Sys2Proof.Machine.execCall o s
  | .calli src g => Sys2Proof.Machine.execCalli src g s
  | .ret src => Sys2Proof.Machine.execRet src s
  | .join => Sys2Proof.Machine.execJoin s
  | .exit g => Sys2Proof.Machine.execExit g s
  | .maskAnd n p => Sys2Proof.Machine.execMaskAnd n p s
  | .maskSet n p => Sys2Proof.Machine.execMaskSet n p s
  | .tld t src x ix f l k => Sys2Proof.Machine.execTld t src x ix f l k s
  | .tst t src x ix f l k => Sys2Proof.Machine.execTst t src x ix f l k s
  | .tzr t src x ix f l => Sys2Proof.Machine.execTzr t src x ix f l s
  | .azr x ix l => Sys2Proof.Machine.execAzr x ix l s
  | .ard t h x ix f l => Sys2Proof.Machine.execArd t h x ix f l s
  | .awr t h x ix f l => Sys2Proof.Machine.execAwr t h x ix f l s
  | .asv a x ix l => Sys2Proof.Machine.execAsv a x ix l s
  | .ars a x ix l => Sys2Proof.Machine.execArs a x ix l s
  | .lstat t h f l => Sys2Proof.Machine.execLstat t h f l s
  | .lstatN32 t h f l => Sys2Proof.Machine.execLstatN32 t h f l s
  | .plsw l => Sys2Proof.Machine.execPlsw l s
  | .mstr t h x ix f l => Sys2Proof.Machine.execMstr t h x ix f l s
  | .mstrN32 t h x ix f l => Sys2Proof.Machine.execMstrN32 t h x ix f l s
  | .immx p => Sys2Proof.Machine.execImmx p s
  | .hintMem a o src => Sys2Proof.Machine.execHintMem a o src s
  | .hintAri t r => Sys2Proof.Machine.execHintAri t r s
  | .csrr d c g => Sys2Proof.Machine.execCsrr d c g s
  | .csrw k c => Sys2Proof.Machine.execCsrw k c s
  | .csrwExm k => Sys2Proof.Machine.execCsrwExm k s
  | .csrwStat k => Sys2Proof.Machine.execCsrwStat k s
  | .csrwAcown k => Sys2Proof.Machine.execCsrwAcown k s
  | .csrwTvec k => Sys2Proof.Machine.execCsrwTvec k s
  | .csrwWdg k => Sys2Proof.Machine.execCsrwWdg k s
  | .csrwPrivb k => Sys2Proof.Machine.execCsrwPrivb k s
  | .trap => Sys2Proof.Machine.execTrap s
  | .rft => Sys2Proof.Machine.execRft s
  | .svc k => Sys2Proof.Machine.execSvc k s
  | .wait k => Sys2Proof.Machine.execWait k s
  | .nop d => Sys2Proof.Machine.execNop d s
  | .write f => Sys2Proof.Machine.execWrite f s
  | .read f => Sys2Proof.Machine.execRead f s
  | .submit f => Sys2Proof.Machine.execSubmit f s
  | .cancel f => Sys2Proof.Machine.execCancel f s
  | .retry f => Sys2Proof.Machine.execRetry f s
  | .cfgw f => Sys2Proof.Machine.execCfgw f s
  | .cfgwWayMask f => Sys2Proof.Machine.execCfgwWayMask f s
  | .cfgwTroot f => Sys2Proof.Machine.execCfgwTroot f s
  | .cfgwPartition f => Sys2Proof.Machine.execCfgwPartition f s
  | .cfgwHandlerDesc f => Sys2Proof.Machine.execCfgwHandlerDesc f s
  | .cfgwLeakyBucket f => Sys2Proof.Machine.execCfgwLeakyBucket f s
  | .cfgwPairctl f => Sys2Proof.Machine.execCfgwPairctl f s
  | .cfgr f => Sys2Proof.Machine.execCfgr f s
  | .pageUnmap f len => Sys2Proof.Machine.execPageUnmap f len s
  | .pageProtect f len leaf => Sys2Proof.Machine.execPageProtect f len leaf s
  | .pageDiscard f len => Sys2Proof.Machine.execPageDiscard f len s
  | .pageMigrate f len leaf => Sys2Proof.Machine.execPageMigrate f len leaf s
  | .splinter => Sys2Proof.Machine.execSplinter s
  | .pair f => Sys2Proof.Machine.execPair f s
  | .unpair f => Sys2Proof.Machine.execUnpair f s
  | .powerRun f => Sys2Proof.Machine.execPowerRun f s
  | .powerRunLow f => Sys2Proof.Machine.execPowerRunLow f s
  | .powerHold f => Sys2Proof.Machine.execPowerHold f s
  | .powerOff f => Sys2Proof.Machine.execPowerOff f s
  | .powerGate f => Sys2Proof.Machine.execPowerGate f s
  | .powerUngate f => Sys2Proof.Machine.execPowerUngate f s
  | .repair f bank row => Sys2Proof.Machine.execRepair f bank row s
  | .attest f => Sys2Proof.Machine.execAttest f s
  | .unknownCommand f cmd => Sys2Proof.Machine.execUnknownCommand f cmd s
  | .ethernetIngressDrop f => Sys2Proof.Machine.execEthernetIngressDrop f s
  | .bringUp imageOk up dup => Sys2Proof.Machine.execBringUp imageOk up dup s
  | .thermalTrip => Sys2Proof.Machine.execThermalTrip s
  | .linkDown port reason => Sys2Proof.Machine.execLinkDown port reason s
  | .linkRetrain port lowHalf highHalf sameId => Sys2Proof.Machine.execLinkRetrain port lowHalf highHalf sameId s
  | .linkLoss port => Sys2Proof.Machine.execLinkLoss port s
  | .portStatusReport chip upTo => Sys2Proof.Machine.execPortStatusReport chip upTo s
  | .flitReceive port chan crcOk => Sys2Proof.Machine.execFlitReceive port chan crcOk s
  | .pauseFlit port chan => Sys2Proof.Machine.execPauseFlit port chan s
  | .resumeFlit port chan => Sys2Proof.Machine.execResumeFlit port chan s
  | .remoteRequest chip r => Sys2Proof.Machine.execRemoteRequest chip r s
  | .collectiveContribution coll chip c => Sys2Proof.Machine.execCollectiveContribution coll chip c s
  | .homeWriteGrant w t e => Sys2Proof.Machine.execHomeWriteGrant w t e s
  | .l2Fill line tenant errs => Sys2Proof.Machine.execL2Fill line tenant errs s
  | .correctedError site => Sys2Proof.Machine.execCorrectedError site s
  | .classifierEntryExpiry ctl idx => Sys2Proof.Machine.execClassifierEntryExpiry ctl idx s
  | .leakyBucketLeak idx => Sys2Proof.Machine.execLeakyBucketLeak idx s
  | .wayRemovalLine slice tenant => Sys2Proof.Machine.execWayRemovalLine slice tenant s
  | .storeBufferDrain w t e => Sys2Proof.Machine.execStoreBufferDrain w t e s
  | .writeAck w t e => Sys2Proof.Machine.execWriteAck w t e s
  | .fenceMarkerAck w t d => Sys2Proof.Machine.execFenceMarkerAck w t d s
  | .loadReturn w t o ix d => Sys2Proof.Machine.execLoadReturn w t o ix d s
  | .atomicResponse idx old fail => Sys2Proof.Machine.execAtomicResponse idx old fail s
  | .requestReturnExpiry w t o ix => Sys2Proof.Machine.execRequestReturnExpiry w t o ix s
  | .longLatencyComplete w t o => Sys2Proof.Machine.execLongLatencyComplete w t o s
  | .translationWalk core tenant vpage => Sys2Proof.Machine.execTranslationWalk core tenant vpage s
  | .pageRevival tenant vpage => Sys2Proof.Machine.execPageRevival tenant vpage s
  | .linePull frame line d tags => Sys2Proof.Machine.execLinePull frame line d tags s
  | .trapEntry w t => Sys2Proof.Machine.execTrapEntry w t s
  | .splitReload w t => Sys2Proof.Machine.execSplitReload w t s
  | .waitExpiry w t p => Sys2Proof.Machine.execWaitExpiry w t p s
  | .clusterBarrierArrival w b => Sys2Proof.Machine.execClusterBarrierArrival w b s
  | .clusterBarrierBroadcast w b => Sys2Proof.Machine.execClusterBarrierBroadcast w b s
  | .barrierTimeout w b => Sys2Proof.Machine.execBarrierTimeout w b s
  | .xshcTimeout w t p => Sys2Proof.Machine.execXshcTimeout w t p s
  | .streamerCommandStart c => Sys2Proof.Machine.execStreamerCommandStart c s
  | .streamerWrite c d => Sys2Proof.Machine.execStreamerWrite c d s
  | .streamerCommandComplete c => Sys2Proof.Machine.execStreamerCommandComplete c s
  | .sequencerStart q d tags => Sys2Proof.Machine.execSequencerStart q d tags s
  | .mstrChunkPass q => Sys2Proof.Machine.execMstrChunkPass q s
  | .sequencerComplete q => Sys2Proof.Machine.execSequencerComplete q s
  | .snapshotCommandStart dom => Sys2Proof.Machine.execSnapshotCommandStart dom s
  | .svcAnswer w t => Sys2Proof.Machine.execSvcAnswer w t s
  | .preemptRequest w => Sys2Proof.Machine.execPreemptRequest w s
  | .coreHalt w => Sys2Proof.Machine.execCoreHalt w s
  | .contextSave w => Sys2Proof.Machine.execContextSave w s
  | .contextResume w core => Sys2Proof.Machine.execContextResume w core s
  | .dispatchSelection => Sys2Proof.Machine.execDispatchSelection s
  | .timeSliceExpiry w => Sys2Proof.Machine.execTimeSliceExpiry w s
  | .leaseResolve slot => Sys2Proof.Machine.execLeaseResolve slot s
  | .taskRetire slot => Sys2Proof.Machine.execTaskRetire slot s
  | .workgroupEnd w => Sys2Proof.Machine.execWorkgroupEnd w s
  | .completionRecordPost ix => Sys2Proof.Machine.execCompletionRecordPost ix s
  | .checkpointClose slot => Sys2Proof.Machine.execCheckpointClose slot s
  | .comparatorRequest w t => Sys2Proof.Machine.execComparatorRequest w t s
  | .comparatorTimeout w t => Sys2Proof.Machine.execComparatorTimeout w t s
  | .auditReplay slot wgid core => Sys2Proof.Machine.execAuditReplay slot wgid core s
  | .lehrExhaustion slot => Sys2Proof.Machine.execLehrExhaustion slot s
  | .timeSyncMessage port offset => Sys2Proof.Machine.execTimeSyncMessage port offset s
  | .gateControlListAdvance port => Sys2Proof.Machine.execGateControlListAdvance port s

end Sys2Proof.Machine
end

