-- ==== Sys2Proof/Machine/Next.lean ====
section
/-! DEFINITION. What one step of the machine does: an instruction is fetched (R260) and issued by the split that its lane picks
(R32), or an event happens. `State.agenda` says which moves come first; where it is empty the machine goes on by itself in the
fixed order of this file (DESIGN CHOICE, notes/assumptions/2.md). -/

namespace Sys2Proof.Machine

/-- Go on from a next state. -/
def afterMove (o : Out) (f : State → State) : Out :=
  match o with
  | .next s => .next (f s)
  | .fault r => .fault r
  | .refused r => .refused r

/-! ### Instructions -/

/-- The split at the program counter fetches its word and executes it (R260). DEDUCED: notes/assumptions/77.md. -/
def State.runSplit (s : State) (w t p : Nat) : Out :=
  let s0 := { s with cur := some ⟨w, t, p⟩ }
  match s0.ctx? (.nop 0) with
  | none => .next s
  | some c =>
    match s0.fetchAt c.core c.task c.tr.hmode c.sp.pc.toNat with
    | .word x =>
      let s1 := { s0.noteFetch c.core c.task c.tr.hmode c.sp.pc.toNat with fetched := x }
      match Sys2Proof.decode x with
      | some i => exec i s1
      | none =>
        match s1.ctx? (.nop 0) with
        | some c => .next (s1.raiseIssue { c with word := x } .illegal 0)
        | none => .next s1
    | .fault cause => .next (State.raiseUniform { s0 with fetched := 0 } { c with word := 0 } cause c.sp.pc)
    | .remote pa => .next (s0.askLine c pa)

/-- Whether a split is ready to issue (R32). -/
def Train.readySplit (tr : Train) (q : Split) : Bool :=
  q.spilled.isNone && !q.parked && (!tr.hmode || q.id == tr.hsplit) && match q.wait with
    | .ready => true
    | .flipped _ => true
    | _ => false

/-- Whether a train issues at all: its workgroup is on a core and its tiles are restored (R209), its task goes on, no trap waits for its
entry, the comparator has taken what it sent, and a frame that it wrote has been performed (R241). -/
def State.trainIssues (s : State) (w : Nat) (tr : Train) : Bool :=
  !tr.ended && !tr.trapDue && tr.cmp.isEmpty && !(tr.sb.any fun e => e.isFrame && e.stage != .granted) && !s.restoring w &&
    match s.wg? w with
    | some g => g.live && (s.taskOf? g).any fun t => t.endInfo.isNone
    | none => false

/-- A candidate of a lane with its rank (R32): the lane's issues, so that no lane is left behind; the lane; how long the split
has not issued; its population, PC and TRN. -/
structure Ready where
  rank : List Int
  w : Nat
  t : Nat
  p : Nat
  deriving DecidableEq, Repr

/-- Lexicographic order of ranks: the lower goes first. -/
def rankLt : List Int → List Int → Bool
  | a :: as, b :: bs => decide (a < b) || (a == b && rankLt as bs)
  | [], _ :: _ => true
  | _, [] => false

/-- The candidates among a train's splits (R32). Once a halt was delivered only the word after a prefix still issues (R43). Candidates
equal in all that R32 names go by workgroup, then by split; DESIGN CHOICE: notes/assumptions/92.md. -/
def State.readyOf (s : State) (w t : Nat) (tr : Train) : List Ready :=
  match s.wg? w with
  | some g =>
    if !s.trainIssues w tr then []
    else
      let lane := laneOf tr.trn
      let n := (s.core g.lastCore).lanes.val 0 lane
      (tr.splits.filter fun q => tr.readySplit q && (g.runs || q.pfx.isSome)).map fun q =>
        ⟨[n, g.lastCore, lane, q.last, 32 - maskCount q.exm, q.pc.toNat, tr.trn, w, q.id], w, t, q.id⟩
  | none => []

/-- The candidate that goes first. -/
def firstReady (rs : List Ready) : Option Ready :=
  rs.foldl (fun (b : Option Ready) r => match b with
    | none => some r
    | some x => if rankLt r.rank x.rank then some r else some x) none

/-- Every candidate of every lane. -/
def State.allReady (s : State) : List Ready := s.trains.flatMap fun e => s.readyOf (e.1 / 64) (e.1 % 64) e.2

/-- Whether the table of a train changes before it issues on (R30). -/
def Train.reloadDue (tr : Train) : Bool := tr.reload.splits.map Split.spilled != tr.splits.map Split.spilled

/-- Splits that are due come back to the table of a train at its instruction boundary (R30, R33). -/
def State.reloadTrain (w t : Nat) : Nat → State → State
  | 0, s => s
  | n + 1, s => if (s.train? w t).any Train.reloadDue then State.reloadTrain w t n (s.updTable w t Train.reload) else s

/-- A train has reached an instruction boundary: its spilled splits that are due are back before its lane picks. -/
def State.atIssue (s : State) (r : Ready) : State := State.reloadTrain r.w r.t 24 s

/-- The candidates of the lane of a train (R32). -/
def State.laneReady (s : State) (w t : Nat) : List Ready :=
  match s.wg? w, s.train? w t with
  | some g, some tr => s.trains.flatMap fun e => if laneOf e.2.trn = laneOf tr.trn ∧ (s.wg? (e.1 / 64)).any (fun h => h.core? == g.core?)
      then s.readyOf (e.1 / 64) (e.1 % 64) e.2 else []
  | _, _ => []

/-- The lane of a train issues, if a split on it is ready (R32). -/
def State.issueTrain (s : State) (w t : Nat) : Out :=
  let s0 := (s.laneReady w t).foldl State.atIssue s
  match firstReady (s0.laneReady w t) with
  | some r => s0.runSplit r.w r.t r.p
  | none => .next s0

/-! ### Halts within an instruction -/

/-- Whether a halt may fall between the thread steps of an instruction (R43). -/
def stepwise (i : Instr) : Bool :=
  isPerThread i && match i with
    | .brd _ _ _ => false
    | .calli _ _ => false
    | i => major i != 0x30 && major i != 0x31 && major i != 0x32 && major i != 0x33

/-- The first `n` threads of a mask (R20). -/
def firstThreads (m : Mask) (n : Nat) : Mask := maskOf fun j => ((maskThreads m).take n).contains j

/-- What a halt after some thread steps leaves of an issue that `s` began and whose steps for the threads outside `rest` stand in `s2`
(R43): the split stands at its instruction with those threads done, and nothing has been counted. -/
def State.cutBack (s s2 : State) (r : Ready) (core : Nat) (tr : Train) (q : Split) (steps rest : Mask) : State :=
  (s2.setCore core { s2.core core with lanes := (s.core core).lanes }).updTrain r.w r.t fun tr2 =>
    { (tr2.updSplit r.p fun q2 => { q2 with
        pc := q.pc, dix := q.dix, pfx := none, last := q.last, wait := .ready, done := q.done ||| steps, part := none, rel := none }) with
      issues := tr.issues, hcount := tr.hcount
      outst := tr2.outst.map fun o =>
        if o.id < tr.nextId then { o with window := ((tr.outst? o.id).map fun x => x.window).getD o.window }
        else if o.split = r.p then { o with done := o.done &&& ~~~rest } else o }

/-- The instruction that a split is about to issue is cut after `n` thread steps (R43); one that cannot be, or that stops by itself, is
issued whole. -/
def State.cutSplit (s : State) (r : Ready) (n : Nat) : Out :=
  let whole := s.runSplit r.w r.t r.p
  match ({ s with cur := some ⟨r.w, r.t, r.p⟩ } : State).ctx? (.nop 0) with
  | none => whole
  | some c =>
    match s.fetchAt c.core c.task c.tr.hmode c.sp.pc.toNat with
    | .word x =>
      match Sys2Proof.decode x with
      | some i =>
        let m := ({ c with insn := i } : Ctx).active
        let steps := firstThreads m n
        let rest := m &&& ~~~steps
        if !stepwise i || c.sp.pfx.isSome || rest = 0 || n = 0 then whole
        else
          match (s.updTrain r.w r.t fun tr => tr.updSplit r.p fun q => { q with done := q.done ||| rest }).runSplit r.w r.t r.p with
          | .next s2 =>
            match (s2.train? r.w r.t).bind fun tr => tr.split? r.p with
            | some q2 =>
              if q2.pc = c.next && q2.wait == .ready && q2.done = 0 then .next (s.cutBack s2 r c.core c.tr c.sp steps rest) else whole
            | none => whole
          | _ => whole
      | none => whole
    | _ => whole

/-- The lane of a train is `n` steps into an instruction of a workgroup. -/
def State.cutTrain (s : State) (w t n : Nat) : Out :=
  match firstReady (s.laneReady w t) with
  | some r => if r.w = w then s.cutSplit r n else .next s
  | none => .next s

/-- A pre-emption request reaches a workgroup in whose trains instructions are under way (R43, R205): each lane finishes its current
step, then the request is delivered. -/
def State.cutAll (w : Nat) : List (Nat × Nat) → List Nat → State → Out
  | [], _, s => execPreemptRequest w s
  | (t, n) :: ts, lanes, s =>
    let lane := laneOf ((s.train? w t).elim 0 fun tr => tr.trn)
    if lanes.contains lane then State.cutAll w ts lanes s
    else
      match s.cutTrain w t n with
      | .next s1 => State.cutAll w ts (lane :: lanes) s1
      | o => o

/-- The same, if a request is on its way. -/
def State.cutMove (s : State) (w : Nat) (ts : List (Nat × Nat)) : Out :=
  if (s.wg? w).any fun g => g.asked && g.runs then State.cutAll w ts [] s else .next s

/-! ### Events -/

/-- An event as a step may take it. -/
abbrev Happens := State → Out

/-- The outcome of an event, if it changes anything. -/
def progress (s : State) (f : Happens) : Option Out :=
  match f s with
  | .next s1 => if s1 = s.wake then none else some (.next s1)
  | _ => none

/-- An event with an argument that another chip sends happens by itself only where the argument does not matter. -/
def onChip (f : RemoteData → Happens) (s : State) : Out :=
  match f ⟨[0], [], []⟩ s, f ⟨[1], [true], []⟩ s with
  | .next a, .next b => if a = b then .next a else .next s.wake
  | a, _ => a

/-- Events of a train's store buffer, outstanding instructions, trap and splits. -/
def trainMoves (w t : Nat) (tr : Train) : List Happens :=
  [execTrapEntry w t, execSvcAnswer w t, execSplitReload w t, execComparatorRequest w t] ++
    (tr.outst.map fun o => execLongLatencyComplete w t o.id) ++
    (tr.outst.flatMap fun o => (List.range o.loads.length).map fun i => onChip (execLoadReturn w t o.id i)) ++
    (tr.sb.flatMap fun e => [execStoreBufferDrain w t e.id, execHomeWriteGrant w t e.id, execWriteAck w t e.id]) ++
    tr.markers.map fun m => execFenceMarkerAck w t m.dest

/-- Events of a workgroup. -/
def wgMoves (w : Nat) : List Happens :=
  ((List.range 16).flatMap fun b => [execClusterBarrierArrival w b, execClusterBarrierBroadcast w b]) ++
    [execPreemptRequest w, execCoreHalt w, execContextSave w, execWorkgroupEnd w]

/-- Events of the engines and the snapshot unit. -/
def State.engineMoves (s : State) : List Happens :=
  (s.strQ.flatMap fun q =>
    [execStreamerCommandStart q.id, onChip (execStreamerWrite q.id), execStreamerCommandComplete q.id]) ++
  (s.seqQ.flatMap fun q =>
    [onChip fun d => execSequencerStart q.id d.bytes ⟨d.poison, d.chk⟩, execMstrChunkPass q.id, execSequencerComplete q.id]) ++
  s.doms.map fun e => execSnapshotCommandStart (e.1 + 1)

/-- Atomics to a lost chip (R237). -/
def State.lostAtomics (s : State) : List Happens :=
  (s.resp.zipIdx.filter fun e => s.destDead (.chip (chipOf e.1.pa))).map fun e => execAtomicResponse e.2 0 none

/-- Revivals, and pulls that an access waits for and whose source lies on this chip (R181, R182). -/
def State.pageMoves (s : State) : List Happens :=
  (s.revivals.map fun r => execPageRevival r.1 r.2) ++
  (s.pulls.filter fun l => s.isLocal ((s.attrOf (l / 32)).srcframe * 4096)).map fun l =>
    execLinePull (l / 32) (l % 32) (List.replicate 128 0) ⟨[], []⟩

/-- Events of a task. -/
def taskMoves (slot : Nat) (t : Task) : List Happens :=
  [execCheckpointClose slot, execTaskRetire slot, execLeaseResolve slot] ++
    if t.rcd.integ = 1 then
      (t.digests.filter fun d => !t.audited.contains d.wgid).flatMap fun d =>
        (List.range 64).map fun c => execAuditReplay slot d.wgid c
    else []

/-- Events of the walker and of the slices for the host (R123, R180). -/
def State.hostMoves (s : State) : List Happens :=
  execSplinter :: (s.wayMask.filter fun e => e.2.busy).map fun e => execWayRemovalLine (e.1 / 16) (e.1 % 16)

/-- What may happen at once, in its order. -/
def State.nowMoves (s : State) : List Happens :=
  (s.trains.flatMap fun e => trainMoves (e.1 / 64) (e.1 % 64) e.2) ++ s.lostAtomics ++ s.engineMoves ++ s.pageMoves ++
    ((List.range s.wgs.length).flatMap wgMoves) ++ (s.tasks.flatMap fun e => taskMoves e.1 e.2) ++
    ((List.range s.posts.length).map fun i => onChip fun d => execCompletionRecordPost ⟨i, d⟩) ++ s.hostMoves ++ [execDispatchSelection]

/-! ### Timers -/

/-- A timer of a core: when it is due, and its event. -/
abbrev Timer := Nat × Happens

/-- Timers of a train (R35, R206, R390). -/
def State.trainTimers (s : State) (w t : Nat) (tr : Train) : List Timer :=
  match s.wg? w with
  | none => []
  | some g =>
    (if !g.runs then []
      else tr.splits.filterMap fun q => match q.wait with
        | .timer due => some (due, execWaitExpiry w t q.id)
        | .xshc since _ => if g.wdg = 0 || tr.hmode then none else some (since + g.wdg.toNat, execXshcTimeout w t q.id)
        | _ => none) ++
    tr.outst.flatMap fun o => (o.loads.zipIdx.filter fun e =>
        e.1.value.isNone && !e.1.expired && (!g.live || e.1.gen != g.ctxgen)).map fun e =>
      (e.1.since + 65536, execRequestReturnExpiry w t o.id e.2)

/-- Timers of a workgroup (R101, R199). -/
def State.wgTimers (s : State) (w : Nat) : List Timer :=
  ((List.range 16).filterMap fun b => (s.watchDue w b).map fun n => (n, execBarrierTimeout w b)) ++
    ((s.sliceDue w).map fun n => (n, execTimeSliceExpiry w)).toList

/-- Timers of the error units (R234, R235), of the controllers and buckets that exist (R9, R254). -/
def State.errorTimers (s : State) : List Timer :=
  ((s.classif.filter fun e => decide (e.1 ≤ 11)).flatMap fun e =>
    e.2.zipIdx.map fun x => (x.1.since + expiryCycles, execClassifierEntryExpiry e.1 x.2)) ++
  (s.buckets.filter fun e => decide (e.1 ≤ 80)).filterMap fun e => e.2.due.map fun n => (n, execLeakyBucketLeak e.1)

/-- Links that stay down (R236), in core cycles, in the order in which they are lost. -/
def State.linkTimers (s : State) : List Timer :=
  ((s.links.zipIdx).filter fun e => decide (e.2 ≤ 2) && s.canLose e.2).map fun e =>
    (e.1.downAt + lossCycles - s.supClock, execLinkLoss e.2)

/-- Every timer of a running chip. -/
def State.timers (s : State) : List Timer :=
  (s.trains.flatMap fun e => s.trainTimers (e.1 / 64) (e.1 % 64) e.2) ++ ((List.range s.wgs.length).flatMap s.wgTimers) ++
    s.errorTimers ++ s.linkTimers

/-- Timers of the comparators (R228), which run out only when nothing else can happen. DESIGN CHOICE:
notes/assumptions/28.md. -/
def State.cmpTimers (s : State) : List Timer :=
  s.trains.filterMap fun e => (s.compareDue (e.1 / 64) (e.1 % 64)).map fun n => (n, execComparatorTimeout (e.1 / 64) (e.1 % 64))

/-- The timer that is due first. -/
def firstTimer (ts : List Timer) : Option Timer :=
  ts.foldl (fun (b : Option Timer) r => match b with
    | none => some r
    | some x => if r.1 < x.1 then some r else some x) none

/-! ### The machine by itself -/

/-- The first timer's event. -/
def State.runTimer (s : State) (ts : List Timer) : Option Out := (firstTimer ts).map fun e => e.2 s

/-- What a running chip does next: what may happen at once, a timer that is due, an instruction, an exhausted LEHR (R230), and
when nothing else can happen the timer that is due next. -/
def State.runChip (s : State) : Out :=
  match s.nowMoves.findSome? (progress s) with
  | some o => o
  | none =>
    match s.runTimer (s.timers.filter fun e => decide (e.1 ≤ s.clock)) with
    | some o => o
    | none =>
      match firstReady s.allReady with
      | some r => s.issueTrain r.w r.t
      | none =>
        match (s.tasks.map fun e => execLehrExhaustion e.1).findSome? (progress s) with
        | some o => o
        | none => (s.runTimer (s.timers ++ s.cmpTimers)).getD (.next s)

/-- What the machine does by itself (R257 to R259): after reset it comes up; without clocks it stands still. -/
def State.runSelf (s : State) : Out :=
  match s.power with
  | .inReset => execBringUp true ⟨0, 0⟩ 0 s
  | .run => s.runChip
  | .runLow => s.runChip
  | .hold => (s.runTimer s.linkTimers).getD (.next s)
  | _ => .next s

/-- One move of the agenda. -/
def State.runMove (s : State) : Move → Out
  | .event i => exec i s
  | .issue w t => s.issueTrain w t
  | .cut w ts => s.cutMove w ts
  | .control c => .next (s.control c)
  | .upset line sector => .next (s.upset line sector)
  | .gates port list => .next (s.loadGates port list)

/-- One step: the agenda's first move, or what the machine does by itself; then the frame engine goes on (R253). -/
def State.oneStep (s : State) : Out :=
  match s.agenda with
  | m :: rest => afterMove (State.runMove { s with agenda := rest } m) State.pump
  | [] => afterMove s.runSelf State.pump

end Sys2Proof.Machine
end

