-- ==== Sys2Proof/Machine/Step.lean ====
section
/-! DEFINITION. One step, and the placing of an instruction where the next step fetches it. -/

namespace Sys2Proof.Machine

/-- One step of the machine (Machine/Next.lean). -/
def step (s : State) : Host.Outcome State Fault Refusal := s.oneStep

/-- Where `State.withFetchWord` places its word: a chip offset, and the virtual address mapped to it. -/
def fetchOffset : Nat := 0x1000

/-- The record of the task that stands for a load from outside (DESIGN CHOICE, notes/assumptions/3.md): one workgroup of one train of 32
threads of tenant 0, with the page of its code leased for reading, writing and execution. -/
def fetchRecord : Record where
  entry := BitVec.ofNat 64 fetchOffset
  wgcount := 1
  wgthr := 32
  prod := 0
  budget := 64
  scratch := 0
  privlim := 0
  l1split := 0
  integ := 0
  audk := 0
  det := false
  coop := false
  matrix := true
  sysprog := true
  evgate := false
  prio := 0
  tenant := 0
  part := 0
  lehr := 0
  seed := 0
  evq := 0
  ckptn := 0
  slots := List.replicate 8 0
  reads := []
  writes := []
  leases := [⟨fetchOffset, 0x1000, true, true, true⟩]

/-- The leaf of the code's page. -/
def State.fetchLeaf (s : State) : W64 := BitVec.ofNat 64 (0x1F + s.boxPa fetchOffset)

/-- The task that stands for a load from outside. -/
def State.fetchTask (s : State) : Task :=
  { Task.fresh 1 fetchRecord 0 none [] with
    st := .running, dispatched := true, nextWg := 1, pins := [⟨fetchOffset / 4096, 0, s.fetchLeaf, false⟩] }

/-- The state with an instruction placed where the next step fetches and runs it: a running chip on whose core 0 a train of a
task stands at it (DESIGN CHOICE, notes/assumptions/3.md). -/
def State.withFetchWord (s : State) (nbits w : Nat) : State :=
  let s1 := s.fillHome fetchOffset (toBytes (w % 2 ^ nbits) 4 ++ List.replicate 124 0) 0
  let t := s.fetchTask
  { s1 with
    power := .run
    tasks := s1.tasks.put 0 t
    wgs := [Wg.start 0 t 0 0 1 (none, 0) .primary 0 0 s.clock 0]
    trains := [(0, Train.start fetchRecord 0 0 (s.boxPa privPool) .ready)]
    cores := s1.cores.put 0 { s1.core 0 with l1 := [], tc := [⟨0, fetchOffset / 4096, 0, s.fetchLeaf, (true, true, true)⟩] }
    agenda := [.issue 0 0] }

end Sys2Proof.Machine
end

