-- ==== Sys2Proof/Laws/PerInstr.lean ====
section
/-! SUPPORT. Decoding gives back what was encoded (R260 to R276), one lemma per constructor of `Instr`. -/

namespace Sys2Proof.Laws

/-! ### Fields of a word -/

theorem field_low {m n : Nat} (x : BitVec m) (y : BitVec n) (s l : Nat) (h : s + l ≤ n) :
    (x ++ y).extractLsb' s l = y.extractLsb' s l := BitVec.extractLsb'_append_eq_of_add_le h

theorem field_high {m n : Nat} (x : BitVec m) (y : BitVec n) (s l : Nat) (h : n ≤ s) :
    (x ++ y).extractLsb' s l = x.extractLsb' (s - n) l := BitVec.extractLsb'_append_eq_of_le h

theorem field_whole {n : Nat} (x : BitVec n) : x.extractLsb' 0 n = x := by simp

theorem field_inside {w : W32} {fs fl : Nat} {k : BitVec fl} (f : w.extractLsb' fs fl = k) (o n : Nat)
    (h : fs ≤ o) (h2 : o + n ≤ fs + fl) : w.extractLsb' o n = k.extractLsb' (o - fs) n := by
  subst f
  ext i hi
  have h3 : o - fs + i < fl := by omega
  have h4 : fs + (o - fs + i) = o + i := by omega
  simp [BitVec.getElem_extractLsb', h3, h4]

/-- A field that a constant of the word contradicts. -/
theorem field_not {w : W32} {s l fs fl : Nat} {k : BitVec fl} {c : BitVec l} (f : w.extractLsb' fs fl = k) (o n : Nat)
    (h : (decide (s ≤ o) && decide (fs ≤ o) && decide (o + n ≤ s + l) && decide (o + n ≤ fs + fl) &&
      k.extractLsb' (o - fs) n != c.extractLsb' (o - s) n) = true) : ¬ w.extractLsb' s l = c := by
  simp only [Bool.and_eq_true, decide_eq_true_eq, bne_iff_ne] at h
  obtain ⟨⟨⟨⟨h1, h2⟩, h3⟩, h4⟩, h5⟩ := h
  intro g
  exact h5 ((field_inside f o n h2 h4).symm.trans (field_inside g o n h1 h3))

/-- A field that lies in a constant of the word. -/
theorem field_is {w : W32} {s l fs fl : Nat} {k : BitVec fl} {c : BitVec l} (f : w.extractLsb' fs fl = k)
    (h : (decide (fs ≤ s) && decide (s + l ≤ fs + fl) && k.extractLsb' (s - fs) l == c) = true) : w.extractLsb' s l = c := by
  simp only [Bool.and_eq_true, decide_eq_true_eq, beq_iff_eq] at h
  obtain ⟨⟨h1, h2⟩, h3⟩ := h
  exact (field_inside f s l h1 h2).trans h3

/-! ### Layouts of words -/

theorem layout0 {x0 : BitVec 6} {x1 : BitVec 6} {x2 : BitVec 6} {x3 : BitVec 6} {x4 : BitVec 5} {x5 : BitVec 3} {w : W32} (h : some (x0 ++ x1 ++ x2 ++ x3 ++ x4 ++ x5 : W32) = some w) :
    w.extractLsb' 26 6 = x0 ∧ w.extractLsb' 20 6 = x1 ∧ w.extractLsb' 14 6 = x2 ∧ w.extractLsb' 8 6 = x3 ∧ w.extractLsb' 3 5 = x4 ∧ w.extractLsb' 0 3 = x5 := by
  obtain rfl := Option.some.inj h
  refine ⟨?_, ?_, ?_, ?_, ?_, ?_⟩
  · rw [field_high (m := 29) (n := 3) _ _ 26 6 (by decide), field_high (m := 24) (n := 5) _ _ 23 6 (by decide), field_high (m := 18) (n := 6) _ _ 18 6 (by decide), field_high (m := 12) (n := 6) _ _ 12 6 (by decide), field_high (m := 6) (n := 6) _ _ 6 6 (by decide)]; exact field_whole _
  · rw [field_high (m := 29) (n := 3) _ _ 20 6 (by decide), field_high (m := 24) (n := 5) _ _ 17 6 (by decide), field_high (m := 18) (n := 6) _ _ 12 6 (by decide), field_high (m := 12) (n := 6) _ _ 6 6 (by decide), field_low (m := 6) (n := 6) _ _ 0 6 (by decide)]; exact field_whole _
  · rw [field_high (m := 29) (n := 3) _ _ 14 6 (by decide), field_high (m := 24) (n := 5) _ _ 11 6 (by decide), field_high (m := 18) (n := 6) _ _ 6 6 (by decide), field_low (m := 12) (n := 6) _ _ 0 6 (by decide)]; exact field_whole _
  · rw [field_high (m := 29) (n := 3) _ _ 8 6 (by decide), field_high (m := 24) (n := 5) _ _ 5 6 (by decide), field_low (m := 18) (n := 6) _ _ 0 6 (by decide)]; exact field_whole _
  · rw [field_high (m := 29) (n := 3) _ _ 3 5 (by decide), field_low (m := 24) (n := 5) _ _ 0 5 (by decide)]; exact field_whole _
  · rw [field_low (m := 29) (n := 3) _ _ 0 3 (by decide)]; exact field_whole _

theorem layout1 {x0 : BitVec 6} {x1 : BitVec 6} {x2 : BitVec 6} {x3 : BitVec 11} {x4 : BitVec 3} {w : W32} (h : some (x0 ++ x1 ++ x2 ++ x3 ++ x4 : W32) = some w) :
    w.extractLsb' 26 6 = x0 ∧ w.extractLsb' 20 6 = x1 ∧ w.extractLsb' 14 6 = x2 ∧ w.extractLsb' 3 11 = x3 ∧ w.extractLsb' 0 3 = x4 := by
  obtain rfl := Option.some.inj h
  refine ⟨?_, ?_, ?_, ?_, ?_⟩
  · rw [field_high (m := 29) (n := 3) _ _ 26 6 (by decide), field_high (m := 18) (n := 11) _ _ 23 6 (by decide), field_high (m := 12) (n := 6) _ _ 12 6 (by decide), field_high (m := 6) (n := 6) _ _ 6 6 (by decide)]; exact field_whole _
  · rw [field_high (m := 29) (n := 3) _ _ 20 6 (by decide), field_high (m := 18) (n := 11) _ _ 17 6 (by decide), field_high (m := 12) (n := 6) _ _ 6 6 (by decide), field_low (m := 6) (n := 6) _ _ 0 6 (by decide)]; exact field_whole _
  · rw [field_high (m := 29) (n := 3) _ _ 14 6 (by decide), field_high (m := 18) (n := 11) _ _ 11 6 (by decide), field_low (m := 12) (n := 6) _ _ 0 6 (by decide)]; exact field_whole _
  · rw [field_high (m := 29) (n := 3) _ _ 3 11 (by decide), field_low (m := 18) (n := 11) _ _ 0 11 (by decide)]; exact field_whole _
  · rw [field_low (m := 29) (n := 3) _ _ 0 3 (by decide)]; exact field_whole _

theorem layout2 {x0 : BitVec 6} {x1 : BitVec 6} {x2 : BitVec 6} {x3 : BitVec 6} {x4 : BitVec 8} {w : W32} (h : some (x0 ++ x1 ++ x2 ++ x3 ++ x4 : W32) = some w) :
    w.extractLsb' 26 6 = x0 ∧ w.extractLsb' 20 6 = x1 ∧ w.extractLsb' 14 6 = x2 ∧ w.extractLsb' 8 6 = x3 ∧ w.extractLsb' 0 8 = x4 := by
  obtain rfl := Option.some.inj h
  refine ⟨?_, ?_, ?_, ?_, ?_⟩
  · rw [field_high (m := 24) (n := 8) _ _ 26 6 (by decide), field_high (m := 18) (n := 6) _ _ 18 6 (by decide), field_high (m := 12) (n := 6) _ _ 12 6 (by decide), field_high (m := 6) (n := 6) _ _ 6 6 (by decide)]; exact field_whole _
  · rw [field_high (m := 24) (n := 8) _ _ 20 6 (by decide), field_high (m := 18) (n := 6) _ _ 12 6 (by decide), field_high (m := 12) (n := 6) _ _ 6 6 (by decide), field_low (m := 6) (n := 6) _ _ 0 6 (by decide)]; exact field_whole _
  · rw [field_high (m := 24) (n := 8) _ _ 14 6 (by decide), field_high (m := 18) (n := 6) _ _ 6 6 (by decide), field_low (m := 12) (n := 6) _ _ 0 6 (by decide)]; exact field_whole _
  · rw [field_high (m := 24) (n := 8) _ _ 8 6 (by decide), field_low (m := 18) (n := 6) _ _ 0 6 (by decide)]; exact field_whole _
  · rw [field_low (m := 24) (n := 8) _ _ 0 8 (by decide)]; exact field_whole _

theorem layout3 {x0 : BitVec 6} {x1 : BitVec 6} {x2 : BitVec 6} {x3 : BitVec 14} {w : W32} (h : some (x0 ++ x1 ++ x2 ++ x3 : W32) = some w) :
    w.extractLsb' 26 6 = x0 ∧ w.extractLsb' 20 6 = x1 ∧ w.extractLsb' 14 6 = x2 ∧ w.extractLsb' 0 14 = x3 := by
  obtain rfl := Option.some.inj h
  refine ⟨?_, ?_, ?_, ?_⟩
  · rw [field_high (m := 18) (n := 14) _ _ 26 6 (by decide), field_high (m := 12) (n := 6) _ _ 12 6 (by decide), field_high (m := 6) (n := 6) _ _ 6 6 (by decide)]; exact field_whole _
  · rw [field_high (m := 18) (n := 14) _ _ 20 6 (by decide), field_high (m := 12) (n := 6) _ _ 6 6 (by decide), field_low (m := 6) (n := 6) _ _ 0 6 (by decide)]; exact field_whole _
  · rw [field_high (m := 18) (n := 14) _ _ 14 6 (by decide), field_low (m := 12) (n := 6) _ _ 0 6 (by decide)]; exact field_whole _
  · rw [field_low (m := 18) (n := 14) _ _ 0 14 (by decide)]; exact field_whole _

theorem layout4 {x0 : BitVec 6} {x1 : BitVec 3} {x2 : BitVec 3} {x3 : BitVec 6} {x4 : BitVec 6} {x5 : BitVec 1} {x6 : BitVec 1} {x7 : BitVec 3} {x8 : BitVec 3} {w : W32} (h : some (x0 ++ x1 ++ x2 ++ x3 ++ x4 ++ x5 ++ x6 ++ x7 ++ x8 : W32) = some w) :
    w.extractLsb' 26 6 = x0 ∧ w.extractLsb' 23 3 = x1 ∧ w.extractLsb' 20 3 = x2 ∧ w.extractLsb' 14 6 = x3 ∧ w.extractLsb' 8 6 = x4 ∧ w.extractLsb' 7 1 = x5 ∧ w.extractLsb' 6 1 = x6 ∧ w.extractLsb' 3 3 = x7 ∧ w.extractLsb' 0 3 = x8 := by
  obtain rfl := Option.some.inj h
  refine ⟨?_, ?_, ?_, ?_, ?_, ?_, ?_, ?_, ?_⟩
  · rw [field_high (m := 29) (n := 3) _ _ 26 6 (by decide), field_high (m := 26) (n := 3) _ _ 23 6 (by decide), field_high (m := 25) (n := 1) _ _ 20 6 (by decide), field_high (m := 24) (n := 1) _ _ 19 6 (by decide), field_high (m := 18) (n := 6) _ _ 18 6 (by decide), field_high (m := 12) (n := 6) _ _ 12 6 (by decide), field_high (m := 9) (n := 3) _ _ 6 6 (by decide), field_high (m := 6) (n := 3) _ _ 3 6 (by decide)]; exact field_whole _
  · rw [field_high (m := 29) (n := 3) _ _ 23 3 (by decide), field_high (m := 26) (n := 3) _ _ 20 3 (by decide), field_high (m := 25) (n := 1) _ _ 17 3 (by decide), field_high (m := 24) (n := 1) _ _ 16 3 (by decide), field_high (m := 18) (n := 6) _ _ 15 3 (by decide), field_high (m := 12) (n := 6) _ _ 9 3 (by decide), field_high (m := 9) (n := 3) _ _ 3 3 (by decide), field_low (m := 6) (n := 3) _ _ 0 3 (by decide)]; exact field_whole _
  · rw [field_high (m := 29) (n := 3) _ _ 20 3 (by decide), field_high (m := 26) (n := 3) _ _ 17 3 (by decide), field_high (m := 25) (n := 1) _ _ 14 3 (by decide), field_high (m := 24) (n := 1) _ _ 13 3 (by decide), field_high (m := 18) (n := 6) _ _ 12 3 (by decide), field_high (m := 12) (n := 6) _ _ 6 3 (by decide), field_low (m := 9) (n := 3) _ _ 0 3 (by decide)]; exact field_whole _
  · rw [field_high (m := 29) (n := 3) _ _ 14 6 (by decide), field_high (m := 26) (n := 3) _ _ 11 6 (by decide), field_high (m := 25) (n := 1) _ _ 8 6 (by decide), field_high (m := 24) (n := 1) _ _ 7 6 (by decide), field_high (m := 18) (n := 6) _ _ 6 6 (by decide), field_low (m := 12) (n := 6) _ _ 0 6 (by decide)]; exact field_whole _
  · rw [field_high (m := 29) (n := 3) _ _ 8 6 (by decide), field_high (m := 26) (n := 3) _ _ 5 6 (by decide), field_high (m := 25) (n := 1) _ _ 2 6 (by decide), field_high (m := 24) (n := 1) _ _ 1 6 (by decide), field_low (m := 18) (n := 6) _ _ 0 6 (by decide)]; exact field_whole _
  · rw [field_high (m := 29) (n := 3) _ _ 7 1 (by decide), field_high (m := 26) (n := 3) _ _ 4 1 (by decide), field_high (m := 25) (n := 1) _ _ 1 1 (by decide), field_low (m := 24) (n := 1) _ _ 0 1 (by decide)]; exact field_whole _
  · rw [field_high (m := 29) (n := 3) _ _ 6 1 (by decide), field_high (m := 26) (n := 3) _ _ 3 1 (by decide), field_low (m := 25) (n := 1) _ _ 0 1 (by decide)]; exact field_whole _
  · rw [field_high (m := 29) (n := 3) _ _ 3 3 (by decide), field_low (m := 26) (n := 3) _ _ 0 3 (by decide)]; exact field_whole _
  · rw [field_low (m := 29) (n := 3) _ _ 0 3 (by decide)]; exact field_whole _

theorem layout5 {x0 : BitVec 6} {x1 : BitVec 6} {x2 : BitVec 6} {x3 : BitVec 6} {x4 : BitVec 3} {x5 : BitVec 2} {x6 : BitVec 3} {w : W32} (h : some (x0 ++ x1 ++ x2 ++ x3 ++ x4 ++ x5 ++ x6 : W32) = some w) :
    w.extractLsb' 26 6 = x0 ∧ w.extractLsb' 20 6 = x1 ∧ w.extractLsb' 14 6 = x2 ∧ w.extractLsb' 8 6 = x3 ∧ w.extractLsb' 5 3 = x4 ∧ w.extractLsb' 3 2 = x5 ∧ w.extractLsb' 0 3 = x6 := by
  obtain rfl := Option.some.inj h
  refine ⟨?_, ?_, ?_, ?_, ?_, ?_, ?_⟩
  · rw [field_high (m := 29) (n := 3) _ _ 26 6 (by decide), field_high (m := 27) (n := 2) _ _ 23 6 (by decide), field_high (m := 24) (n := 3) _ _ 21 6 (by decide), field_high (m := 18) (n := 6) _ _ 18 6 (by decide), field_high (m := 12) (n := 6) _ _ 12 6 (by decide), field_high (m := 6) (n := 6) _ _ 6 6 (by decide)]; exact field_whole _
  · rw [field_high (m := 29) (n := 3) _ _ 20 6 (by decide), field_high (m := 27) (n := 2) _ _ 17 6 (by decide), field_high (m := 24) (n := 3) _ _ 15 6 (by decide), field_high (m := 18) (n := 6) _ _ 12 6 (by decide), field_high (m := 12) (n := 6) _ _ 6 6 (by decide), field_low (m := 6) (n := 6) _ _ 0 6 (by decide)]; exact field_whole _
  · rw [field_high (m := 29) (n := 3) _ _ 14 6 (by decide), field_high (m := 27) (n := 2) _ _ 11 6 (by decide), field_high (m := 24) (n := 3) _ _ 9 6 (by decide), field_high (m := 18) (n := 6) _ _ 6 6 (by decide), field_low (m := 12) (n := 6) _ _ 0 6 (by decide)]; exact field_whole _
  · rw [field_high (m := 29) (n := 3) _ _ 8 6 (by decide), field_high (m := 27) (n := 2) _ _ 5 6 (by decide), field_high (m := 24) (n := 3) _ _ 3 6 (by decide), field_low (m := 18) (n := 6) _ _ 0 6 (by decide)]; exact field_whole _
  · rw [field_high (m := 29) (n := 3) _ _ 5 3 (by decide), field_high (m := 27) (n := 2) _ _ 2 3 (by decide), field_low (m := 24) (n := 3) _ _ 0 3 (by decide)]; exact field_whole _
  · rw [field_high (m := 29) (n := 3) _ _ 3 2 (by decide), field_low (m := 27) (n := 2) _ _ 0 2 (by decide)]; exact field_whole _
  · rw [field_low (m := 29) (n := 3) _ _ 0 3 (by decide)]; exact field_whole _

theorem layout6 {x0 : BitVec 6} {x1 : BitVec 6} {x2 : BitVec 6} {x3 : BitVec 6} {x4 : BitVec 4} {x5 : BitVec 1} {x6 : BitVec 3} {w : W32} (h : some (x0 ++ x1 ++ x2 ++ x3 ++ x4 ++ x5 ++ x6 : W32) = some w) :
    w.extractLsb' 26 6 = x0 ∧ w.extractLsb' 20 6 = x1 ∧ w.extractLsb' 14 6 = x2 ∧ w.extractLsb' 8 6 = x3 ∧ w.extractLsb' 4 4 = x4 ∧ w.extractLsb' 3 1 = x5 ∧ w.extractLsb' 0 3 = x6 := by
  obtain rfl := Option.some.inj h
  refine ⟨?_, ?_, ?_, ?_, ?_, ?_, ?_⟩
  · rw [field_high (m := 29) (n := 3) _ _ 26 6 (by decide), field_high (m := 28) (n := 1) _ _ 23 6 (by decide), field_high (m := 24) (n := 4) _ _ 22 6 (by decide), field_high (m := 18) (n := 6) _ _ 18 6 (by decide), field_high (m := 12) (n := 6) _ _ 12 6 (by decide), field_high (m := 6) (n := 6) _ _ 6 6 (by decide)]; exact field_whole _
  · rw [field_high (m := 29) (n := 3) _ _ 20 6 (by decide), field_high (m := 28) (n := 1) _ _ 17 6 (by decide), field_high (m := 24) (n := 4) _ _ 16 6 (by decide), field_high (m := 18) (n := 6) _ _ 12 6 (by decide), field_high (m := 12) (n := 6) _ _ 6 6 (by decide), field_low (m := 6) (n := 6) _ _ 0 6 (by decide)]; exact field_whole _
  · rw [field_high (m := 29) (n := 3) _ _ 14 6 (by decide), field_high (m := 28) (n := 1) _ _ 11 6 (by decide), field_high (m := 24) (n := 4) _ _ 10 6 (by decide), field_high (m := 18) (n := 6) _ _ 6 6 (by decide), field_low (m := 12) (n := 6) _ _ 0 6 (by decide)]; exact field_whole _
  · rw [field_high (m := 29) (n := 3) _ _ 8 6 (by decide), field_high (m := 28) (n := 1) _ _ 5 6 (by decide), field_high (m := 24) (n := 4) _ _ 4 6 (by decide), field_low (m := 18) (n := 6) _ _ 0 6 (by decide)]; exact field_whole _
  · rw [field_high (m := 29) (n := 3) _ _ 4 4 (by decide), field_high (m := 28) (n := 1) _ _ 1 4 (by decide), field_low (m := 24) (n := 4) _ _ 0 4 (by decide)]; exact field_whole _
  · rw [field_high (m := 29) (n := 3) _ _ 3 1 (by decide), field_low (m := 28) (n := 1) _ _ 0 1 (by decide)]; exact field_whole _
  · rw [field_low (m := 29) (n := 3) _ _ 0 3 (by decide)]; exact field_whole _

theorem layout7 {x0 : BitVec 6} {x1 : BitVec 6} {x2 : BitVec 6} {x3 : BitVec 9} {x4 : BitVec 2} {x5 : BitVec 3} {w : W32} (h : some (x0 ++ x1 ++ x2 ++ x3 ++ x4 ++ x5 : W32) = some w) :
    w.extractLsb' 26 6 = x0 ∧ w.extractLsb' 20 6 = x1 ∧ w.extractLsb' 14 6 = x2 ∧ w.extractLsb' 5 9 = x3 ∧ w.extractLsb' 3 2 = x4 ∧ w.extractLsb' 0 3 = x5 := by
  obtain rfl := Option.some.inj h
  refine ⟨?_, ?_, ?_, ?_, ?_, ?_⟩
  · rw [field_high (m := 29) (n := 3) _ _ 26 6 (by decide), field_high (m := 27) (n := 2) _ _ 23 6 (by decide), field_high (m := 18) (n := 9) _ _ 21 6 (by decide), field_high (m := 12) (n := 6) _ _ 12 6 (by decide), field_high (m := 6) (n := 6) _ _ 6 6 (by decide)]; exact field_whole _
  · rw [field_high (m := 29) (n := 3) _ _ 20 6 (by decide), field_high (m := 27) (n := 2) _ _ 17 6 (by decide), field_high (m := 18) (n := 9) _ _ 15 6 (by decide), field_high (m := 12) (n := 6) _ _ 6 6 (by decide), field_low (m := 6) (n := 6) _ _ 0 6 (by decide)]; exact field_whole _
  · rw [field_high (m := 29) (n := 3) _ _ 14 6 (by decide), field_high (m := 27) (n := 2) _ _ 11 6 (by decide), field_high (m := 18) (n := 9) _ _ 9 6 (by decide), field_low (m := 12) (n := 6) _ _ 0 6 (by decide)]; exact field_whole _
  · rw [field_high (m := 29) (n := 3) _ _ 5 9 (by decide), field_high (m := 27) (n := 2) _ _ 2 9 (by decide), field_low (m := 18) (n := 9) _ _ 0 9 (by decide)]; exact field_whole _
  · rw [field_high (m := 29) (n := 3) _ _ 3 2 (by decide), field_low (m := 27) (n := 2) _ _ 0 2 (by decide)]; exact field_whole _
  · rw [field_low (m := 29) (n := 3) _ _ 0 3 (by decide)]; exact field_whole _

theorem layout8 {x0 : BitVec 6} {x1 : BitVec 3} {x2 : BitVec 3} {x3 : BitVec 6} {x4 : BitVec 6} {x5 : BitVec 2} {x6 : BitVec 3} {x7 : BitVec 3} {w : W32} (h : some (x0 ++ x1 ++ x2 ++ x3 ++ x4 ++ x5 ++ x6 ++ x7 : W32) = some w) :
    w.extractLsb' 26 6 = x0 ∧ w.extractLsb' 23 3 = x1 ∧ w.extractLsb' 20 3 = x2 ∧ w.extractLsb' 14 6 = x3 ∧ w.extractLsb' 8 6 = x4 ∧ w.extractLsb' 6 2 = x5 ∧ w.extractLsb' 3 3 = x6 ∧ w.extractLsb' 0 3 = x7 := by
  obtain rfl := Option.some.inj h
  refine ⟨?_, ?_, ?_, ?_, ?_, ?_, ?_, ?_⟩
  · rw [field_high (m := 29) (n := 3) _ _ 26 6 (by decide), field_high (m := 26) (n := 3) _ _ 23 6 (by decide), field_high (m := 24) (n := 2) _ _ 20 6 (by decide), field_high (m := 18) (n := 6) _ _ 18 6 (by decide), field_high (m := 12) (n := 6) _ _ 12 6 (by decide), field_high (m := 9) (n := 3) _ _ 6 6 (by decide), field_high (m := 6) (n := 3) _ _ 3 6 (by decide)]; exact field_whole _
  · rw [field_high (m := 29) (n := 3) _ _ 23 3 (by decide), field_high (m := 26) (n := 3) _ _ 20 3 (by decide), field_high (m := 24) (n := 2) _ _ 17 3 (by decide), field_high (m := 18) (n := 6) _ _ 15 3 (by decide), field_high (m := 12) (n := 6) _ _ 9 3 (by decide), field_high (m := 9) (n := 3) _ _ 3 3 (by decide), field_low (m := 6) (n := 3) _ _ 0 3 (by decide)]; exact field_whole _
  · rw [field_high (m := 29) (n := 3) _ _ 20 3 (by decide), field_high (m := 26) (n := 3) _ _ 17 3 (by decide), field_high (m := 24) (n := 2) _ _ 14 3 (by decide), field_high (m := 18) (n := 6) _ _ 12 3 (by decide), field_high (m := 12) (n := 6) _ _ 6 3 (by decide), field_low (m := 9) (n := 3) _ _ 0 3 (by decide)]; exact field_whole _
  · rw [field_high (m := 29) (n := 3) _ _ 14 6 (by decide), field_high (m := 26) (n := 3) _ _ 11 6 (by decide), field_high (m := 24) (n := 2) _ _ 8 6 (by decide), field_high (m := 18) (n := 6) _ _ 6 6 (by decide), field_low (m := 12) (n := 6) _ _ 0 6 (by decide)]; exact field_whole _
  · rw [field_high (m := 29) (n := 3) _ _ 8 6 (by decide), field_high (m := 26) (n := 3) _ _ 5 6 (by decide), field_high (m := 24) (n := 2) _ _ 2 6 (by decide), field_low (m := 18) (n := 6) _ _ 0 6 (by decide)]; exact field_whole _
  · rw [field_high (m := 29) (n := 3) _ _ 6 2 (by decide), field_high (m := 26) (n := 3) _ _ 3 2 (by decide), field_low (m := 24) (n := 2) _ _ 0 2 (by decide)]; exact field_whole _
  · rw [field_high (m := 29) (n := 3) _ _ 3 3 (by decide), field_low (m := 26) (n := 3) _ _ 0 3 (by decide)]; exact field_whole _
  · rw [field_low (m := 29) (n := 3) _ _ 0 3 (by decide)]; exact field_whole _

theorem layout9 {x0 : BitVec 6} {x1 : BitVec 3} {x2 : BitVec 2} {x3 : BitVec 5} {x4 : BitVec 5} {x5 : BitVec 3} {x6 : BitVec 4} {x7 : BitVec 1} {x8 : BitVec 3} {w : W32} (h : some (x0 ++ x1 ++ x2 ++ x3 ++ x4 ++ x5 ++ x6 ++ x7 ++ x8 : W32) = some w) :
    w.extractLsb' 26 6 = x0 ∧ w.extractLsb' 23 3 = x1 ∧ w.extractLsb' 21 2 = x2 ∧ w.extractLsb' 16 5 = x3 ∧ w.extractLsb' 11 5 = x4 ∧ w.extractLsb' 8 3 = x5 ∧ w.extractLsb' 4 4 = x6 ∧ w.extractLsb' 3 1 = x7 ∧ w.extractLsb' 0 3 = x8 := by
  obtain rfl := Option.some.inj h
  refine ⟨?_, ?_, ?_, ?_, ?_, ?_, ?_, ?_, ?_⟩
  · rw [field_high (m := 29) (n := 3) _ _ 26 6 (by decide), field_high (m := 28) (n := 1) _ _ 23 6 (by decide), field_high (m := 24) (n := 4) _ _ 22 6 (by decide), field_high (m := 21) (n := 3) _ _ 18 6 (by decide), field_high (m := 16) (n := 5) _ _ 15 6 (by decide), field_high (m := 11) (n := 5) _ _ 10 6 (by decide), field_high (m := 9) (n := 2) _ _ 5 6 (by decide), field_high (m := 6) (n := 3) _ _ 3 6 (by decide)]; exact field_whole _
  · rw [field_high (m := 29) (n := 3) _ _ 23 3 (by decide), field_high (m := 28) (n := 1) _ _ 20 3 (by decide), field_high (m := 24) (n := 4) _ _ 19 3 (by decide), field_high (m := 21) (n := 3) _ _ 15 3 (by decide), field_high (m := 16) (n := 5) _ _ 12 3 (by decide), field_high (m := 11) (n := 5) _ _ 7 3 (by decide), field_high (m := 9) (n := 2) _ _ 2 3 (by decide), field_low (m := 6) (n := 3) _ _ 0 3 (by decide)]; exact field_whole _
  · rw [field_high (m := 29) (n := 3) _ _ 21 2 (by decide), field_high (m := 28) (n := 1) _ _ 18 2 (by decide), field_high (m := 24) (n := 4) _ _ 17 2 (by decide), field_high (m := 21) (n := 3) _ _ 13 2 (by decide), field_high (m := 16) (n := 5) _ _ 10 2 (by decide), field_high (m := 11) (n := 5) _ _ 5 2 (by decide), field_low (m := 9) (n := 2) _ _ 0 2 (by decide)]; exact field_whole _
  · rw [field_high (m := 29) (n := 3) _ _ 16 5 (by decide), field_high (m := 28) (n := 1) _ _ 13 5 (by decide), field_high (m := 24) (n := 4) _ _ 12 5 (by decide), field_high (m := 21) (n := 3) _ _ 8 5 (by decide), field_high (m := 16) (n := 5) _ _ 5 5 (by decide), field_low (m := 11) (n := 5) _ _ 0 5 (by decide)]; exact field_whole _
  · rw [field_high (m := 29) (n := 3) _ _ 11 5 (by decide), field_high (m := 28) (n := 1) _ _ 8 5 (by decide), field_high (m := 24) (n := 4) _ _ 7 5 (by decide), field_high (m := 21) (n := 3) _ _ 3 5 (by decide), field_low (m := 16) (n := 5) _ _ 0 5 (by decide)]; exact field_whole _
  · rw [field_high (m := 29) (n := 3) _ _ 8 3 (by decide), field_high (m := 28) (n := 1) _ _ 5 3 (by decide), field_high (m := 24) (n := 4) _ _ 4 3 (by decide), field_low (m := 21) (n := 3) _ _ 0 3 (by decide)]; exact field_whole _
  · rw [field_high (m := 29) (n := 3) _ _ 4 4 (by decide), field_high (m := 28) (n := 1) _ _ 1 4 (by decide), field_low (m := 24) (n := 4) _ _ 0 4 (by decide)]; exact field_whole _
  · rw [field_high (m := 29) (n := 3) _ _ 3 1 (by decide), field_low (m := 28) (n := 1) _ _ 0 1 (by decide)]; exact field_whole _
  · rw [field_low (m := 29) (n := 3) _ _ 0 3 (by decide)]; exact field_whole _

theorem layout10 {x0 : BitVec 6} {x1 : BitVec 6} {x2 : BitVec 6} {x3 : BitVec 4} {x4 : BitVec 4} {x5 : BitVec 3} {x6 : BitVec 3} {w : W32} (h : some (x0 ++ x1 ++ x2 ++ x3 ++ x4 ++ x5 ++ x6 : W32) = some w) :
    w.extractLsb' 26 6 = x0 ∧ w.extractLsb' 20 6 = x1 ∧ w.extractLsb' 14 6 = x2 ∧ w.extractLsb' 10 4 = x3 ∧ w.extractLsb' 6 4 = x4 ∧ w.extractLsb' 3 3 = x5 ∧ w.extractLsb' 0 3 = x6 := by
  obtain rfl := Option.some.inj h
  refine ⟨?_, ?_, ?_, ?_, ?_, ?_, ?_⟩
  · rw [field_high (m := 29) (n := 3) _ _ 26 6 (by decide), field_high (m := 26) (n := 3) _ _ 23 6 (by decide), field_high (m := 22) (n := 4) _ _ 20 6 (by decide), field_high (m := 18) (n := 4) _ _ 16 6 (by decide), field_high (m := 12) (n := 6) _ _ 12 6 (by decide), field_high (m := 6) (n := 6) _ _ 6 6 (by decide)]; exact field_whole _
  · rw [field_high (m := 29) (n := 3) _ _ 20 6 (by decide), field_high (m := 26) (n := 3) _ _ 17 6 (by decide), field_high (m := 22) (n := 4) _ _ 14 6 (by decide), field_high (m := 18) (n := 4) _ _ 10 6 (by decide), field_high (m := 12) (n := 6) _ _ 6 6 (by decide), field_low (m := 6) (n := 6) _ _ 0 6 (by decide)]; exact field_whole _
  · rw [field_high (m := 29) (n := 3) _ _ 14 6 (by decide), field_high (m := 26) (n := 3) _ _ 11 6 (by decide), field_high (m := 22) (n := 4) _ _ 8 6 (by decide), field_high (m := 18) (n := 4) _ _ 4 6 (by decide), field_low (m := 12) (n := 6) _ _ 0 6 (by decide)]; exact field_whole _
  · rw [field_high (m := 29) (n := 3) _ _ 10 4 (by decide), field_high (m := 26) (n := 3) _ _ 7 4 (by decide), field_high (m := 22) (n := 4) _ _ 4 4 (by decide), field_low (m := 18) (n := 4) _ _ 0 4 (by decide)]; exact field_whole _
  · rw [field_high (m := 29) (n := 3) _ _ 6 4 (by decide), field_high (m := 26) (n := 3) _ _ 3 4 (by decide), field_low (m := 22) (n := 4) _ _ 0 4 (by decide)]; exact field_whole _
  · rw [field_high (m := 29) (n := 3) _ _ 3 3 (by decide), field_low (m := 26) (n := 3) _ _ 0 3 (by decide)]; exact field_whole _
  · rw [field_low (m := 29) (n := 3) _ _ 0 3 (by decide)]; exact field_whole _

theorem layout11 {x0 : BitVec 6} {x1 : BitVec 3} {x2 : BitVec 3} {x3 : BitVec 6} {x4 : BitVec 3} {x5 : BitVec 1} {x6 : BitVec 7} {x7 : BitVec 3} {w : W32} (h : some (x0 ++ x1 ++ x2 ++ x3 ++ x4 ++ x5 ++ x6 ++ x7 : W32) = some w) :
    w.extractLsb' 26 6 = x0 ∧ w.extractLsb' 23 3 = x1 ∧ w.extractLsb' 20 3 = x2 ∧ w.extractLsb' 14 6 = x3 ∧ w.extractLsb' 11 3 = x4 ∧ w.extractLsb' 10 1 = x5 ∧ w.extractLsb' 3 7 = x6 ∧ w.extractLsb' 0 3 = x7 := by
  obtain rfl := Option.some.inj h
  refine ⟨?_, ?_, ?_, ?_, ?_, ?_, ?_, ?_⟩
  · rw [field_high (m := 29) (n := 3) _ _ 26 6 (by decide), field_high (m := 22) (n := 7) _ _ 23 6 (by decide), field_high (m := 21) (n := 1) _ _ 16 6 (by decide), field_high (m := 18) (n := 3) _ _ 15 6 (by decide), field_high (m := 12) (n := 6) _ _ 12 6 (by decide), field_high (m := 9) (n := 3) _ _ 6 6 (by decide), field_high (m := 6) (n := 3) _ _ 3 6 (by decide)]; exact field_whole _
  · rw [field_high (m := 29) (n := 3) _ _ 23 3 (by decide), field_high (m := 22) (n := 7) _ _ 20 3 (by decide), field_high (m := 21) (n := 1) _ _ 13 3 (by decide), field_high (m := 18) (n := 3) _ _ 12 3 (by decide), field_high (m := 12) (n := 6) _ _ 9 3 (by decide), field_high (m := 9) (n := 3) _ _ 3 3 (by decide), field_low (m := 6) (n := 3) _ _ 0 3 (by decide)]; exact field_whole _
  · rw [field_high (m := 29) (n := 3) _ _ 20 3 (by decide), field_high (m := 22) (n := 7) _ _ 17 3 (by decide), field_high (m := 21) (n := 1) _ _ 10 3 (by decide), field_high (m := 18) (n := 3) _ _ 9 3 (by decide), field_high (m := 12) (n := 6) _ _ 6 3 (by decide), field_low (m := 9) (n := 3) _ _ 0 3 (by decide)]; exact field_whole _
  · rw [field_high (m := 29) (n := 3) _ _ 14 6 (by decide), field_high (m := 22) (n := 7) _ _ 11 6 (by decide), field_high (m := 21) (n := 1) _ _ 4 6 (by decide), field_high (m := 18) (n := 3) _ _ 3 6 (by decide), field_low (m := 12) (n := 6) _ _ 0 6 (by decide)]; exact field_whole _
  · rw [field_high (m := 29) (n := 3) _ _ 11 3 (by decide), field_high (m := 22) (n := 7) _ _ 8 3 (by decide), field_high (m := 21) (n := 1) _ _ 1 3 (by decide), field_low (m := 18) (n := 3) _ _ 0 3 (by decide)]; exact field_whole _
  · rw [field_high (m := 29) (n := 3) _ _ 10 1 (by decide), field_high (m := 22) (n := 7) _ _ 7 1 (by decide), field_low (m := 21) (n := 1) _ _ 0 1 (by decide)]; exact field_whole _
  · rw [field_high (m := 29) (n := 3) _ _ 3 7 (by decide), field_low (m := 22) (n := 7) _ _ 0 7 (by decide)]; exact field_whole _
  · rw [field_low (m := 29) (n := 3) _ _ 0 3 (by decide)]; exact field_whole _

theorem layout12 {x0 : BitVec 6} {x1 : BitVec 6} {x2 : BitVec 16} {x3 : BitVec 1} {x4 : BitVec 3} {w : W32} (h : some (x0 ++ x1 ++ x2 ++ x3 ++ x4 : W32) = some w) :
    w.extractLsb' 26 6 = x0 ∧ w.extractLsb' 20 6 = x1 ∧ w.extractLsb' 4 16 = x2 ∧ w.extractLsb' 3 1 = x3 ∧ w.extractLsb' 0 3 = x4 := by
  obtain rfl := Option.some.inj h
  refine ⟨?_, ?_, ?_, ?_, ?_⟩
  · rw [field_high (m := 29) (n := 3) _ _ 26 6 (by decide), field_high (m := 28) (n := 1) _ _ 23 6 (by decide), field_high (m := 12) (n := 16) _ _ 22 6 (by decide), field_high (m := 6) (n := 6) _ _ 6 6 (by decide)]; exact field_whole _
  · rw [field_high (m := 29) (n := 3) _ _ 20 6 (by decide), field_high (m := 28) (n := 1) _ _ 17 6 (by decide), field_high (m := 12) (n := 16) _ _ 16 6 (by decide), field_low (m := 6) (n := 6) _ _ 0 6 (by decide)]; exact field_whole _
  · rw [field_high (m := 29) (n := 3) _ _ 4 16 (by decide), field_high (m := 28) (n := 1) _ _ 1 16 (by decide), field_low (m := 12) (n := 16) _ _ 0 16 (by decide)]; exact field_whole _
  · rw [field_high (m := 29) (n := 3) _ _ 3 1 (by decide), field_low (m := 28) (n := 1) _ _ 0 1 (by decide)]; exact field_whole _
  · rw [field_low (m := 29) (n := 3) _ _ 0 3 (by decide)]; exact field_whole _

theorem layout13 {x0 : BitVec 6} {x1 : BitVec 6} {x2 : BitVec 16} {x3 : BitVec 2} {x4 : BitVec 2} {w : W32} (h : some (x0 ++ x1 ++ x2 ++ x3 ++ x4 : W32) = some w) :
    w.extractLsb' 26 6 = x0 ∧ w.extractLsb' 20 6 = x1 ∧ w.extractLsb' 4 16 = x2 ∧ w.extractLsb' 2 2 = x3 ∧ w.extractLsb' 0 2 = x4 := by
  obtain rfl := Option.some.inj h
  refine ⟨?_, ?_, ?_, ?_, ?_⟩
  · rw [field_high (m := 30) (n := 2) _ _ 26 6 (by decide), field_high (m := 28) (n := 2) _ _ 24 6 (by decide), field_high (m := 12) (n := 16) _ _ 22 6 (by decide), field_high (m := 6) (n := 6) _ _ 6 6 (by decide)]; exact field_whole _
  · rw [field_high (m := 30) (n := 2) _ _ 20 6 (by decide), field_high (m := 28) (n := 2) _ _ 18 6 (by decide), field_high (m := 12) (n := 16) _ _ 16 6 (by decide), field_low (m := 6) (n := 6) _ _ 0 6 (by decide)]; exact field_whole _
  · rw [field_high (m := 30) (n := 2) _ _ 4 16 (by decide), field_high (m := 28) (n := 2) _ _ 2 16 (by decide), field_low (m := 12) (n := 16) _ _ 0 16 (by decide)]; exact field_whole _
  · rw [field_high (m := 30) (n := 2) _ _ 2 2 (by decide), field_low (m := 28) (n := 2) _ _ 0 2 (by decide)]; exact field_whole _
  · rw [field_low (m := 30) (n := 2) _ _ 0 2 (by decide)]; exact field_whole _

theorem layout14 {x0 : BitVec 6} {x1 : BitVec 6} {x2 : BitVec 6} {x3 : BitVec 6} {x4 : BitVec 1} {x5 : BitVec 1} {x6 : BitVec 3} {x7 : BitVec 3} {w : W32} (h : some (x0 ++ x1 ++ x2 ++ x3 ++ x4 ++ x5 ++ x6 ++ x7 : W32) = some w) :
    w.extractLsb' 26 6 = x0 ∧ w.extractLsb' 20 6 = x1 ∧ w.extractLsb' 14 6 = x2 ∧ w.extractLsb' 8 6 = x3 ∧ w.extractLsb' 7 1 = x4 ∧ w.extractLsb' 6 1 = x5 ∧ w.extractLsb' 3 3 = x6 ∧ w.extractLsb' 0 3 = x7 := by
  obtain rfl := Option.some.inj h
  refine ⟨?_, ?_, ?_, ?_, ?_, ?_, ?_, ?_⟩
  · rw [field_high (m := 29) (n := 3) _ _ 26 6 (by decide), field_high (m := 26) (n := 3) _ _ 23 6 (by decide), field_high (m := 25) (n := 1) _ _ 20 6 (by decide), field_high (m := 24) (n := 1) _ _ 19 6 (by decide), field_high (m := 18) (n := 6) _ _ 18 6 (by decide), field_high (m := 12) (n := 6) _ _ 12 6 (by decide), field_high (m := 6) (n := 6) _ _ 6 6 (by decide)]; exact field_whole _
  · rw [field_high (m := 29) (n := 3) _ _ 20 6 (by decide), field_high (m := 26) (n := 3) _ _ 17 6 (by decide), field_high (m := 25) (n := 1) _ _ 14 6 (by decide), field_high (m := 24) (n := 1) _ _ 13 6 (by decide), field_high (m := 18) (n := 6) _ _ 12 6 (by decide), field_high (m := 12) (n := 6) _ _ 6 6 (by decide), field_low (m := 6) (n := 6) _ _ 0 6 (by decide)]; exact field_whole _
  · rw [field_high (m := 29) (n := 3) _ _ 14 6 (by decide), field_high (m := 26) (n := 3) _ _ 11 6 (by decide), field_high (m := 25) (n := 1) _ _ 8 6 (by decide), field_high (m := 24) (n := 1) _ _ 7 6 (by decide), field_high (m := 18) (n := 6) _ _ 6 6 (by decide), field_low (m := 12) (n := 6) _ _ 0 6 (by decide)]; exact field_whole _
  · rw [field_high (m := 29) (n := 3) _ _ 8 6 (by decide), field_high (m := 26) (n := 3) _ _ 5 6 (by decide), field_high (m := 25) (n := 1) _ _ 2 6 (by decide), field_high (m := 24) (n := 1) _ _ 1 6 (by decide), field_low (m := 18) (n := 6) _ _ 0 6 (by decide)]; exact field_whole _
  · rw [field_high (m := 29) (n := 3) _ _ 7 1 (by decide), field_high (m := 26) (n := 3) _ _ 4 1 (by decide), field_high (m := 25) (n := 1) _ _ 1 1 (by decide), field_low (m := 24) (n := 1) _ _ 0 1 (by decide)]; exact field_whole _
  · rw [field_high (m := 29) (n := 3) _ _ 6 1 (by decide), field_high (m := 26) (n := 3) _ _ 3 1 (by decide), field_low (m := 25) (n := 1) _ _ 0 1 (by decide)]; exact field_whole _
  · rw [field_high (m := 29) (n := 3) _ _ 3 3 (by decide), field_low (m := 26) (n := 3) _ _ 0 3 (by decide)]; exact field_whole _
  · rw [field_low (m := 29) (n := 3) _ _ 0 3 (by decide)]; exact field_whole _

theorem layout15 {x0 : BitVec 6} {x1 : BitVec 6} {x2 : BitVec 5} {x3 : BitVec 5} {x4 : BitVec 3} {x5 : BitVec 4} {x6 : BitVec 3} {w : W32} (h : some (x0 ++ x1 ++ x2 ++ x3 ++ x4 ++ x5 ++ x6 : W32) = some w) :
    w.extractLsb' 26 6 = x0 ∧ w.extractLsb' 20 6 = x1 ∧ w.extractLsb' 15 5 = x2 ∧ w.extractLsb' 10 5 = x3 ∧ w.extractLsb' 7 3 = x4 ∧ w.extractLsb' 3 4 = x5 ∧ w.extractLsb' 0 3 = x6 := by
  obtain rfl := Option.some.inj h
  refine ⟨?_, ?_, ?_, ?_, ?_, ?_, ?_⟩
  · rw [field_high (m := 29) (n := 3) _ _ 26 6 (by decide), field_high (m := 25) (n := 4) _ _ 23 6 (by decide), field_high (m := 22) (n := 3) _ _ 19 6 (by decide), field_high (m := 17) (n := 5) _ _ 16 6 (by decide), field_high (m := 12) (n := 5) _ _ 11 6 (by decide), field_high (m := 6) (n := 6) _ _ 6 6 (by decide)]; exact field_whole _
  · rw [field_high (m := 29) (n := 3) _ _ 20 6 (by decide), field_high (m := 25) (n := 4) _ _ 17 6 (by decide), field_high (m := 22) (n := 3) _ _ 13 6 (by decide), field_high (m := 17) (n := 5) _ _ 10 6 (by decide), field_high (m := 12) (n := 5) _ _ 5 6 (by decide), field_low (m := 6) (n := 6) _ _ 0 6 (by decide)]; exact field_whole _
  · rw [field_high (m := 29) (n := 3) _ _ 15 5 (by decide), field_high (m := 25) (n := 4) _ _ 12 5 (by decide), field_high (m := 22) (n := 3) _ _ 8 5 (by decide), field_high (m := 17) (n := 5) _ _ 5 5 (by decide), field_low (m := 12) (n := 5) _ _ 0 5 (by decide)]; exact field_whole _
  · rw [field_high (m := 29) (n := 3) _ _ 10 5 (by decide), field_high (m := 25) (n := 4) _ _ 7 5 (by decide), field_high (m := 22) (n := 3) _ _ 3 5 (by decide), field_low (m := 17) (n := 5) _ _ 0 5 (by decide)]; exact field_whole _
  · rw [field_high (m := 29) (n := 3) _ _ 7 3 (by decide), field_high (m := 25) (n := 4) _ _ 4 3 (by decide), field_low (m := 22) (n := 3) _ _ 0 3 (by decide)]; exact field_whole _
  · rw [field_high (m := 29) (n := 3) _ _ 3 4 (by decide), field_low (m := 25) (n := 4) _ _ 0 4 (by decide)]; exact field_whole _
  · rw [field_low (m := 29) (n := 3) _ _ 0 3 (by decide)]; exact field_whole _

theorem layout16 {x0 : BitVec 6} {x1 : BitVec 6} {x2 : BitVec 5} {x3 : BitVec 5} {x4 : BitVec 2} {x5 : BitVec 1} {x6 : BitVec 4} {x7 : BitVec 3} {w : W32} (h : some (x0 ++ x1 ++ x2 ++ x3 ++ x4 ++ x5 ++ x6 ++ x7 : W32) = some w) :
    w.extractLsb' 26 6 = x0 ∧ w.extractLsb' 20 6 = x1 ∧ w.extractLsb' 15 5 = x2 ∧ w.extractLsb' 10 5 = x3 ∧ w.extractLsb' 8 2 = x4 ∧ w.extractLsb' 7 1 = x5 ∧ w.extractLsb' 3 4 = x6 ∧ w.extractLsb' 0 3 = x7 := by
  obtain rfl := Option.some.inj h
  refine ⟨?_, ?_, ?_, ?_, ?_, ?_, ?_, ?_⟩
  · rw [field_high (m := 29) (n := 3) _ _ 26 6 (by decide), field_high (m := 25) (n := 4) _ _ 23 6 (by decide), field_high (m := 24) (n := 1) _ _ 19 6 (by decide), field_high (m := 22) (n := 2) _ _ 18 6 (by decide), field_high (m := 17) (n := 5) _ _ 16 6 (by decide), field_high (m := 12) (n := 5) _ _ 11 6 (by decide), field_high (m := 6) (n := 6) _ _ 6 6 (by decide)]; exact field_whole _
  · rw [field_high (m := 29) (n := 3) _ _ 20 6 (by decide), field_high (m := 25) (n := 4) _ _ 17 6 (by decide), field_high (m := 24) (n := 1) _ _ 13 6 (by decide), field_high (m := 22) (n := 2) _ _ 12 6 (by decide), field_high (m := 17) (n := 5) _ _ 10 6 (by decide), field_high (m := 12) (n := 5) _ _ 5 6 (by decide), field_low (m := 6) (n := 6) _ _ 0 6 (by decide)]; exact field_whole _
  · rw [field_high (m := 29) (n := 3) _ _ 15 5 (by decide), field_high (m := 25) (n := 4) _ _ 12 5 (by decide), field_high (m := 24) (n := 1) _ _ 8 5 (by decide), field_high (m := 22) (n := 2) _ _ 7 5 (by decide), field_high (m := 17) (n := 5) _ _ 5 5 (by decide), field_low (m := 12) (n := 5) _ _ 0 5 (by decide)]; exact field_whole _
  · rw [field_high (m := 29) (n := 3) _ _ 10 5 (by decide), field_high (m := 25) (n := 4) _ _ 7 5 (by decide), field_high (m := 24) (n := 1) _ _ 3 5 (by decide), field_high (m := 22) (n := 2) _ _ 2 5 (by decide), field_low (m := 17) (n := 5) _ _ 0 5 (by decide)]; exact field_whole _
  · rw [field_high (m := 29) (n := 3) _ _ 8 2 (by decide), field_high (m := 25) (n := 4) _ _ 5 2 (by decide), field_high (m := 24) (n := 1) _ _ 1 2 (by decide), field_low (m := 22) (n := 2) _ _ 0 2 (by decide)]; exact field_whole _
  · rw [field_high (m := 29) (n := 3) _ _ 7 1 (by decide), field_high (m := 25) (n := 4) _ _ 4 1 (by decide), field_low (m := 24) (n := 1) _ _ 0 1 (by decide)]; exact field_whole _
  · rw [field_high (m := 29) (n := 3) _ _ 3 4 (by decide), field_low (m := 25) (n := 4) _ _ 0 4 (by decide)]; exact field_whole _
  · rw [field_low (m := 29) (n := 3) _ _ 0 3 (by decide)]; exact field_whole _

theorem layout17 {x0 : BitVec 6} {x1 : BitVec 3} {x2 : BitVec 2} {x3 : BitVec 21} {w : W32} (h : some (x0 ++ x1 ++ x2 ++ x3 : W32) = some w) :
    w.extractLsb' 26 6 = x0 ∧ w.extractLsb' 23 3 = x1 ∧ w.extractLsb' 21 2 = x2 ∧ w.extractLsb' 0 21 = x3 := by
  obtain rfl := Option.some.inj h
  refine ⟨?_, ?_, ?_, ?_⟩
  · rw [field_high (m := 11) (n := 21) _ _ 26 6 (by decide), field_high (m := 9) (n := 2) _ _ 5 6 (by decide), field_high (m := 6) (n := 3) _ _ 3 6 (by decide)]; exact field_whole _
  · rw [field_high (m := 11) (n := 21) _ _ 23 3 (by decide), field_high (m := 9) (n := 2) _ _ 2 3 (by decide), field_low (m := 6) (n := 3) _ _ 0 3 (by decide)]; exact field_whole _
  · rw [field_high (m := 11) (n := 21) _ _ 21 2 (by decide), field_low (m := 9) (n := 2) _ _ 0 2 (by decide)]; exact field_whole _
  · rw [field_low (m := 11) (n := 21) _ _ 0 21 (by decide)]; exact field_whole _

theorem layout18 {x0 : BitVec 6} {x1 : BitVec 5} {x2 : BitVec 5} {x3 : BitVec 4} {x4 : BitVec 1} {x5 : BitVec 1} {x6 : BitVec 3} {x7 : BitVec 4} {x8 : BitVec 3} {w : W32} (h : some (x0 ++ x1 ++ x2 ++ x3 ++ x4 ++ x5 ++ x6 ++ x7 ++ x8 : W32) = some w) :
    w.extractLsb' 26 6 = x0 ∧ w.extractLsb' 21 5 = x1 ∧ w.extractLsb' 16 5 = x2 ∧ w.extractLsb' 12 4 = x3 ∧ w.extractLsb' 11 1 = x4 ∧ w.extractLsb' 10 1 = x5 ∧ w.extractLsb' 7 3 = x6 ∧ w.extractLsb' 3 4 = x7 ∧ w.extractLsb' 0 3 = x8 := by
  obtain rfl := Option.some.inj h
  refine ⟨?_, ?_, ?_, ?_, ?_, ?_, ?_, ?_, ?_⟩
  · rw [field_high (m := 29) (n := 3) _ _ 26 6 (by decide), field_high (m := 25) (n := 4) _ _ 23 6 (by decide), field_high (m := 22) (n := 3) _ _ 19 6 (by decide), field_high (m := 21) (n := 1) _ _ 16 6 (by decide), field_high (m := 20) (n := 1) _ _ 15 6 (by decide), field_high (m := 16) (n := 4) _ _ 14 6 (by decide), field_high (m := 11) (n := 5) _ _ 10 6 (by decide), field_high (m := 6) (n := 5) _ _ 5 6 (by decide)]; exact field_whole _
  · rw [field_high (m := 29) (n := 3) _ _ 21 5 (by decide), field_high (m := 25) (n := 4) _ _ 18 5 (by decide), field_high (m := 22) (n := 3) _ _ 14 5 (by decide), field_high (m := 21) (n := 1) _ _ 11 5 (by decide), field_high (m := 20) (n := 1) _ _ 10 5 (by decide), field_high (m := 16) (n := 4) _ _ 9 5 (by decide), field_high (m := 11) (n := 5) _ _ 5 5 (by decide), field_low (m := 6) (n := 5) _ _ 0 5 (by decide)]; exact field_whole _
  · rw [field_high (m := 29) (n := 3) _ _ 16 5 (by decide), field_high (m := 25) (n := 4) _ _ 13 5 (by decide), field_high (m := 22) (n := 3) _ _ 9 5 (by decide), field_high (m := 21) (n := 1) _ _ 6 5 (by decide), field_high (m := 20) (n := 1) _ _ 5 5 (by decide), field_high (m := 16) (n := 4) _ _ 4 5 (by decide), field_low (m := 11) (n := 5) _ _ 0 5 (by decide)]; exact field_whole _
  · rw [field_high (m := 29) (n := 3) _ _ 12 4 (by decide), field_high (m := 25) (n := 4) _ _ 9 4 (by decide), field_high (m := 22) (n := 3) _ _ 5 4 (by decide), field_high (m := 21) (n := 1) _ _ 2 4 (by decide), field_high (m := 20) (n := 1) _ _ 1 4 (by decide), field_low (m := 16) (n := 4) _ _ 0 4 (by decide)]; exact field_whole _
  · rw [field_high (m := 29) (n := 3) _ _ 11 1 (by decide), field_high (m := 25) (n := 4) _ _ 8 1 (by decide), field_high (m := 22) (n := 3) _ _ 4 1 (by decide), field_high (m := 21) (n := 1) _ _ 1 1 (by decide), field_low (m := 20) (n := 1) _ _ 0 1 (by decide)]; exact field_whole _
  · rw [field_high (m := 29) (n := 3) _ _ 10 1 (by decide), field_high (m := 25) (n := 4) _ _ 7 1 (by decide), field_high (m := 22) (n := 3) _ _ 3 1 (by decide), field_low (m := 21) (n := 1) _ _ 0 1 (by decide)]; exact field_whole _
  · rw [field_high (m := 29) (n := 3) _ _ 7 3 (by decide), field_high (m := 25) (n := 4) _ _ 4 3 (by decide), field_low (m := 22) (n := 3) _ _ 0 3 (by decide)]; exact field_whole _
  · rw [field_high (m := 29) (n := 3) _ _ 3 4 (by decide), field_low (m := 25) (n := 4) _ _ 0 4 (by decide)]; exact field_whole _
  · rw [field_low (m := 29) (n := 3) _ _ 0 3 (by decide)]; exact field_whole _

theorem layout19 {x0 : BitVec 6} {x1 : BitVec 5} {x2 : BitVec 5} {x3 : BitVec 4} {x4 : BitVec 5} {x5 : BitVec 4} {x6 : BitVec 3} {w : W32} (h : some (x0 ++ x1 ++ x2 ++ x3 ++ x4 ++ x5 ++ x6 : W32) = some w) :
    w.extractLsb' 26 6 = x0 ∧ w.extractLsb' 21 5 = x1 ∧ w.extractLsb' 16 5 = x2 ∧ w.extractLsb' 12 4 = x3 ∧ w.extractLsb' 7 5 = x4 ∧ w.extractLsb' 3 4 = x5 ∧ w.extractLsb' 0 3 = x6 := by
  obtain rfl := Option.some.inj h
  refine ⟨?_, ?_, ?_, ?_, ?_, ?_, ?_⟩
  · rw [field_high (m := 29) (n := 3) _ _ 26 6 (by decide), field_high (m := 25) (n := 4) _ _ 23 6 (by decide), field_high (m := 20) (n := 5) _ _ 19 6 (by decide), field_high (m := 16) (n := 4) _ _ 14 6 (by decide), field_high (m := 11) (n := 5) _ _ 10 6 (by decide), field_high (m := 6) (n := 5) _ _ 5 6 (by decide)]; exact field_whole _
  · rw [field_high (m := 29) (n := 3) _ _ 21 5 (by decide), field_high (m := 25) (n := 4) _ _ 18 5 (by decide), field_high (m := 20) (n := 5) _ _ 14 5 (by decide), field_high (m := 16) (n := 4) _ _ 9 5 (by decide), field_high (m := 11) (n := 5) _ _ 5 5 (by decide), field_low (m := 6) (n := 5) _ _ 0 5 (by decide)]; exact field_whole _
  · rw [field_high (m := 29) (n := 3) _ _ 16 5 (by decide), field_high (m := 25) (n := 4) _ _ 13 5 (by decide), field_high (m := 20) (n := 5) _ _ 9 5 (by decide), field_high (m := 16) (n := 4) _ _ 4 5 (by decide), field_low (m := 11) (n := 5) _ _ 0 5 (by decide)]; exact field_whole _
  · rw [field_high (m := 29) (n := 3) _ _ 12 4 (by decide), field_high (m := 25) (n := 4) _ _ 9 4 (by decide), field_high (m := 20) (n := 5) _ _ 5 4 (by decide), field_low (m := 16) (n := 4) _ _ 0 4 (by decide)]; exact field_whole _
  · rw [field_high (m := 29) (n := 3) _ _ 7 5 (by decide), field_high (m := 25) (n := 4) _ _ 4 5 (by decide), field_low (m := 20) (n := 5) _ _ 0 5 (by decide)]; exact field_whole _
  · rw [field_high (m := 29) (n := 3) _ _ 3 4 (by decide), field_low (m := 25) (n := 4) _ _ 0 4 (by decide)]; exact field_whole _
  · rw [field_low (m := 29) (n := 3) _ _ 0 3 (by decide)]; exact field_whole _

theorem layout20 {x0 : BitVec 16} {x1 : BitVec 4} {x2 : BitVec 5} {x3 : BitVec 4} {x4 : BitVec 3} {w : W32} (h : some (x0 ++ x1 ++ x2 ++ x3 ++ x4 : W32) = some w) :
    w.extractLsb' 16 16 = x0 ∧ w.extractLsb' 12 4 = x1 ∧ w.extractLsb' 7 5 = x2 ∧ w.extractLsb' 3 4 = x3 ∧ w.extractLsb' 0 3 = x4 := by
  obtain rfl := Option.some.inj h
  refine ⟨?_, ?_, ?_, ?_, ?_⟩
  · rw [field_high (m := 29) (n := 3) _ _ 16 16 (by decide), field_high (m := 25) (n := 4) _ _ 13 16 (by decide), field_high (m := 20) (n := 5) _ _ 9 16 (by decide), field_high (m := 16) (n := 4) _ _ 4 16 (by decide)]; exact field_whole _
  · rw [field_high (m := 29) (n := 3) _ _ 12 4 (by decide), field_high (m := 25) (n := 4) _ _ 9 4 (by decide), field_high (m := 20) (n := 5) _ _ 5 4 (by decide), field_low (m := 16) (n := 4) _ _ 0 4 (by decide)]; exact field_whole _
  · rw [field_high (m := 29) (n := 3) _ _ 7 5 (by decide), field_high (m := 25) (n := 4) _ _ 4 5 (by decide), field_low (m := 20) (n := 5) _ _ 0 5 (by decide)]; exact field_whole _
  · rw [field_high (m := 29) (n := 3) _ _ 3 4 (by decide), field_low (m := 25) (n := 4) _ _ 0 4 (by decide)]; exact field_whole _
  · rw [field_low (m := 29) (n := 3) _ _ 0 3 (by decide)]; exact field_whole _

theorem layout21 {x0 : BitVec 6} {x1 : BitVec 5} {x2 : BitVec 14} {x3 : BitVec 4} {x4 : BitVec 3} {w : W32} (h : some (x0 ++ x1 ++ x2 ++ x3 ++ x4 : W32) = some w) :
    w.extractLsb' 26 6 = x0 ∧ w.extractLsb' 21 5 = x1 ∧ w.extractLsb' 7 14 = x2 ∧ w.extractLsb' 3 4 = x3 ∧ w.extractLsb' 0 3 = x4 := by
  obtain rfl := Option.some.inj h
  refine ⟨?_, ?_, ?_, ?_, ?_⟩
  · rw [field_high (m := 29) (n := 3) _ _ 26 6 (by decide), field_high (m := 25) (n := 4) _ _ 23 6 (by decide), field_high (m := 11) (n := 14) _ _ 19 6 (by decide), field_high (m := 6) (n := 5) _ _ 5 6 (by decide)]; exact field_whole _
  · rw [field_high (m := 29) (n := 3) _ _ 21 5 (by decide), field_high (m := 25) (n := 4) _ _ 18 5 (by decide), field_high (m := 11) (n := 14) _ _ 14 5 (by decide), field_low (m := 6) (n := 5) _ _ 0 5 (by decide)]; exact field_whole _
  · rw [field_high (m := 29) (n := 3) _ _ 7 14 (by decide), field_high (m := 25) (n := 4) _ _ 4 14 (by decide), field_low (m := 11) (n := 14) _ _ 0 14 (by decide)]; exact field_whole _
  · rw [field_high (m := 29) (n := 3) _ _ 3 4 (by decide), field_low (m := 25) (n := 4) _ _ 0 4 (by decide)]; exact field_whole _
  · rw [field_low (m := 29) (n := 3) _ _ 0 3 (by decide)]; exact field_whole _

theorem layout22 {x0 : BitVec 25} {x1 : BitVec 4} {x2 : BitVec 3} {w : W32} (h : some (x0 ++ x1 ++ x2 : W32) = some w) :
    w.extractLsb' 7 25 = x0 ∧ w.extractLsb' 3 4 = x1 ∧ w.extractLsb' 0 3 = x2 := by
  obtain rfl := Option.some.inj h
  refine ⟨?_, ?_, ?_⟩
  · rw [field_high (m := 29) (n := 3) _ _ 7 25 (by decide), field_high (m := 25) (n := 4) _ _ 4 25 (by decide)]; exact field_whole _
  · rw [field_high (m := 29) (n := 3) _ _ 3 4 (by decide), field_low (m := 25) (n := 4) _ _ 0 4 (by decide)]; exact field_whole _
  · rw [field_low (m := 29) (n := 3) _ _ 0 3 (by decide)]; exact field_whole _

theorem layout23 {x0 : BitVec 6} {x1 : BitVec 5} {x2 : BitVec 5} {x3 : BitVec 9} {x4 : BitVec 4} {x5 : BitVec 3} {w : W32} (h : some (x0 ++ x1 ++ x2 ++ x3 ++ x4 ++ x5 : W32) = some w) :
    w.extractLsb' 26 6 = x0 ∧ w.extractLsb' 21 5 = x1 ∧ w.extractLsb' 16 5 = x2 ∧ w.extractLsb' 7 9 = x3 ∧ w.extractLsb' 3 4 = x4 ∧ w.extractLsb' 0 3 = x5 := by
  obtain rfl := Option.some.inj h
  refine ⟨?_, ?_, ?_, ?_, ?_, ?_⟩
  · rw [field_high (m := 29) (n := 3) _ _ 26 6 (by decide), field_high (m := 25) (n := 4) _ _ 23 6 (by decide), field_high (m := 16) (n := 9) _ _ 19 6 (by decide), field_high (m := 11) (n := 5) _ _ 10 6 (by decide), field_high (m := 6) (n := 5) _ _ 5 6 (by decide)]; exact field_whole _
  · rw [field_high (m := 29) (n := 3) _ _ 21 5 (by decide), field_high (m := 25) (n := 4) _ _ 18 5 (by decide), field_high (m := 16) (n := 9) _ _ 14 5 (by decide), field_high (m := 11) (n := 5) _ _ 5 5 (by decide), field_low (m := 6) (n := 5) _ _ 0 5 (by decide)]; exact field_whole _
  · rw [field_high (m := 29) (n := 3) _ _ 16 5 (by decide), field_high (m := 25) (n := 4) _ _ 13 5 (by decide), field_high (m := 16) (n := 9) _ _ 9 5 (by decide), field_low (m := 11) (n := 5) _ _ 0 5 (by decide)]; exact field_whole _
  · rw [field_high (m := 29) (n := 3) _ _ 7 9 (by decide), field_high (m := 25) (n := 4) _ _ 4 9 (by decide), field_low (m := 16) (n := 9) _ _ 0 9 (by decide)]; exact field_whole _
  · rw [field_high (m := 29) (n := 3) _ _ 3 4 (by decide), field_low (m := 25) (n := 4) _ _ 0 4 (by decide)]; exact field_whole _
  · rw [field_low (m := 29) (n := 3) _ _ 0 3 (by decide)]; exact field_whole _

theorem layout24 {x0 : BitVec 6} {x1 : BitVec 6} {x2 : BitVec 6} {x3 : BitVec 5} {x4 : BitVec 6} {x5 : BitVec 3} {w : W32} (h : some (x0 ++ x1 ++ x2 ++ x3 ++ x4 ++ x5 : W32) = some w) :
    w.extractLsb' 26 6 = x0 ∧ w.extractLsb' 20 6 = x1 ∧ w.extractLsb' 14 6 = x2 ∧ w.extractLsb' 9 5 = x3 ∧ w.extractLsb' 3 6 = x4 ∧ w.extractLsb' 0 3 = x5 := by
  obtain rfl := Option.some.inj h
  refine ⟨?_, ?_, ?_, ?_, ?_, ?_⟩
  · rw [field_high (m := 29) (n := 3) _ _ 26 6 (by decide), field_high (m := 23) (n := 6) _ _ 23 6 (by decide), field_high (m := 18) (n := 5) _ _ 17 6 (by decide), field_high (m := 12) (n := 6) _ _ 12 6 (by decide), field_high (m := 6) (n := 6) _ _ 6 6 (by decide)]; exact field_whole _
  · rw [field_high (m := 29) (n := 3) _ _ 20 6 (by decide), field_high (m := 23) (n := 6) _ _ 17 6 (by decide), field_high (m := 18) (n := 5) _ _ 11 6 (by decide), field_high (m := 12) (n := 6) _ _ 6 6 (by decide), field_low (m := 6) (n := 6) _ _ 0 6 (by decide)]; exact field_whole _
  · rw [field_high (m := 29) (n := 3) _ _ 14 6 (by decide), field_high (m := 23) (n := 6) _ _ 11 6 (by decide), field_high (m := 18) (n := 5) _ _ 5 6 (by decide), field_low (m := 12) (n := 6) _ _ 0 6 (by decide)]; exact field_whole _
  · rw [field_high (m := 29) (n := 3) _ _ 9 5 (by decide), field_high (m := 23) (n := 6) _ _ 6 5 (by decide), field_low (m := 18) (n := 5) _ _ 0 5 (by decide)]; exact field_whole _
  · rw [field_high (m := 29) (n := 3) _ _ 3 6 (by decide), field_low (m := 23) (n := 6) _ _ 0 6 (by decide)]; exact field_whole _
  · rw [field_low (m := 29) (n := 3) _ _ 0 3 (by decide)]; exact field_whole _

theorem layout25 {x0 : BitVec 6} {x1 : BitVec 6} {x2 : BitVec 3} {x3 : BitVec 3} {x4 : BitVec 11} {x5 : BitVec 3} {w : W32} (h : some (x0 ++ x1 ++ x2 ++ x3 ++ x4 ++ x5 : W32) = some w) :
    w.extractLsb' 26 6 = x0 ∧ w.extractLsb' 20 6 = x1 ∧ w.extractLsb' 17 3 = x2 ∧ w.extractLsb' 14 3 = x3 ∧ w.extractLsb' 3 11 = x4 ∧ w.extractLsb' 0 3 = x5 := by
  obtain rfl := Option.some.inj h
  refine ⟨?_, ?_, ?_, ?_, ?_, ?_⟩
  · rw [field_high (m := 29) (n := 3) _ _ 26 6 (by decide), field_high (m := 18) (n := 11) _ _ 23 6 (by decide), field_high (m := 15) (n := 3) _ _ 12 6 (by decide), field_high (m := 12) (n := 3) _ _ 9 6 (by decide), field_high (m := 6) (n := 6) _ _ 6 6 (by decide)]; exact field_whole _
  · rw [field_high (m := 29) (n := 3) _ _ 20 6 (by decide), field_high (m := 18) (n := 11) _ _ 17 6 (by decide), field_high (m := 15) (n := 3) _ _ 6 6 (by decide), field_high (m := 12) (n := 3) _ _ 3 6 (by decide), field_low (m := 6) (n := 6) _ _ 0 6 (by decide)]; exact field_whole _
  · rw [field_high (m := 29) (n := 3) _ _ 17 3 (by decide), field_high (m := 18) (n := 11) _ _ 14 3 (by decide), field_high (m := 15) (n := 3) _ _ 3 3 (by decide), field_low (m := 12) (n := 3) _ _ 0 3 (by decide)]; exact field_whole _
  · rw [field_high (m := 29) (n := 3) _ _ 14 3 (by decide), field_high (m := 18) (n := 11) _ _ 11 3 (by decide), field_low (m := 15) (n := 3) _ _ 0 3 (by decide)]; exact field_whole _
  · rw [field_high (m := 29) (n := 3) _ _ 3 11 (by decide), field_low (m := 18) (n := 11) _ _ 0 11 (by decide)]; exact field_whole _
  · rw [field_low (m := 29) (n := 3) _ _ 0 3 (by decide)]; exact field_whole _

theorem layout26 {x0 : BitVec 9} {x1 : BitVec 3} {x2 : BitVec 3} {x3 : BitVec 3} {x4 : BitVec 11} {x5 : BitVec 3} {w : W32} (h : some (x0 ++ x1 ++ x2 ++ x3 ++ x4 ++ x5 : W32) = some w) :
    w.extractLsb' 23 9 = x0 ∧ w.extractLsb' 20 3 = x1 ∧ w.extractLsb' 17 3 = x2 ∧ w.extractLsb' 14 3 = x3 ∧ w.extractLsb' 3 11 = x4 ∧ w.extractLsb' 0 3 = x5 := by
  obtain rfl := Option.some.inj h
  refine ⟨?_, ?_, ?_, ?_, ?_, ?_⟩
  · rw [field_high (m := 29) (n := 3) _ _ 23 9 (by decide), field_high (m := 18) (n := 11) _ _ 20 9 (by decide), field_high (m := 15) (n := 3) _ _ 9 9 (by decide), field_high (m := 12) (n := 3) _ _ 6 9 (by decide), field_high (m := 9) (n := 3) _ _ 3 9 (by decide)]; exact field_whole _
  · rw [field_high (m := 29) (n := 3) _ _ 20 3 (by decide), field_high (m := 18) (n := 11) _ _ 17 3 (by decide), field_high (m := 15) (n := 3) _ _ 6 3 (by decide), field_high (m := 12) (n := 3) _ _ 3 3 (by decide), field_low (m := 9) (n := 3) _ _ 0 3 (by decide)]; exact field_whole _
  · rw [field_high (m := 29) (n := 3) _ _ 17 3 (by decide), field_high (m := 18) (n := 11) _ _ 14 3 (by decide), field_high (m := 15) (n := 3) _ _ 3 3 (by decide), field_low (m := 12) (n := 3) _ _ 0 3 (by decide)]; exact field_whole _
  · rw [field_high (m := 29) (n := 3) _ _ 14 3 (by decide), field_high (m := 18) (n := 11) _ _ 11 3 (by decide), field_low (m := 15) (n := 3) _ _ 0 3 (by decide)]; exact field_whole _
  · rw [field_high (m := 29) (n := 3) _ _ 3 11 (by decide), field_low (m := 18) (n := 11) _ _ 0 11 (by decide)]; exact field_whole _
  · rw [field_low (m := 29) (n := 3) _ _ 0 3 (by decide)]; exact field_whole _

theorem layout27 {x0 : BitVec 6} {x1 : BitVec 5} {x2 : BitVec 2} {x3 : BitVec 19} {w : W32} (h : some (x0 ++ x1 ++ x2 ++ x3 : W32) = some w) :
    w.extractLsb' 26 6 = x0 ∧ w.extractLsb' 21 5 = x1 ∧ w.extractLsb' 19 2 = x2 ∧ w.extractLsb' 0 19 = x3 := by
  obtain rfl := Option.some.inj h
  refine ⟨?_, ?_, ?_, ?_⟩
  · rw [field_high (m := 13) (n := 19) _ _ 26 6 (by decide), field_high (m := 11) (n := 2) _ _ 7 6 (by decide), field_high (m := 6) (n := 5) _ _ 5 6 (by decide)]; exact field_whole _
  · rw [field_high (m := 13) (n := 19) _ _ 21 5 (by decide), field_high (m := 11) (n := 2) _ _ 2 5 (by decide), field_low (m := 6) (n := 5) _ _ 0 5 (by decide)]; exact field_whole _
  · rw [field_high (m := 13) (n := 19) _ _ 19 2 (by decide), field_low (m := 11) (n := 2) _ _ 0 2 (by decide)]; exact field_whole _
  · rw [field_low (m := 13) (n := 19) _ _ 0 19 (by decide)]; exact field_whole _

theorem layout28 {x0 : BitVec 6} {x1 : BitVec 3} {x2 : BitVec 1} {x3 : BitVec 22} {w : W32} (h : some (x0 ++ x1 ++ x2 ++ x3 : W32) = some w) :
    w.extractLsb' 26 6 = x0 ∧ w.extractLsb' 23 3 = x1 ∧ w.extractLsb' 22 1 = x2 ∧ w.extractLsb' 0 22 = x3 := by
  obtain rfl := Option.some.inj h
  refine ⟨?_, ?_, ?_, ?_⟩
  · rw [field_high (m := 10) (n := 22) _ _ 26 6 (by decide), field_high (m := 9) (n := 1) _ _ 4 6 (by decide), field_high (m := 6) (n := 3) _ _ 3 6 (by decide)]; exact field_whole _
  · rw [field_high (m := 10) (n := 22) _ _ 23 3 (by decide), field_high (m := 9) (n := 1) _ _ 1 3 (by decide), field_low (m := 6) (n := 3) _ _ 0 3 (by decide)]; exact field_whole _
  · rw [field_high (m := 10) (n := 22) _ _ 22 1 (by decide), field_low (m := 9) (n := 1) _ _ 0 1 (by decide)]; exact field_whole _
  · rw [field_low (m := 10) (n := 22) _ _ 0 22 (by decide)]; exact field_whole _

theorem layout29 {x0 : BitVec 6} {x1 : BitVec 26} {w : W32} (h : some (x0 ++ x1 : W32) = some w) :
    w.extractLsb' 26 6 = x0 ∧ w.extractLsb' 0 26 = x1 := by
  obtain rfl := Option.some.inj h
  refine ⟨?_, ?_⟩
  · rw [field_high (m := 6) (n := 26) _ _ 26 6 (by decide)]; exact field_whole _
  · rw [field_low (m := 6) (n := 26) _ _ 0 26 (by decide)]; exact field_whole _

theorem layout30 {x0 : BitVec 6} {x1 : BitVec 6} {x2 : BitVec 17} {x3 : BitVec 3} {w : W32} (h : some (x0 ++ x1 ++ x2 ++ x3 : W32) = some w) :
    w.extractLsb' 26 6 = x0 ∧ w.extractLsb' 20 6 = x1 ∧ w.extractLsb' 3 17 = x2 ∧ w.extractLsb' 0 3 = x3 := by
  obtain rfl := Option.some.inj h
  refine ⟨?_, ?_, ?_, ?_⟩
  · rw [field_high (m := 29) (n := 3) _ _ 26 6 (by decide), field_high (m := 12) (n := 17) _ _ 23 6 (by decide), field_high (m := 6) (n := 6) _ _ 6 6 (by decide)]; exact field_whole _
  · rw [field_high (m := 29) (n := 3) _ _ 20 6 (by decide), field_high (m := 12) (n := 17) _ _ 17 6 (by decide), field_low (m := 6) (n := 6) _ _ 0 6 (by decide)]; exact field_whole _
  · rw [field_high (m := 29) (n := 3) _ _ 3 17 (by decide), field_low (m := 12) (n := 17) _ _ 0 17 (by decide)]; exact field_whole _
  · rw [field_low (m := 29) (n := 3) _ _ 0 3 (by decide)]; exact field_whole _

theorem layout31 {x0 : BitVec 12} {x1 : BitVec 6} {x2 : BitVec 14} {w : W32} (h : some (x0 ++ x1 ++ x2 : W32) = some w) :
    w.extractLsb' 20 12 = x0 ∧ w.extractLsb' 14 6 = x1 ∧ w.extractLsb' 0 14 = x2 := by
  obtain rfl := Option.some.inj h
  refine ⟨?_, ?_, ?_⟩
  · rw [field_high (m := 18) (n := 14) _ _ 20 12 (by decide), field_high (m := 12) (n := 6) _ _ 6 12 (by decide)]; exact field_whole _
  · rw [field_high (m := 18) (n := 14) _ _ 14 6 (by decide), field_low (m := 12) (n := 6) _ _ 0 6 (by decide)]; exact field_whole _
  · rw [field_low (m := 18) (n := 14) _ _ 0 14 (by decide)]; exact field_whole _

theorem layout32 {x0 : BitVec 32} {w : W32} (h : some (x0 : W32) = some w) :
    w.extractLsb' 0 32 = x0 := by
  obtain rfl := Option.some.inj h
  · exact field_whole _

theorem layout33 {x0 : BitVec 29} {x1 : BitVec 3} {w : W32} (h : some (x0 ++ x1 : W32) = some w) :
    w.extractLsb' 3 29 = x0 ∧ w.extractLsb' 0 3 = x1 := by
  obtain rfl := Option.some.inj h
  refine ⟨?_, ?_⟩
  · rw [field_high (m := 29) (n := 3) _ _ 3 29 (by decide)]; exact field_whole _
  · rw [field_low (m := 29) (n := 3) _ _ 0 3 (by decide)]; exact field_whole _

theorem layout34 {x0 : BitVec 8} {x1 : BitVec 1} {x2 : BitVec 3} {x3 : BitVec 20} {w : W32} (h : some (x0 ++ x1 ++ x2 ++ x3 : W32) = some w) :
    w.extractLsb' 24 8 = x0 ∧ w.extractLsb' 23 1 = x1 ∧ w.extractLsb' 20 3 = x2 ∧ w.extractLsb' 0 20 = x3 := by
  obtain rfl := Option.some.inj h
  refine ⟨?_, ?_, ?_, ?_⟩
  · rw [field_high (m := 12) (n := 20) _ _ 24 8 (by decide), field_high (m := 9) (n := 3) _ _ 4 8 (by decide), field_high (m := 8) (n := 1) _ _ 1 8 (by decide)]; exact field_whole _
  · rw [field_high (m := 12) (n := 20) _ _ 23 1 (by decide), field_high (m := 9) (n := 3) _ _ 3 1 (by decide), field_low (m := 8) (n := 1) _ _ 0 1 (by decide)]; exact field_whole _
  · rw [field_high (m := 12) (n := 20) _ _ 20 3 (by decide), field_low (m := 9) (n := 3) _ _ 0 3 (by decide)]; exact field_whole _
  · rw [field_low (m := 12) (n := 20) _ _ 0 20 (by decide)]; exact field_whole _

theorem layout35 {x0 : BitVec 6} {x1 : BitVec 3} {x2 : BitVec 2} {x3 : BitVec 5} {x4 : BitVec 5} {x5 : BitVec 3} {x6 : BitVec 4} {x7 : BitVec 4} {w : W32} (h : some (x0 ++ x1 ++ x2 ++ x3 ++ x4 ++ x5 ++ x6 ++ x7 : W32) = some w) :
    w.extractLsb' 26 6 = x0 ∧ w.extractLsb' 23 3 = x1 ∧ w.extractLsb' 21 2 = x2 ∧ w.extractLsb' 16 5 = x3 ∧ w.extractLsb' 11 5 = x4 ∧ w.extractLsb' 8 3 = x5 ∧ w.extractLsb' 4 4 = x6 ∧ w.extractLsb' 0 4 = x7 := by
  obtain rfl := Option.some.inj h
  refine ⟨?_, ?_, ?_, ?_, ?_, ?_, ?_, ?_⟩
  · rw [field_high (m := 28) (n := 4) _ _ 26 6 (by decide), field_high (m := 24) (n := 4) _ _ 22 6 (by decide), field_high (m := 21) (n := 3) _ _ 18 6 (by decide), field_high (m := 16) (n := 5) _ _ 15 6 (by decide), field_high (m := 11) (n := 5) _ _ 10 6 (by decide), field_high (m := 9) (n := 2) _ _ 5 6 (by decide), field_high (m := 6) (n := 3) _ _ 3 6 (by decide)]; exact field_whole _
  · rw [field_high (m := 28) (n := 4) _ _ 23 3 (by decide), field_high (m := 24) (n := 4) _ _ 19 3 (by decide), field_high (m := 21) (n := 3) _ _ 15 3 (by decide), field_high (m := 16) (n := 5) _ _ 12 3 (by decide), field_high (m := 11) (n := 5) _ _ 7 3 (by decide), field_high (m := 9) (n := 2) _ _ 2 3 (by decide), field_low (m := 6) (n := 3) _ _ 0 3 (by decide)]; exact field_whole _
  · rw [field_high (m := 28) (n := 4) _ _ 21 2 (by decide), field_high (m := 24) (n := 4) _ _ 17 2 (by decide), field_high (m := 21) (n := 3) _ _ 13 2 (by decide), field_high (m := 16) (n := 5) _ _ 10 2 (by decide), field_high (m := 11) (n := 5) _ _ 5 2 (by decide), field_low (m := 9) (n := 2) _ _ 0 2 (by decide)]; exact field_whole _
  · rw [field_high (m := 28) (n := 4) _ _ 16 5 (by decide), field_high (m := 24) (n := 4) _ _ 12 5 (by decide), field_high (m := 21) (n := 3) _ _ 8 5 (by decide), field_high (m := 16) (n := 5) _ _ 5 5 (by decide), field_low (m := 11) (n := 5) _ _ 0 5 (by decide)]; exact field_whole _
  · rw [field_high (m := 28) (n := 4) _ _ 11 5 (by decide), field_high (m := 24) (n := 4) _ _ 7 5 (by decide), field_high (m := 21) (n := 3) _ _ 3 5 (by decide), field_low (m := 16) (n := 5) _ _ 0 5 (by decide)]; exact field_whole _
  · rw [field_high (m := 28) (n := 4) _ _ 8 3 (by decide), field_high (m := 24) (n := 4) _ _ 4 3 (by decide), field_low (m := 21) (n := 3) _ _ 0 3 (by decide)]; exact field_whole _
  · rw [field_high (m := 28) (n := 4) _ _ 4 4 (by decide), field_low (m := 24) (n := 4) _ _ 0 4 (by decide)]; exact field_whole _
  · rw [field_low (m := 28) (n := 4) _ _ 0 4 (by decide)]; exact field_whole _

theorem layout36 {x0 : BitVec 11} {x1 : BitVec 5} {x2 : BitVec 5} {x3 : BitVec 3} {x4 : BitVec 4} {x5 : BitVec 4} {w : W32} (h : some (x0 ++ x1 ++ x2 ++ x3 ++ x4 ++ x5 : W32) = some w) :
    w.extractLsb' 21 11 = x0 ∧ w.extractLsb' 16 5 = x1 ∧ w.extractLsb' 11 5 = x2 ∧ w.extractLsb' 8 3 = x3 ∧ w.extractLsb' 4 4 = x4 ∧ w.extractLsb' 0 4 = x5 := by
  obtain rfl := Option.some.inj h
  refine ⟨?_, ?_, ?_, ?_, ?_, ?_⟩
  · rw [field_high (m := 28) (n := 4) _ _ 21 11 (by decide), field_high (m := 24) (n := 4) _ _ 17 11 (by decide), field_high (m := 21) (n := 3) _ _ 13 11 (by decide), field_high (m := 16) (n := 5) _ _ 10 11 (by decide), field_high (m := 11) (n := 5) _ _ 5 11 (by decide)]; exact field_whole _
  · rw [field_high (m := 28) (n := 4) _ _ 16 5 (by decide), field_high (m := 24) (n := 4) _ _ 12 5 (by decide), field_high (m := 21) (n := 3) _ _ 8 5 (by decide), field_high (m := 16) (n := 5) _ _ 5 5 (by decide), field_low (m := 11) (n := 5) _ _ 0 5 (by decide)]; exact field_whole _
  · rw [field_high (m := 28) (n := 4) _ _ 11 5 (by decide), field_high (m := 24) (n := 4) _ _ 7 5 (by decide), field_high (m := 21) (n := 3) _ _ 3 5 (by decide), field_low (m := 16) (n := 5) _ _ 0 5 (by decide)]; exact field_whole _
  · rw [field_high (m := 28) (n := 4) _ _ 8 3 (by decide), field_high (m := 24) (n := 4) _ _ 4 3 (by decide), field_low (m := 21) (n := 3) _ _ 0 3 (by decide)]; exact field_whole _
  · rw [field_high (m := 28) (n := 4) _ _ 4 4 (by decide), field_low (m := 24) (n := 4) _ _ 0 4 (by decide)]; exact field_whole _
  · rw [field_low (m := 28) (n := 4) _ _ 0 4 (by decide)]; exact field_whole _

theorem layout37 {x0 : BitVec 6} {x1 : BitVec 5} {x2 : BitVec 5} {x3 : BitVec 5} {x4 : BitVec 3} {x5 : BitVec 4} {x6 : BitVec 4} {w : W32} (h : some (x0 ++ x1 ++ x2 ++ x3 ++ x4 ++ x5 ++ x6 : W32) = some w) :
    w.extractLsb' 26 6 = x0 ∧ w.extractLsb' 21 5 = x1 ∧ w.extractLsb' 16 5 = x2 ∧ w.extractLsb' 11 5 = x3 ∧ w.extractLsb' 8 3 = x4 ∧ w.extractLsb' 4 4 = x5 ∧ w.extractLsb' 0 4 = x6 := by
  obtain rfl := Option.some.inj h
  refine ⟨?_, ?_, ?_, ?_, ?_, ?_, ?_⟩
  · rw [field_high (m := 28) (n := 4) _ _ 26 6 (by decide), field_high (m := 24) (n := 4) _ _ 22 6 (by decide), field_high (m := 21) (n := 3) _ _ 18 6 (by decide), field_high (m := 16) (n := 5) _ _ 15 6 (by decide), field_high (m := 11) (n := 5) _ _ 10 6 (by decide), field_high (m := 6) (n := 5) _ _ 5 6 (by decide)]; exact field_whole _
  · rw [field_high (m := 28) (n := 4) _ _ 21 5 (by decide), field_high (m := 24) (n := 4) _ _ 17 5 (by decide), field_high (m := 21) (n := 3) _ _ 13 5 (by decide), field_high (m := 16) (n := 5) _ _ 10 5 (by decide), field_high (m := 11) (n := 5) _ _ 5 5 (by decide), field_low (m := 6) (n := 5) _ _ 0 5 (by decide)]; exact field_whole _
  · rw [field_high (m := 28) (n := 4) _ _ 16 5 (by decide), field_high (m := 24) (n := 4) _ _ 12 5 (by decide), field_high (m := 21) (n := 3) _ _ 8 5 (by decide), field_high (m := 16) (n := 5) _ _ 5 5 (by decide), field_low (m := 11) (n := 5) _ _ 0 5 (by decide)]; exact field_whole _
  · rw [field_high (m := 28) (n := 4) _ _ 11 5 (by decide), field_high (m := 24) (n := 4) _ _ 7 5 (by decide), field_high (m := 21) (n := 3) _ _ 3 5 (by decide), field_low (m := 16) (n := 5) _ _ 0 5 (by decide)]; exact field_whole _
  · rw [field_high (m := 28) (n := 4) _ _ 8 3 (by decide), field_high (m := 24) (n := 4) _ _ 4 3 (by decide), field_low (m := 21) (n := 3) _ _ 0 3 (by decide)]; exact field_whole _
  · rw [field_high (m := 28) (n := 4) _ _ 4 4 (by decide), field_low (m := 24) (n := 4) _ _ 0 4 (by decide)]; exact field_whole _
  · rw [field_low (m := 28) (n := 4) _ _ 0 4 (by decide)]; exact field_whole _

theorem layout38 {x0 : BitVec 6} {x1 : BitVec 3} {x2 : BitVec 2} {x3 : BitVec 10} {x4 : BitVec 3} {x5 : BitVec 4} {x6 : BitVec 4} {w : W32} (h : some (x0 ++ x1 ++ x2 ++ x3 ++ x4 ++ x5 ++ x6 : W32) = some w) :
    w.extractLsb' 26 6 = x0 ∧ w.extractLsb' 23 3 = x1 ∧ w.extractLsb' 21 2 = x2 ∧ w.extractLsb' 11 10 = x3 ∧ w.extractLsb' 8 3 = x4 ∧ w.extractLsb' 4 4 = x5 ∧ w.extractLsb' 0 4 = x6 := by
  obtain rfl := Option.some.inj h
  refine ⟨?_, ?_, ?_, ?_, ?_, ?_, ?_⟩
  · rw [field_high (m := 28) (n := 4) _ _ 26 6 (by decide), field_high (m := 24) (n := 4) _ _ 22 6 (by decide), field_high (m := 21) (n := 3) _ _ 18 6 (by decide), field_high (m := 11) (n := 10) _ _ 15 6 (by decide), field_high (m := 9) (n := 2) _ _ 5 6 (by decide), field_high (m := 6) (n := 3) _ _ 3 6 (by decide)]; exact field_whole _
  · rw [field_high (m := 28) (n := 4) _ _ 23 3 (by decide), field_high (m := 24) (n := 4) _ _ 19 3 (by decide), field_high (m := 21) (n := 3) _ _ 15 3 (by decide), field_high (m := 11) (n := 10) _ _ 12 3 (by decide), field_high (m := 9) (n := 2) _ _ 2 3 (by decide), field_low (m := 6) (n := 3) _ _ 0 3 (by decide)]; exact field_whole _
  · rw [field_high (m := 28) (n := 4) _ _ 21 2 (by decide), field_high (m := 24) (n := 4) _ _ 17 2 (by decide), field_high (m := 21) (n := 3) _ _ 13 2 (by decide), field_high (m := 11) (n := 10) _ _ 10 2 (by decide), field_low (m := 9) (n := 2) _ _ 0 2 (by decide)]; exact field_whole _
  · rw [field_high (m := 28) (n := 4) _ _ 11 10 (by decide), field_high (m := 24) (n := 4) _ _ 7 10 (by decide), field_high (m := 21) (n := 3) _ _ 3 10 (by decide), field_low (m := 11) (n := 10) _ _ 0 10 (by decide)]; exact field_whole _
  · rw [field_high (m := 28) (n := 4) _ _ 8 3 (by decide), field_high (m := 24) (n := 4) _ _ 4 3 (by decide), field_low (m := 21) (n := 3) _ _ 0 3 (by decide)]; exact field_whole _
  · rw [field_high (m := 28) (n := 4) _ _ 4 4 (by decide), field_low (m := 24) (n := 4) _ _ 0 4 (by decide)]; exact field_whole _
  · rw [field_low (m := 28) (n := 4) _ _ 0 4 (by decide)]; exact field_whole _

theorem layout39 {x0 : BitVec 24} {x1 : BitVec 4} {x2 : BitVec 4} {w : W32} (h : some (x0 ++ x1 ++ x2 : W32) = some w) :
    w.extractLsb' 8 24 = x0 ∧ w.extractLsb' 4 4 = x1 ∧ w.extractLsb' 0 4 = x2 := by
  obtain rfl := Option.some.inj h
  refine ⟨?_, ?_, ?_⟩
  · rw [field_high (m := 28) (n := 4) _ _ 8 24 (by decide), field_high (m := 24) (n := 4) _ _ 4 24 (by decide)]; exact field_whole _
  · rw [field_high (m := 28) (n := 4) _ _ 4 4 (by decide), field_low (m := 24) (n := 4) _ _ 0 4 (by decide)]; exact field_whole _
  · rw [field_low (m := 28) (n := 4) _ _ 0 4 (by decide)]; exact field_whole _

theorem layout40 {x0 : BitVec 8} {x1 : BitVec 24} {w : W32} (h : some (x0 ++ x1 : W32) = some w) :
    w.extractLsb' 24 8 = x0 ∧ w.extractLsb' 0 24 = x1 := by
  obtain rfl := Option.some.inj h
  refine ⟨?_, ?_⟩
  · rw [field_high (m := 8) (n := 24) _ _ 24 8 (by decide)]; exact field_whole _
  · rw [field_low (m := 8) (n := 24) _ _ 0 24 (by decide)]; exact field_whole _

theorem layout41 {x0 : BitVec 25} {x1 : BitVec 2} {x2 : BitVec 2} {x3 : BitVec 3} {w : W32} (h : some (x0 ++ x1 ++ x2 ++ x3 : W32) = some w) :
    w.extractLsb' 7 25 = x0 ∧ w.extractLsb' 5 2 = x1 ∧ w.extractLsb' 3 2 = x2 ∧ w.extractLsb' 0 3 = x3 := by
  obtain rfl := Option.some.inj h
  refine ⟨?_, ?_, ?_, ?_⟩
  · rw [field_high (m := 29) (n := 3) _ _ 7 25 (by decide), field_high (m := 27) (n := 2) _ _ 4 25 (by decide), field_high (m := 25) (n := 2) _ _ 2 25 (by decide)]; exact field_whole _
  · rw [field_high (m := 29) (n := 3) _ _ 5 2 (by decide), field_high (m := 27) (n := 2) _ _ 2 2 (by decide), field_low (m := 25) (n := 2) _ _ 0 2 (by decide)]; exact field_whole _
  · rw [field_high (m := 29) (n := 3) _ _ 3 2 (by decide), field_low (m := 27) (n := 2) _ _ 0 2 (by decide)]; exact field_whole _
  · rw [field_low (m := 29) (n := 3) _ _ 0 3 (by decide)]; exact field_whole _

theorem layout42 {x0 : BitVec 28} {x1 : BitVec 1} {x2 : BitVec 3} {w : W32} (h : some (x0 ++ x1 ++ x2 : W32) = some w) :
    w.extractLsb' 4 28 = x0 ∧ w.extractLsb' 3 1 = x1 ∧ w.extractLsb' 0 3 = x2 := by
  obtain rfl := Option.some.inj h
  refine ⟨?_, ?_, ?_⟩
  · rw [field_high (m := 29) (n := 3) _ _ 4 28 (by decide), field_high (m := 28) (n := 1) _ _ 1 28 (by decide)]; exact field_whole _
  · rw [field_high (m := 29) (n := 3) _ _ 3 1 (by decide), field_low (m := 28) (n := 1) _ _ 0 1 (by decide)]; exact field_whole _
  · rw [field_low (m := 29) (n := 3) _ _ 0 3 (by decide)]; exact field_whole _

theorem layout43 {x0 : BitVec 6} {x1 : BitVec 6} {x2 : BitVec 5} {x3 : BitVec 10} {x4 : BitVec 2} {x5 : BitVec 3} {w : W32} (h : some (x0 ++ x1 ++ x2 ++ x3 ++ x4 ++ x5 : W32) = some w) :
    w.extractLsb' 26 6 = x0 ∧ w.extractLsb' 20 6 = x1 ∧ w.extractLsb' 15 5 = x2 ∧ w.extractLsb' 5 10 = x3 ∧ w.extractLsb' 3 2 = x4 ∧ w.extractLsb' 0 3 = x5 := by
  obtain rfl := Option.some.inj h
  refine ⟨?_, ?_, ?_, ?_, ?_, ?_⟩
  · rw [field_high (m := 29) (n := 3) _ _ 26 6 (by decide), field_high (m := 27) (n := 2) _ _ 23 6 (by decide), field_high (m := 17) (n := 10) _ _ 21 6 (by decide), field_high (m := 12) (n := 5) _ _ 11 6 (by decide), field_high (m := 6) (n := 6) _ _ 6 6 (by decide)]; exact field_whole _
  · rw [field_high (m := 29) (n := 3) _ _ 20 6 (by decide), field_high (m := 27) (n := 2) _ _ 17 6 (by decide), field_high (m := 17) (n := 10) _ _ 15 6 (by decide), field_high (m := 12) (n := 5) _ _ 5 6 (by decide), field_low (m := 6) (n := 6) _ _ 0 6 (by decide)]; exact field_whole _
  · rw [field_high (m := 29) (n := 3) _ _ 15 5 (by decide), field_high (m := 27) (n := 2) _ _ 12 5 (by decide), field_high (m := 17) (n := 10) _ _ 10 5 (by decide), field_low (m := 12) (n := 5) _ _ 0 5 (by decide)]; exact field_whole _
  · rw [field_high (m := 29) (n := 3) _ _ 5 10 (by decide), field_high (m := 27) (n := 2) _ _ 2 10 (by decide), field_low (m := 17) (n := 10) _ _ 0 10 (by decide)]; exact field_whole _
  · rw [field_high (m := 29) (n := 3) _ _ 3 2 (by decide), field_low (m := 27) (n := 2) _ _ 0 2 (by decide)]; exact field_whole _
  · rw [field_low (m := 29) (n := 3) _ _ 0 3 (by decide)]; exact field_whole _

theorem layout44 {x0 : BitVec 12} {x1 : BitVec 5} {x2 : BitVec 10} {x3 : BitVec 5} {w : W32} (h : some (x0 ++ x1 ++ x2 ++ x3 : W32) = some w) :
    w.extractLsb' 20 12 = x0 ∧ w.extractLsb' 15 5 = x1 ∧ w.extractLsb' 5 10 = x2 ∧ w.extractLsb' 0 5 = x3 := by
  obtain rfl := Option.some.inj h
  refine ⟨?_, ?_, ?_, ?_⟩
  · rw [field_high (m := 27) (n := 5) _ _ 20 12 (by decide), field_high (m := 17) (n := 10) _ _ 15 12 (by decide), field_high (m := 12) (n := 5) _ _ 5 12 (by decide)]; exact field_whole _
  · rw [field_high (m := 27) (n := 5) _ _ 15 5 (by decide), field_high (m := 17) (n := 10) _ _ 10 5 (by decide), field_low (m := 12) (n := 5) _ _ 0 5 (by decide)]; exact field_whole _
  · rw [field_high (m := 27) (n := 5) _ _ 5 10 (by decide), field_low (m := 17) (n := 10) _ _ 0 10 (by decide)]; exact field_whole _
  · rw [field_low (m := 27) (n := 5) _ _ 0 5 (by decide)]; exact field_whole _

theorem layout45 {x0 : BitVec 12} {x1 : BitVec 5} {x2 : BitVec 15} {w : W32} (h : some (x0 ++ x1 ++ x2 : W32) = some w) :
    w.extractLsb' 20 12 = x0 ∧ w.extractLsb' 15 5 = x1 ∧ w.extractLsb' 0 15 = x2 := by
  obtain rfl := Option.some.inj h
  refine ⟨?_, ?_, ?_⟩
  · rw [field_high (m := 17) (n := 15) _ _ 20 12 (by decide), field_high (m := 12) (n := 5) _ _ 5 12 (by decide)]; exact field_whole _
  · rw [field_high (m := 17) (n := 15) _ _ 15 5 (by decide), field_low (m := 12) (n := 5) _ _ 0 5 (by decide)]; exact field_whole _
  · rw [field_low (m := 17) (n := 15) _ _ 0 15 (by decide)]; exact field_whole _

theorem layout46 {x0 : BitVec 6} {x1 : BitVec 6} {x2 : BitVec 20} {w : W32} (h : some (x0 ++ x1 ++ x2 : W32) = some w) :
    w.extractLsb' 26 6 = x0 ∧ w.extractLsb' 20 6 = x1 ∧ w.extractLsb' 0 20 = x2 := by
  obtain rfl := Option.some.inj h
  refine ⟨?_, ?_, ?_⟩
  · rw [field_high (m := 12) (n := 20) _ _ 26 6 (by decide), field_high (m := 6) (n := 6) _ _ 6 6 (by decide)]; exact field_whole _
  · rw [field_high (m := 12) (n := 20) _ _ 20 6 (by decide), field_low (m := 6) (n := 6) _ _ 0 6 (by decide)]; exact field_whole _
  · rw [field_low (m := 12) (n := 20) _ _ 0 20 (by decide)]; exact field_whole _

/-! ### Major opcodes -/

theorem major01 {w : W32} (h : w.extractLsb' 26 6 = 1#6) : decode w = decodeMajor01 w := by
  unfold decode; rw [h]; rfl

theorem major02 {w : W32} (h : w.extractLsb' 26 6 = 2#6) : decode w = decodeMajor02 w := by
  unfold decode; rw [h]; rfl

theorem major03 {w : W32} (h : w.extractLsb' 26 6 = 3#6) : decode w = decodeMajor03 w := by
  unfold decode; rw [h]; rfl

theorem major04 {w : W32} (h : w.extractLsb' 26 6 = 4#6) : decode w = decodeMajor04 w := by
  unfold decode; rw [h]; rfl

theorem major05 {w : W32} (h : w.extractLsb' 26 6 = 5#6) : decode w = decodeMajor05 w := by
  unfold decode; rw [h]; rfl

theorem major06 {w : W32} (h : w.extractLsb' 26 6 = 6#6) : decode w = decodeMajor06 w := by
  unfold decode; rw [h]; rfl

theorem major07 {w : W32} (h : w.extractLsb' 26 6 = 7#6) : decode w = decodeMajor07 w := by
  unfold decode; rw [h]; rfl

theorem major08 {w : W32} (h : w.extractLsb' 26 6 = 8#6) : decode w = decodeMajor08 w := by
  unfold decode; rw [h]; rfl

theorem major09 {w : W32} (h : w.extractLsb' 26 6 = 9#6) : decode w = decodeMajor09 w := by
  unfold decode; rw [h]; rfl

theorem major0A {w : W32} (h : w.extractLsb' 26 6 = 10#6) : decode w = decodeMajor0A w := by
  unfold decode; rw [h]; rfl

theorem major0B {w : W32} (h : w.extractLsb' 26 6 = 11#6) : decode w = decodeMajor0B w := by
  unfold decode; rw [h]; rfl

theorem major0C {w : W32} (h : w.extractLsb' 26 6 = 12#6) : decode w = decodeMajor0C w := by
  unfold decode; rw [h]; rfl

theorem major0D {w : W32} (h : w.extractLsb' 26 6 = 13#6) : decode w = decodeMajor0D w := by
  unfold decode; rw [h]; rfl

theorem major0E {w : W32} (h : w.extractLsb' 26 6 = 14#6) : decode w = decodeMajor0E w := by
  unfold decode; rw [h]; rfl

theorem major0F {w : W32} (h : w.extractLsb' 26 6 = 15#6) : decode w = decodeMajor0F w := by
  unfold decode; rw [h]; rfl

theorem major10 {w : W32} (h : w.extractLsb' 26 6 = 16#6) : decode w = decodeMajor10 w := by
  unfold decode; rw [h]; rfl

theorem major11 {w : W32} (h : w.extractLsb' 26 6 = 17#6) : decode w = decodeMajor11 w := by
  unfold decode; rw [h]; rfl

theorem major12 {w : W32} (h : w.extractLsb' 26 6 = 18#6) : decode w = decodeMajor12 w := by
  unfold decode; rw [h]; rfl

theorem major13 {w : W32} (h : w.extractLsb' 26 6 = 19#6) : decode w = decodeMajor13 w := by
  unfold decode; rw [h]; rfl

theorem major14 {w : W32} (h : w.extractLsb' 26 6 = 20#6) : decode w = decodeMajor14 w := by
  unfold decode; rw [h]; rfl

theorem major15 {w : W32} (h : w.extractLsb' 26 6 = 21#6) : decode w = decodeMajor15 w := by
  unfold decode; rw [h]; rfl

theorem major16 {w : W32} (h : w.extractLsb' 26 6 = 22#6) : decode w = decodeMajor16 w := by
  unfold decode; rw [h]; rfl

theorem major18 {w : W32} (h : w.extractLsb' 26 6 = 24#6) : decode w = decodeMajor18 w := by
  unfold decode; rw [h]; rfl

theorem major19 {w : W32} (h : w.extractLsb' 26 6 = 25#6) : decode w = decodeMajor19 w := by
  unfold decode; rw [h]; rfl

theorem major1A {w : W32} (h : w.extractLsb' 26 6 = 26#6) : decode w = decodeMajor1A w := by
  unfold decode; rw [h]; rfl

theorem major1B {w : W32} (h : w.extractLsb' 26 6 = 27#6) : decode w = decodeMajor1B w := by
  unfold decode; rw [h]; rfl

theorem major1C {w : W32} (h : w.extractLsb' 26 6 = 28#6) : decode w = decodeMajor1C w := by
  unfold decode; rw [h]; rfl

theorem major20 {w : W32} (h : w.extractLsb' 26 6 = 32#6) : decode w = decodeMajor20 w := by
  unfold decode; rw [h]; rfl

theorem major21 {w : W32} (h : w.extractLsb' 26 6 = 33#6) : decode w = decodeMajor21 w := by
  unfold decode; rw [h]; rfl

theorem major22 {w : W32} (h : w.extractLsb' 26 6 = 34#6) : decode w = decodeMajor22 w := by
  unfold decode; rw [h]; rfl

theorem major23 {w : W32} (h : w.extractLsb' 26 6 = 35#6) : decode w = decodeMajor23 w := by
  unfold decode; rw [h]; rfl

theorem major24 {w : W32} (h : w.extractLsb' 26 6 = 36#6) : decode w = decodeMajor24 w := by
  unfold decode; rw [h]; rfl

theorem major25 {w : W32} (h : w.extractLsb' 26 6 = 37#6) : decode w = decodeMajor25 w := by
  unfold decode; rw [h]; rfl

theorem major26 {w : W32} (h : w.extractLsb' 26 6 = 38#6) : decode w = decodeMajor26 w := by
  unfold decode; rw [h]; rfl

theorem major27 {w : W32} (h : w.extractLsb' 26 6 = 39#6) : decode w = decodeMajor27 w := by
  unfold decode; rw [h]; rfl

theorem major28 {w : W32} (h : w.extractLsb' 26 6 = 40#6) : decode w = decodeMajor28 w := by
  unfold decode; rw [h]; rfl

theorem major29 {w : W32} (h : w.extractLsb' 26 6 = 41#6) : decode w = decodeMajor29 w := by
  unfold decode; rw [h]; rfl

theorem major2A {w : W32} (h : w.extractLsb' 26 6 = 42#6) : decode w = decodeMajor2A w := by
  unfold decode; rw [h]; rfl

theorem major2B {w : W32} (h : w.extractLsb' 26 6 = 43#6) : decode w = decodeMajor2B w := by
  unfold decode; rw [h]; rfl

theorem major2C {w : W32} (h : w.extractLsb' 26 6 = 44#6) : decode w = decodeMajor2C w := by
  unfold decode; rw [h]; rfl

theorem major2D {w : W32} (h : w.extractLsb' 26 6 = 45#6) : decode w = decodeMajor2D w := by
  unfold decode; rw [h]; rfl

theorem major2E {w : W32} (h : w.extractLsb' 26 6 = 46#6) : decode w = decodeMajor2E w := by
  unfold decode; rw [h]; rfl

theorem major30 {w : W32} (h : w.extractLsb' 26 6 = 48#6) : decode w = decodeMajor30 w := by
  unfold decode; rw [h]; rfl

theorem major31 {w : W32} (h : w.extractLsb' 26 6 = 49#6) : decode w = decodeMajor31 w := by
  unfold decode; rw [h]; rfl

theorem major32 {w : W32} (h : w.extractLsb' 26 6 = 50#6) : decode w = decodeMajor32 w := by
  unfold decode; rw [h]; rfl

theorem major34 {w : W32} (h : w.extractLsb' 26 6 = 52#6) : decode w = decodeMajor34 w := by
  unfold decode; rw [h]; rfl

theorem major35 {w : W32} (h : w.extractLsb' 26 6 = 53#6) : decode w = decodeMajor35 w := by
  unfold decode; rw [h]; rfl

theorem major36 {w : W32} (h : w.extractLsb' 26 6 = 54#6) : decode w = decodeMajor36 w := by
  unfold decode; rw [h]; rfl

theorem major37 {w : W32} (h : w.extractLsb' 26 6 = 55#6) : decode w = decodeMajor37 w := by
  unfold decode; rw [h]; rfl

theorem major38 {w : W32} (h : w.extractLsb' 26 6 = 56#6) : decode w = decodeMajor38 w := by
  unfold decode; rw [h]; rfl

theorem major39 {w : W32} (h : w.extractLsb' 26 6 = 57#6) : decode w = decodeMajor39 w := by
  unfold decode; rw [h]; rfl

theorem major3A {w : W32} (h : w.extractLsb' 26 6 = 58#6) : decode w = decodeMajor3A w := by
  unfold decode; rw [h]; rfl

theorem major3B {w : W32} (h : w.extractLsb' 26 6 = 59#6) : decode w = decodeMajor3B w := by
  unfold decode; rw [h]; rfl

theorem major3C {w : W32} (h : w.extractLsb' 26 6 = 60#6) : decode w = decodeMajor3C w := by
  unfold decode; rw [h]; rfl

theorem major3D {w : W32} (h : w.extractLsb' 26 6 = 61#6) : decode w = decodeMajor3D w := by
  unfold decode; rw [h]; rfl

theorem major3E {w : W32} (h : w.extractLsb' 26 6 = 62#6) : decode w = decodeMajor3E w := by
  unfold decode; rw [h]; rfl

theorem major3F {w : W32} (h : w.extractLsb' 26 6 = 63#6) : decode w = decodeMajor3F w := by
  unfold decode; rw [h]; rfl

/-! ### The family -/

/-- Decoding the word of a well-formed instruction gives the instruction. -/
def RoundTrip.Statement (i : Instr) : Prop := i.wf = true → ∀ w, encode i = some w → decode w = some i

theorem RoundTrip.add (d a b : BitVec 6) (g : BitVec 3) : RoundTrip.Statement (.add d a b g) := by
  intro _ w h
  obtain ⟨f0, f1, f2, f3, f4, f5⟩ := layout0 h
  rw [major01 f0, decodeMajor01, if_neg (field_not f4 3 5 rfl), if_neg (field_not f4 3 5 rfl), if_neg (field_not f4 3 5 rfl), if_neg (field_not f4 3 5 rfl), if_neg (field_not f4 3 5 rfl), if_neg (field_not f4 3 5 rfl), if_neg (field_not f4 3 5 rfl), if_neg (field_not f4 3 5 rfl), if_pos (field_is f4 rfl), f1, f2, f3, f5]

theorem RoundTrip.addc (d a b : BitVec 6) (g : BitVec 3) : RoundTrip.Statement (.addc d a b g) := by
  intro _ w h
  obtain ⟨f0, f1, f2, f3, f4, f5⟩ := layout0 h
  rw [major01 f0, decodeMajor01, if_neg (field_not f4 3 5 rfl), if_neg (field_not f4 3 5 rfl), if_neg (field_not f4 3 5 rfl), if_neg (field_not f4 3 5 rfl), if_neg (field_not f4 3 5 rfl), if_neg (field_not f4 3 5 rfl), if_neg (field_not f4 3 5 rfl), if_neg (field_not f4 3 5 rfl), if_neg (field_not f4 3 5 rfl), if_pos (field_is f4 rfl), f1, f2, f3, f5]

theorem RoundTrip.sub (d a b : BitVec 6) (g : BitVec 3) : RoundTrip.Statement (.sub d a b g) := by
  intro _ w h
  obtain ⟨f0, f1, f2, f3, f4, f5⟩ := layout0 h
  rw [major01 f0, decodeMajor01, if_neg (field_not f4 3 5 rfl), if_neg (field_not f4 3 5 rfl), if_neg (field_not f4 3 5 rfl), if_neg (field_not f4 3 5 rfl), if_neg (field_not f4 3 5 rfl), if_neg (field_not f4 3 5 rfl), if_neg (field_not f4 3 5 rfl), if_neg (field_not f4 3 5 rfl), if_neg (field_not f4 3 5 rfl), if_neg (field_not f4 3 5 rfl), if_pos (field_is f4 rfl), f1, f2, f3, f5]

theorem RoundTrip.subb (d a b : BitVec 6) (g : BitVec 3) : RoundTrip.Statement (.subb d a b g) := by
  intro _ w h
  obtain ⟨f0, f1, f2, f3, f4, f5⟩ := layout0 h
  rw [major01 f0, decodeMajor01, if_neg (field_not f4 3 5 rfl), if_neg (field_not f4 3 5 rfl), if_neg (field_not f4 3 5 rfl), if_neg (field_not f4 3 5 rfl), if_neg (field_not f4 3 5 rfl), if_neg (field_not f4 3 5 rfl), if_neg (field_not f4 3 5 rfl), if_neg (field_not f4 3 5 rfl), if_neg (field_not f4 3 5 rfl), if_neg (field_not f4 3 5 rfl), if_neg (field_not f4 3 5 rfl), if_pos (field_is f4 rfl), f1, f2, f3, f5]

theorem RoundTrip.mul (d a b : BitVec 6) (g : BitVec 3) : RoundTrip.Statement (.mul d a b g) := by
  intro _ w h
  obtain ⟨f0, f1, f2, f3, f4, f5⟩ := layout0 h
  rw [major01 f0, decodeMajor01, if_neg (field_not f4 3 5 rfl), if_neg (field_not f4 3 5 rfl), if_neg (field_not f4 3 5 rfl), if_neg (field_not f4 3 5 rfl), if_neg (field_not f4 3 5 rfl), if_neg (field_not f4 3 5 rfl), if_neg (field_not f4 3 5 rfl), if_neg (field_not f4 3 5 rfl), if_neg (field_not f4 3 5 rfl), if_neg (field_not f4 3 5 rfl), if_neg (field_not f4 3 5 rfl), if_neg (field_not f4 3 5 rfl), if_pos (field_is f4 rfl), f1, f2, f3, f5]

theorem RoundTrip.mulhS (d a b : BitVec 6) (g : BitVec 3) : RoundTrip.Statement (.mulhS d a b g) := by
  intro _ w h
  obtain ⟨f0, f1, f2, f3, f4, f5⟩ := layout0 h
  rw [major01 f0, decodeMajor01, if_neg (field_not f4 3 5 rfl), if_neg (field_not f4 3 5 rfl), if_neg (field_not f4 3 5 rfl), if_neg (field_not f4 3 5 rfl), if_neg (field_not f4 3 5 rfl), if_neg (field_not f4 3 5 rfl), if_neg (field_not f4 3 5 rfl), if_neg (field_not f4 3 5 rfl), if_neg (field_not f4 3 5 rfl), if_neg (field_not f4 3 5 rfl), if_neg (field_not f4 3 5 rfl), if_neg (field_not f4 3 5 rfl), if_neg (field_not f4 3 5 rfl), if_pos (field_is f4 rfl), f1, f2, f3, f5]

theorem RoundTrip.mulhU (d a b : BitVec 6) (g : BitVec 3) : RoundTrip.Statement (.mulhU d a b g) := by
  intro _ w h
  obtain ⟨f0, f1, f2, f3, f4, f5⟩ := layout0 h
  rw [major01 f0, decodeMajor01, if_neg (field_not f4 3 5 rfl), if_neg (field_not f4 3 5 rfl), if_neg (field_not f4 3 5 rfl), if_neg (field_not f4 3 5 rfl), if_neg (field_not f4 3 5 rfl), if_neg (field_not f4 3 5 rfl), if_neg (field_not f4 3 5 rfl), if_neg (field_not f4 3 5 rfl), if_neg (field_not f4 3 5 rfl), if_neg (field_not f4 3 5 rfl), if_neg (field_not f4 3 5 rfl), if_neg (field_not f4 3 5 rfl), if_neg (field_not f4 3 5 rfl), if_neg (field_not f4 3 5 rfl), if_pos (field_is f4 rfl), f1, f2, f3, f5]

theorem RoundTrip.minS (d a b : BitVec 6) (g : BitVec 3) : RoundTrip.Statement (.minS d a b g) := by
  intro _ w h
  obtain ⟨f0, f1, f2, f3, f4, f5⟩ := layout0 h
  rw [major01 f0, decodeMajor01, if_neg (field_not f4 3 5 rfl), if_neg (field_not f4 3 5 rfl), if_neg (field_not f4 3 5 rfl), if_neg (field_not f4 3 5 rfl), if_neg (field_not f4 3 5 rfl), if_neg (field_not f4 3 5 rfl), if_neg (field_not f4 3 5 rfl), if_neg (field_not f4 3 5 rfl), if_neg (field_not f4 3 5 rfl), if_neg (field_not f4 3 5 rfl), if_neg (field_not f4 3 5 rfl), if_neg (field_not f4 3 5 rfl), if_neg (field_not f4 3 5 rfl), if_neg (field_not f4 3 5 rfl), if_neg (field_not f4 3 5 rfl), if_pos (field_is f4 rfl), f1, f2, f3, f5]

theorem RoundTrip.minU (d a b : BitVec 6) (g : BitVec 3) : RoundTrip.Statement (.minU d a b g) := by
  intro _ w h
  obtain ⟨f0, f1, f2, f3, f4, f5⟩ := layout0 h
  rw [major01 f0, decodeMajor01, if_neg (field_not f4 3 5 rfl), if_neg (field_not f4 3 5 rfl), if_neg (field_not f4 3 5 rfl), if_neg (field_not f4 3 5 rfl), if_neg (field_not f4 3 5 rfl), if_neg (field_not f4 3 5 rfl), if_neg (field_not f4 3 5 rfl), if_neg (field_not f4 3 5 rfl), if_neg (field_not f4 3 5 rfl), if_neg (field_not f4 3 5 rfl), if_neg (field_not f4 3 5 rfl), if_neg (field_not f4 3 5 rfl), if_neg (field_not f4 3 5 rfl), if_neg (field_not f4 3 5 rfl), if_neg (field_not f4 3 5 rfl), if_neg (field_not f4 3 5 rfl), if_pos (field_is f4 rfl), f1, f2, f3, f5]

theorem RoundTrip.maxS (d a b : BitVec 6) (g : BitVec 3) : RoundTrip.Statement (.maxS d a b g) := by
  intro _ w h
  obtain ⟨f0, f1, f2, f3, f4, f5⟩ := layout0 h
  rw [major01 f0, decodeMajor01, if_neg (field_not f4 3 5 rfl), if_neg (field_not f4 3 5 rfl), if_neg (field_not f4 3 5 rfl), if_neg (field_not f4 3 5 rfl), if_neg (field_not f4 3 5 rfl), if_neg (field_not f4 3 5 rfl), if_neg (field_not f4 3 5 rfl), if_neg (field_not f4 3 5 rfl), if_neg (field_not f4 3 5 rfl), if_neg (field_not f4 3 5 rfl), if_neg (field_not f4 3 5 rfl), if_neg (field_not f4 3 5 rfl), if_neg (field_not f4 3 5 rfl), if_neg (field_not f4 3 5 rfl), if_neg (field_not f4 3 5 rfl), if_neg (field_not f4 3 5 rfl), if_neg (field_not f4 3 5 rfl), if_pos (field_is f4 rfl), f1, f2, f3, f5]

theorem RoundTrip.maxU (d a b : BitVec 6) (g : BitVec 3) : RoundTrip.Statement (.maxU d a b g) := by
  intro _ w h
  obtain ⟨f0, f1, f2, f3, f4, f5⟩ := layout0 h
  rw [major01 f0, decodeMajor01, if_neg (field_not f4 3 5 rfl), if_neg (field_not f4 3 5 rfl), if_neg (field_not f4 3 5 rfl), if_neg (field_not f4 3 5 rfl), if_neg (field_not f4 3 5 rfl), if_neg (field_not f4 3 5 rfl), if_neg (field_not f4 3 5 rfl), if_neg (field_not f4 3 5 rfl), if_neg (field_not f4 3 5 rfl), if_neg (field_not f4 3 5 rfl), if_neg (field_not f4 3 5 rfl), if_neg (field_not f4 3 5 rfl), if_neg (field_not f4 3 5 rfl), if_neg (field_not f4 3 5 rfl), if_neg (field_not f4 3 5 rfl), if_neg (field_not f4 3 5 rfl), if_neg (field_not f4 3 5 rfl), if_neg (field_not f4 3 5 rfl), if_pos (field_is f4 rfl), f1, f2, f3, f5]

theorem RoundTrip.abs (d a : BitVec 6) (g : BitVec 3) : RoundTrip.Statement (.abs d a g) := by
  intro _ w h
  obtain ⟨f0, f1, f2, f3, f4⟩ := layout1 h
  rw [major01 f0, decodeMajor01, if_pos (field_is f3 rfl), f1, f2, f4]

theorem RoundTrip.neg (d a : BitVec 6) (g : BitVec 3) : RoundTrip.Statement (.neg d a g) := by
  intro _ w h
  obtain ⟨f0, f1, f2, f3, f4⟩ := layout1 h
  rw [major01 f0, decodeMajor01, if_neg (field_not f3 3 11 rfl), if_pos (field_is f3 rfl), f1, f2, f4]

theorem RoundTrip.popc (d a : BitVec 6) (g : BitVec 3) : RoundTrip.Statement (.popc d a g) := by
  intro _ w h
  obtain ⟨f0, f1, f2, f3, f4⟩ := layout1 h
  rw [major01 f0, decodeMajor01, if_neg (field_not f3 3 11 rfl), if_neg (field_not f3 3 11 rfl), if_pos (field_is f3 rfl), f1, f2, f4]

theorem RoundTrip.clz (d a : BitVec 6) (g : BitVec 3) : RoundTrip.Statement (.clz d a g) := by
  intro _ w h
  obtain ⟨f0, f1, f2, f3, f4⟩ := layout1 h
  rw [major01 f0, decodeMajor01, if_neg (field_not f3 3 11 rfl), if_neg (field_not f3 3 11 rfl), if_neg (field_not f3 3 11 rfl), if_pos (field_is f3 rfl), f1, f2, f4]

theorem RoundTrip.ctz (d a : BitVec 6) (g : BitVec 3) : RoundTrip.Statement (.ctz d a g) := by
  intro _ w h
  obtain ⟨f0, f1, f2, f3, f4⟩ := layout1 h
  rw [major01 f0, decodeMajor01, if_neg (field_not f3 3 11 rfl), if_neg (field_not f3 3 11 rfl), if_neg (field_not f3 3 11 rfl), if_neg (field_not f3 3 11 rfl), if_pos (field_is f3 rfl), f1, f2, f4]

theorem RoundTrip.brev (d a : BitVec 6) (g : BitVec 3) : RoundTrip.Statement (.brev d a g) := by
  intro _ w h
  obtain ⟨f0, f1, f2, f3, f4⟩ := layout1 h
  rw [major01 f0, decodeMajor01, if_neg (field_not f3 3 11 rfl), if_neg (field_not f3 3 11 rfl), if_neg (field_not f3 3 11 rfl), if_neg (field_not f3 3 11 rfl), if_neg (field_not f3 3 11 rfl), if_pos (field_is f3 rfl), f1, f2, f4]

theorem RoundTrip.mov (d a : BitVec 6) (g : BitVec 3) : RoundTrip.Statement (.mov d a g) := by
  intro _ w h
  obtain ⟨f0, f1, f2, f3, f4⟩ := layout1 h
  rw [major01 f0, decodeMajor01, if_neg (field_not f3 3 11 rfl), if_neg (field_not f3 3 11 rfl), if_neg (field_not f3 3 11 rfl), if_neg (field_not f3 3 11 rfl), if_neg (field_not f3 3 11 rfl), if_neg (field_not f3 3 11 rfl), if_pos (field_is f3 rfl), f1, f2, f4]

theorem RoundTrip.movVK (d a : BitVec 6) (g : BitVec 3) : RoundTrip.Statement (.movVK d a g) := by
  intro _ w h
  obtain ⟨f0, f1, f2, f3, f4⟩ := layout1 h
  rw [major01 f0, decodeMajor01, if_neg (field_not f3 3 11 rfl), if_neg (field_not f3 3 11 rfl), if_neg (field_not f3 3 11 rfl), if_neg (field_not f3 3 11 rfl), if_neg (field_not f3 3 11 rfl), if_neg (field_not f3 3 11 rfl), if_neg (field_not f3 3 11 rfl), if_pos (field_is f3 rfl), f1, f2, f4]

theorem RoundTrip.addK (d a b : BitVec 6) : RoundTrip.Statement (.addK d a b) := by
  intro _ w h
  obtain ⟨f0, f1, f2, f3, f4⟩ := layout2 h
  rw [major18 f0, decodeMajor18, if_neg (field_not f4 0 8 rfl), if_neg (field_not f4 0 8 rfl), if_neg (field_not f4 0 8 rfl), if_neg (field_not f4 0 8 rfl), if_neg (field_not f4 0 8 rfl), if_neg (field_not f4 0 8 rfl), if_neg (field_not f4 0 8 rfl), if_pos (field_is f4 rfl), f1, f2, f3]

theorem RoundTrip.subK (d a b : BitVec 6) : RoundTrip.Statement (.subK d a b) := by
  intro _ w h
  obtain ⟨f0, f1, f2, f3, f4⟩ := layout2 h
  rw [major18 f0, decodeMajor18, if_neg (field_not f4 0 8 rfl), if_neg (field_not f4 0 8 rfl), if_neg (field_not f4 0 8 rfl), if_neg (field_not f4 0 8 rfl), if_neg (field_not f4 0 8 rfl), if_neg (field_not f4 0 8 rfl), if_neg (field_not f4 0 8 rfl), if_neg (field_not f4 0 8 rfl), if_pos (field_is f4 rfl), f1, f2, f3]

theorem RoundTrip.mulK (d a b : BitVec 6) : RoundTrip.Statement (.mulK d a b) := by
  intro _ w h
  obtain ⟨f0, f1, f2, f3, f4⟩ := layout2 h
  rw [major18 f0, decodeMajor18, if_neg (field_not f4 0 8 rfl), if_neg (field_not f4 0 8 rfl), if_neg (field_not f4 0 8 rfl), if_neg (field_not f4 0 8 rfl), if_neg (field_not f4 0 8 rfl), if_neg (field_not f4 0 8 rfl), if_neg (field_not f4 0 8 rfl), if_neg (field_not f4 0 8 rfl), if_neg (field_not f4 0 8 rfl), if_pos (field_is f4 rfl), f1, f2, f3]

theorem RoundTrip.mulhSK (d a b : BitVec 6) : RoundTrip.Statement (.mulhSK d a b) := by
  intro _ w h
  obtain ⟨f0, f1, f2, f3, f4⟩ := layout2 h
  rw [major18 f0, decodeMajor18, if_neg (field_not f4 0 8 rfl), if_neg (field_not f4 0 8 rfl), if_neg (field_not f4 0 8 rfl), if_neg (field_not f4 0 8 rfl), if_neg (field_not f4 0 8 rfl), if_neg (field_not f4 0 8 rfl), if_neg (field_not f4 0 8 rfl), if_neg (field_not f4 0 8 rfl), if_neg (field_not f4 0 8 rfl), if_neg (field_not f4 0 8 rfl), if_pos (field_is f4 rfl), f1, f2, f3]

theorem RoundTrip.mulhUK (d a b : BitVec 6) : RoundTrip.Statement (.mulhUK d a b) := by
  intro _ w h
  obtain ⟨f0, f1, f2, f3, f4⟩ := layout2 h
  rw [major18 f0, decodeMajor18, if_neg (field_not f4 0 8 rfl), if_neg (field_not f4 0 8 rfl), if_neg (field_not f4 0 8 rfl), if_neg (field_not f4 0 8 rfl), if_neg (field_not f4 0 8 rfl), if_neg (field_not f4 0 8 rfl), if_neg (field_not f4 0 8 rfl), if_neg (field_not f4 0 8 rfl), if_neg (field_not f4 0 8 rfl), if_neg (field_not f4 0 8 rfl), if_neg (field_not f4 0 8 rfl), if_pos (field_is f4 rfl), f1, f2, f3]

theorem RoundTrip.minSK (d a b : BitVec 6) : RoundTrip.Statement (.minSK d a b) := by
  intro _ w h
  obtain ⟨f0, f1, f2, f3, f4⟩ := layout2 h
  rw [major18 f0, decodeMajor18, if_neg (field_not f4 0 8 rfl), if_neg (field_not f4 0 8 rfl), if_neg (field_not f4 0 8 rfl), if_neg (field_not f4 0 8 rfl), if_neg (field_not f4 0 8 rfl), if_neg (field_not f4 0 8 rfl), if_neg (field_not f4 0 8 rfl), if_neg (field_not f4 0 8 rfl), if_neg (field_not f4 0 8 rfl), if_neg (field_not f4 0 8 rfl), if_neg (field_not f4 0 8 rfl), if_neg (field_not f4 0 8 rfl), if_pos (field_is f4 rfl), f1, f2, f3]

theorem RoundTrip.minUK (d a b : BitVec 6) : RoundTrip.Statement (.minUK d a b) := by
  intro _ w h
  obtain ⟨f0, f1, f2, f3, f4⟩ := layout2 h
  rw [major18 f0, decodeMajor18, if_neg (field_not f4 0 8 rfl), if_neg (field_not f4 0 8 rfl), if_neg (field_not f4 0 8 rfl), if_neg (field_not f4 0 8 rfl), if_neg (field_not f4 0 8 rfl), if_neg (field_not f4 0 8 rfl), if_neg (field_not f4 0 8 rfl), if_neg (field_not f4 0 8 rfl), if_neg (field_not f4 0 8 rfl), if_neg (field_not f4 0 8 rfl), if_neg (field_not f4 0 8 rfl), if_neg (field_not f4 0 8 rfl), if_neg (field_not f4 0 8 rfl), if_pos (field_is f4 rfl), f1, f2, f3]

theorem RoundTrip.maxSK (d a b : BitVec 6) : RoundTrip.Statement (.maxSK d a b) := by
  intro _ w h
  obtain ⟨f0, f1, f2, f3, f4⟩ := layout2 h
  rw [major18 f0, decodeMajor18, if_neg (field_not f4 0 8 rfl), if_neg (field_not f4 0 8 rfl), if_neg (field_not f4 0 8 rfl), if_neg (field_not f4 0 8 rfl), if_neg (field_not f4 0 8 rfl), if_neg (field_not f4 0 8 rfl), if_neg (field_not f4 0 8 rfl), if_neg (field_not f4 0 8 rfl), if_neg (field_not f4 0 8 rfl), if_neg (field_not f4 0 8 rfl), if_neg (field_not f4 0 8 rfl), if_neg (field_not f4 0 8 rfl), if_neg (field_not f4 0 8 rfl), if_neg (field_not f4 0 8 rfl), if_pos (field_is f4 rfl), f1, f2, f3]

theorem RoundTrip.maxUK (d a b : BitVec 6) : RoundTrip.Statement (.maxUK d a b) := by
  intro _ w h
  obtain ⟨f0, f1, f2, f3, f4⟩ := layout2 h
  rw [major18 f0, decodeMajor18, if_neg (field_not f4 0 8 rfl), if_neg (field_not f4 0 8 rfl), if_neg (field_not f4 0 8 rfl), if_neg (field_not f4 0 8 rfl), if_neg (field_not f4 0 8 rfl), if_neg (field_not f4 0 8 rfl), if_neg (field_not f4 0 8 rfl), if_neg (field_not f4 0 8 rfl), if_neg (field_not f4 0 8 rfl), if_neg (field_not f4 0 8 rfl), if_neg (field_not f4 0 8 rfl), if_neg (field_not f4 0 8 rfl), if_neg (field_not f4 0 8 rfl), if_neg (field_not f4 0 8 rfl), if_neg (field_not f4 0 8 rfl), if_pos (field_is f4 rfl), f1, f2, f3]

theorem RoundTrip.absK (d a : BitVec 6) : RoundTrip.Statement (.absK d a) := by
  intro _ w h
  obtain ⟨f0, f1, f2, f3⟩ := layout3 h
  rw [major18 f0, decodeMajor18, if_pos (field_is f3 rfl), f1, f2]

theorem RoundTrip.negK (d a : BitVec 6) : RoundTrip.Statement (.negK d a) := by
  intro _ w h
  obtain ⟨f0, f1, f2, f3⟩ := layout3 h
  rw [major18 f0, decodeMajor18, if_neg (field_not f3 0 14 rfl), if_pos (field_is f3 rfl), f1, f2]

theorem RoundTrip.popcK (d a : BitVec 6) : RoundTrip.Statement (.popcK d a) := by
  intro _ w h
  obtain ⟨f0, f1, f2, f3⟩ := layout3 h
  rw [major18 f0, decodeMajor18, if_neg (field_not f3 0 14 rfl), if_neg (field_not f3 0 14 rfl), if_pos (field_is f3 rfl), f1, f2]

theorem RoundTrip.clzK (d a : BitVec 6) : RoundTrip.Statement (.clzK d a) := by
  intro _ w h
  obtain ⟨f0, f1, f2, f3⟩ := layout3 h
  rw [major18 f0, decodeMajor18, if_neg (field_not f3 0 14 rfl), if_neg (field_not f3 0 14 rfl), if_neg (field_not f3 0 14 rfl), if_pos (field_is f3 rfl), f1, f2]

theorem RoundTrip.ctzK (d a : BitVec 6) : RoundTrip.Statement (.ctzK d a) := by
  intro _ w h
  obtain ⟨f0, f1, f2, f3⟩ := layout3 h
  rw [major18 f0, decodeMajor18, if_neg (field_not f3 0 14 rfl), if_neg (field_not f3 0 14 rfl), if_neg (field_not f3 0 14 rfl), if_neg (field_not f3 0 14 rfl), if_pos (field_is f3 rfl), f1, f2]

theorem RoundTrip.brevK (d a : BitVec 6) : RoundTrip.Statement (.brevK d a) := by
  intro _ w h
  obtain ⟨f0, f1, f2, f3⟩ := layout3 h
  rw [major18 f0, decodeMajor18, if_neg (field_not f3 0 14 rfl), if_neg (field_not f3 0 14 rfl), if_neg (field_not f3 0 14 rfl), if_neg (field_not f3 0 14 rfl), if_neg (field_not f3 0 14 rfl), if_pos (field_is f3 rfl), f1, f2]

theorem RoundTrip.movK (d a : BitVec 6) : RoundTrip.Statement (.movK d a) := by
  intro _ w h
  obtain ⟨f0, f1, f2, f3⟩ := layout3 h
  rw [major18 f0, decodeMajor18, if_neg (field_not f3 0 14 rfl), if_neg (field_not f3 0 14 rfl), if_neg (field_not f3 0 14 rfl), if_neg (field_not f3 0 14 rfl), if_neg (field_not f3 0 14 rfl), if_neg (field_not f3 0 14 rfl), if_pos (field_is f3 rfl), f1, f2]

theorem RoundTrip.and (d a b : BitVec 6) (g : BitVec 3) : RoundTrip.Statement (.and d a b g) := by
  intro _ w h
  obtain ⟨f0, f1, f2, f3, f4, f5⟩ := layout0 h
  rw [major02 f0, decodeMajor02, if_neg (field_not f4 3 5 rfl), if_pos (field_is f4 rfl), f1, f2, f3, f5]

theorem RoundTrip.andn (d a b : BitVec 6) (g : BitVec 3) : RoundTrip.Statement (.andn d a b g) := by
  intro _ w h
  obtain ⟨f0, f1, f2, f3, f4, f5⟩ := layout0 h
  rw [major02 f0, decodeMajor02, if_neg (field_not f4 3 5 rfl), if_neg (field_not f4 3 5 rfl), if_pos (field_is f4 rfl), f1, f2, f3, f5]

theorem RoundTrip.or (d a b : BitVec 6) (g : BitVec 3) : RoundTrip.Statement (.or d a b g) := by
  intro _ w h
  obtain ⟨f0, f1, f2, f3, f4, f5⟩ := layout0 h
  rw [major02 f0, decodeMajor02, if_neg (field_not f4 3 5 rfl), if_neg (field_not f4 3 5 rfl), if_neg (field_not f4 3 5 rfl), if_pos (field_is f4 rfl), f1, f2, f3, f5]

theorem RoundTrip.xor (d a b : BitVec 6) (g : BitVec 3) : RoundTrip.Statement (.xor d a b g) := by
  intro _ w h
  obtain ⟨f0, f1, f2, f3, f4, f5⟩ := layout0 h
  rw [major02 f0, decodeMajor02, if_neg (field_not f4 3 5 rfl), if_neg (field_not f4 3 5 rfl), if_neg (field_not f4 3 5 rfl), if_neg (field_not f4 3 5 rfl), if_pos (field_is f4 rfl), f1, f2, f3, f5]

theorem RoundTrip.not (d a : BitVec 6) (g : BitVec 3) : RoundTrip.Statement (.not d a g) := by
  intro _ w h
  obtain ⟨f0, f1, f2, f3, f4⟩ := layout1 h
  rw [major02 f0, decodeMajor02, if_pos (field_is f3 rfl), f1, f2, f4]

theorem RoundTrip.shl (d a b : BitVec 6) (g : BitVec 3) : RoundTrip.Statement (.shl d a b g) := by
  intro _ w h
  obtain ⟨f0, f1, f2, f3, f4, f5⟩ := layout0 h
  rw [major02 f0, decodeMajor02, if_neg (field_not f4 3 5 rfl), if_neg (field_not f4 3 5 rfl), if_neg (field_not f4 3 5 rfl), if_neg (field_not f4 3 5 rfl), if_neg (field_not f4 3 5 rfl), if_pos (field_is f4 rfl), f1, f2, f3, f5]

theorem RoundTrip.shr (d a b : BitVec 6) (g : BitVec 3) : RoundTrip.Statement (.shr d a b g) := by
  intro _ w h
  obtain ⟨f0, f1, f2, f3, f4, f5⟩ := layout0 h
  rw [major02 f0, decodeMajor02, if_neg (field_not f4 3 5 rfl), if_neg (field_not f4 3 5 rfl), if_neg (field_not f4 3 5 rfl), if_neg (field_not f4 3 5 rfl), if_neg (field_not f4 3 5 rfl), if_neg (field_not f4 3 5 rfl), if_pos (field_is f4 rfl), f1, f2, f3, f5]

theorem RoundTrip.sra (d a b : BitVec 6) (g : BitVec 3) : RoundTrip.Statement (.sra d a b g) := by
  intro _ w h
  obtain ⟨f0, f1, f2, f3, f4, f5⟩ := layout0 h
  rw [major02 f0, decodeMajor02, if_neg (field_not f4 3 5 rfl), if_neg (field_not f4 3 5 rfl), if_neg (field_not f4 3 5 rfl), if_neg (field_not f4 3 5 rfl), if_neg (field_not f4 3 5 rfl), if_neg (field_not f4 3 5 rfl), if_neg (field_not f4 3 5 rfl), if_pos (field_is f4 rfl), f1, f2, f3, f5]

theorem RoundTrip.rot (d a b : BitVec 6) (g : BitVec 3) : RoundTrip.Statement (.rot d a b g) := by
  intro _ w h
  obtain ⟨f0, f1, f2, f3, f4, f5⟩ := layout0 h
  rw [major02 f0, decodeMajor02, if_neg (field_not f4 3 5 rfl), if_neg (field_not f4 3 5 rfl), if_neg (field_not f4 3 5 rfl), if_neg (field_not f4 3 5 rfl), if_neg (field_not f4 3 5 rfl), if_neg (field_not f4 3 5 rfl), if_neg (field_not f4 3 5 rfl), if_neg (field_not f4 3 5 rfl), if_pos (field_is f4 rfl), f1, f2, f3, f5]

theorem RoundTrip.bfxU (d a b : BitVec 6) (g : BitVec 3) : RoundTrip.Statement (.bfxU d a b g) := by
  intro _ w h
  obtain ⟨f0, f1, f2, f3, f4, f5⟩ := layout0 h
  rw [major02 f0, decodeMajor02, if_neg (field_not f4 3 5 rfl), if_neg (field_not f4 3 5 rfl), if_neg (field_not f4 3 5 rfl), if_neg (field_not f4 3 5 rfl), if_neg (field_not f4 3 5 rfl), if_neg (field_not f4 3 5 rfl), if_neg (field_not f4 3 5 rfl), if_neg (field_not f4 3 5 rfl), if_neg (field_not f4 3 5 rfl), if_pos (field_is f4 rfl), f1, f2, f3, f5]

theorem RoundTrip.bfxS (d a b : BitVec 6) (g : BitVec 3) : RoundTrip.Statement (.bfxS d a b g) := by
  intro _ w h
  obtain ⟨f0, f1, f2, f3, f4, f5⟩ := layout0 h
  rw [major02 f0, decodeMajor02, if_neg (field_not f4 3 5 rfl), if_neg (field_not f4 3 5 rfl), if_neg (field_not f4 3 5 rfl), if_neg (field_not f4 3 5 rfl), if_neg (field_not f4 3 5 rfl), if_neg (field_not f4 3 5 rfl), if_neg (field_not f4 3 5 rfl), if_neg (field_not f4 3 5 rfl), if_neg (field_not f4 3 5 rfl), if_neg (field_not f4 3 5 rfl), if_pos (field_is f4 rfl), f1, f2, f3, f5]

theorem RoundTrip.andK (d a b : BitVec 6) : RoundTrip.Statement (.andK d a b) := by
  intro _ w h
  obtain ⟨f0, f1, f2, f3, f4⟩ := layout2 h
  rw [major19 f0, decodeMajor19, if_neg (field_not f4 0 8 rfl), if_pos (field_is f4 rfl), f1, f2, f3]

theorem RoundTrip.andnK (d a b : BitVec 6) : RoundTrip.Statement (.andnK d a b) := by
  intro _ w h
  obtain ⟨f0, f1, f2, f3, f4⟩ := layout2 h
  rw [major19 f0, decodeMajor19, if_neg (field_not f4 0 8 rfl), if_neg (field_not f4 0 8 rfl), if_pos (field_is f4 rfl), f1, f2, f3]

theorem RoundTrip.orK (d a b : BitVec 6) : RoundTrip.Statement (.orK d a b) := by
  intro _ w h
  obtain ⟨f0, f1, f2, f3, f4⟩ := layout2 h
  rw [major19 f0, decodeMajor19, if_neg (field_not f4 0 8 rfl), if_neg (field_not f4 0 8 rfl), if_neg (field_not f4 0 8 rfl), if_pos (field_is f4 rfl), f1, f2, f3]

theorem RoundTrip.xorK (d a b : BitVec 6) : RoundTrip.Statement (.xorK d a b) := by
  intro _ w h
  obtain ⟨f0, f1, f2, f3, f4⟩ := layout2 h
  rw [major19 f0, decodeMajor19, if_neg (field_not f4 0 8 rfl), if_neg (field_not f4 0 8 rfl), if_neg (field_not f4 0 8 rfl), if_neg (field_not f4 0 8 rfl), if_pos (field_is f4 rfl), f1, f2, f3]

theorem RoundTrip.notK (d a : BitVec 6) : RoundTrip.Statement (.notK d a) := by
  intro _ w h
  obtain ⟨f0, f1, f2, f3⟩ := layout3 h
  rw [major19 f0, decodeMajor19, if_pos (field_is f3 rfl), f1, f2]

theorem RoundTrip.shlK (d a b : BitVec 6) : RoundTrip.Statement (.shlK d a b) := by
  intro _ w h
  obtain ⟨f0, f1, f2, f3, f4⟩ := layout2 h
  rw [major19 f0, decodeMajor19, if_neg (field_not f4 0 8 rfl), if_neg (field_not f4 0 8 rfl), if_neg (field_not f4 0 8 rfl), if_neg (field_not f4 0 8 rfl), if_neg (field_not f4 0 8 rfl), if_pos (field_is f4 rfl), f1, f2, f3]

theorem RoundTrip.shrK (d a b : BitVec 6) : RoundTrip.Statement (.shrK d a b) := by
  intro _ w h
  obtain ⟨f0, f1, f2, f3, f4⟩ := layout2 h
  rw [major19 f0, decodeMajor19, if_neg (field_not f4 0 8 rfl), if_neg (field_not f4 0 8 rfl), if_neg (field_not f4 0 8 rfl), if_neg (field_not f4 0 8 rfl), if_neg (field_not f4 0 8 rfl), if_neg (field_not f4 0 8 rfl), if_pos (field_is f4 rfl), f1, f2, f3]

theorem RoundTrip.sraK (d a b : BitVec 6) : RoundTrip.Statement (.sraK d a b) := by
  intro _ w h
  obtain ⟨f0, f1, f2, f3, f4⟩ := layout2 h
  rw [major19 f0, decodeMajor19, if_neg (field_not f4 0 8 rfl), if_neg (field_not f4 0 8 rfl), if_neg (field_not f4 0 8 rfl), if_neg (field_not f4 0 8 rfl), if_neg (field_not f4 0 8 rfl), if_neg (field_not f4 0 8 rfl), if_neg (field_not f4 0 8 rfl), if_pos (field_is f4 rfl), f1, f2, f3]

theorem RoundTrip.rotK (d a b : BitVec 6) : RoundTrip.Statement (.rotK d a b) := by
  intro _ w h
  obtain ⟨f0, f1, f2, f3, f4⟩ := layout2 h
  rw [major19 f0, decodeMajor19, if_neg (field_not f4 0 8 rfl), if_neg (field_not f4 0 8 rfl), if_neg (field_not f4 0 8 rfl), if_neg (field_not f4 0 8 rfl), if_neg (field_not f4 0 8 rfl), if_neg (field_not f4 0 8 rfl), if_neg (field_not f4 0 8 rfl), if_neg (field_not f4 0 8 rfl), if_pos (field_is f4 rfl), f1, f2, f3]

theorem RoundTrip.bfxUK (d a b : BitVec 6) : RoundTrip.Statement (.bfxUK d a b) := by
  intro _ w h
  obtain ⟨f0, f1, f2, f3, f4⟩ := layout2 h
  rw [major19 f0, decodeMajor19, if_neg (field_not f4 0 8 rfl), if_neg (field_not f4 0 8 rfl), if_neg (field_not f4 0 8 rfl), if_neg (field_not f4 0 8 rfl), if_neg (field_not f4 0 8 rfl), if_neg (field_not f4 0 8 rfl), if_neg (field_not f4 0 8 rfl), if_neg (field_not f4 0 8 rfl), if_neg (field_not f4 0 8 rfl), if_pos (field_is f4 rfl), f1, f2, f3]

theorem RoundTrip.bfxSK (d a b : BitVec 6) : RoundTrip.Statement (.bfxSK d a b) := by
  intro _ w h
  obtain ⟨f0, f1, f2, f3, f4⟩ := layout2 h
  rw [major19 f0, decodeMajor19, if_neg (field_not f4 0 8 rfl), if_neg (field_not f4 0 8 rfl), if_neg (field_not f4 0 8 rfl), if_neg (field_not f4 0 8 rfl), if_neg (field_not f4 0 8 rfl), if_neg (field_not f4 0 8 rfl), if_neg (field_not f4 0 8 rfl), if_neg (field_not f4 0 8 rfl), if_neg (field_not f4 0 8 rfl), if_neg (field_not f4 0 8 rfl), if_pos (field_is f4 rfl), f1, f2, f3]

theorem RoundTrip.mad (d a b : BitVec 6) (g : BitVec 3) : RoundTrip.Statement (.mad d a b g) := by
  intro _ w h
  obtain ⟨f0, f1, f2, f3, f4, f5⟩ := layout0 h
  rw [major03 f0, decodeMajor03, if_pos (field_is f4 rfl), f1, f2, f3, f5]

theorem RoundTrip.bfi (d a b : BitVec 6) (g : BitVec 3) : RoundTrip.Statement (.bfi d a b g) := by
  intro _ w h
  obtain ⟨f0, f1, f2, f3, f4, f5⟩ := layout0 h
  rw [major03 f0, decodeMajor03, if_neg (field_not f4 3 5 rfl), if_pos (field_is f4 rfl), f1, f2, f3, f5]

theorem RoundTrip.lea0 (d a b : BitVec 6) (g : BitVec 3) : RoundTrip.Statement (.lea0 d a b g) := by
  intro _ w h
  obtain ⟨f0, f1, f2, f3, f4, f5⟩ := layout0 h
  rw [major03 f0, decodeMajor03, if_neg (field_not f4 3 5 rfl), if_neg (field_not f4 3 5 rfl), if_pos (field_is f4 rfl), f1, f2, f3, f5]

theorem RoundTrip.lea1 (d a b : BitVec 6) (g : BitVec 3) : RoundTrip.Statement (.lea1 d a b g) := by
  intro _ w h
  obtain ⟨f0, f1, f2, f3, f4, f5⟩ := layout0 h
  rw [major03 f0, decodeMajor03, if_neg (field_not f4 3 5 rfl), if_neg (field_not f4 3 5 rfl), if_neg (field_not f4 3 5 rfl), if_pos (field_is f4 rfl), f1, f2, f3, f5]

theorem RoundTrip.lea2 (d a b : BitVec 6) (g : BitVec 3) : RoundTrip.Statement (.lea2 d a b g) := by
  intro _ w h
  obtain ⟨f0, f1, f2, f3, f4, f5⟩ := layout0 h
  rw [major03 f0, decodeMajor03, if_neg (field_not f4 3 5 rfl), if_neg (field_not f4 3 5 rfl), if_neg (field_not f4 3 5 rfl), if_neg (field_not f4 3 5 rfl), if_pos (field_is f4 rfl), f1, f2, f3, f5]

theorem RoundTrip.lea3 (d a b : BitVec 6) (g : BitVec 3) : RoundTrip.Statement (.lea3 d a b g) := by
  intro _ w h
  obtain ⟨f0, f1, f2, f3, f4, f5⟩ := layout0 h
  rw [major03 f0, decodeMajor03, if_neg (field_not f4 3 5 rfl), if_neg (field_not f4 3 5 rfl), if_neg (field_not f4 3 5 rfl), if_neg (field_not f4 3 5 rfl), if_neg (field_not f4 3 5 rfl), if_pos (field_is f4 rfl), f1, f2, f3, f5]

theorem RoundTrip.cmp (p m : BitVec 3) (a b : BitVec 6) (u : BitVec 1) (k g : BitVec 3) : RoundTrip.Statement (.cmp p m a b u k g) := by
  intro _ w h
  obtain ⟨f0, f1, f2, f3, f4, f5, f6, f7, f8⟩ := layout4 h
  rw [major04 f0, decodeMajor04, if_pos (field_is f5 rfl), f1, f2, f3, f4, f6, f7, f8]

theorem RoundTrip.sel (d a b : BitVec 6) (p g : BitVec 3) : RoundTrip.Statement (.sel d a b p g) := by
  intro _ w h
  obtain ⟨f0, f1, f2, f3, f4, f5, f6⟩ := layout5 h
  rw [major05 f0, decodeMajor05, if_pos (field_is f5 rfl), f1, f2, f3, f4, f6]

theorem RoundTrip.divU (d a b : BitVec 6) (l : BitVec 4) (g : BitVec 3) : RoundTrip.Statement (.divU d a b l g) := by
  intro _ w h
  obtain ⟨f0, f1, f2, f3, f4, f5, f6⟩ := layout6 h
  rw [major06 f0, decodeMajor06, if_pos (field_is f5 rfl), f1, f2, f3, f4, f6]

theorem RoundTrip.remU (d a b : BitVec 6) (l : BitVec 4) (g : BitVec 3) : RoundTrip.Statement (.remU d a b l g) := by
  intro _ w h
  obtain ⟨f0, f1, f2, f3, f4, f5, f6⟩ := layout6 h
  rw [major06 f0, decodeMajor06, if_neg (field_not f5 3 1 rfl), if_pos (field_is f5 rfl), f1, f2, f3, f4, f6]

theorem RoundTrip.divS (d a b : BitVec 6) (l : BitVec 4) (g : BitVec 3) : RoundTrip.Statement (.divS d a b l g) := by
  intro _ w h
  obtain ⟨f0, f1, f2, f3, f4, f5, f6⟩ := layout6 h
  rw [major07 f0, decodeMajor07, if_pos (field_is f5 rfl), f1, f2, f3, f4, f6]

theorem RoundTrip.remS (d a b : BitVec 6) (l : BitVec 4) (g : BitVec 3) : RoundTrip.Statement (.remS d a b l g) := by
  intro _ w h
  obtain ⟨f0, f1, f2, f3, f4, f5, f6⟩ := layout6 h
  rw [major07 f0, decodeMajor07, if_neg (field_not f5 3 1 rfl), if_pos (field_is f5 rfl), f1, f2, f3, f4, f6]

theorem RoundTrip.fadd (d a b : BitVec 6) (t : BitVec 2) (g : BitVec 3) : RoundTrip.Statement (.fadd d a b t g) := by
  intro _ w h
  obtain ⟨f0, f1, f2, f3, f4, f5, f6⟩ := layout5 h
  rw [major08 f0, decodeMajor08, if_neg (field_not f4 5 3 rfl), if_pos (field_is f4 rfl), f1, f2, f3, f5, f6]

theorem RoundTrip.fsub (d a b : BitVec 6) (t : BitVec 2) (g : BitVec 3) : RoundTrip.Statement (.fsub d a b t g) := by
  intro _ w h
  obtain ⟨f0, f1, f2, f3, f4, f5, f6⟩ := layout5 h
  rw [major08 f0, decodeMajor08, if_neg (field_not f4 5 3 rfl), if_neg (field_not f4 5 3 rfl), if_pos (field_is f4 rfl), f1, f2, f3, f5, f6]

theorem RoundTrip.fmul (d a b : BitVec 6) (t : BitVec 2) (g : BitVec 3) : RoundTrip.Statement (.fmul d a b t g) := by
  intro _ w h
  obtain ⟨f0, f1, f2, f3, f4, f5, f6⟩ := layout5 h
  rw [major08 f0, decodeMajor08, if_neg (field_not f4 5 3 rfl), if_neg (field_not f4 5 3 rfl), if_neg (field_not f4 5 3 rfl), if_pos (field_is f4 rfl), f1, f2, f3, f5, f6]

theorem RoundTrip.fmin (d a b : BitVec 6) (t : BitVec 2) (g : BitVec 3) : RoundTrip.Statement (.fmin d a b t g) := by
  intro _ w h
  obtain ⟨f0, f1, f2, f3, f4, f5, f6⟩ := layout5 h
  rw [major08 f0, decodeMajor08, if_neg (field_not f4 5 3 rfl), if_neg (field_not f4 5 3 rfl), if_neg (field_not f4 5 3 rfl), if_neg (field_not f4 5 3 rfl), if_pos (field_is f4 rfl), f1, f2, f3, f5, f6]

theorem RoundTrip.fmax (d a b : BitVec 6) (t : BitVec 2) (g : BitVec 3) : RoundTrip.Statement (.fmax d a b t g) := by
  intro _ w h
  obtain ⟨f0, f1, f2, f3, f4, f5, f6⟩ := layout5 h
  rw [major08 f0, decodeMajor08, if_neg (field_not f4 5 3 rfl), if_neg (field_not f4 5 3 rfl), if_neg (field_not f4 5 3 rfl), if_neg (field_not f4 5 3 rfl), if_neg (field_not f4 5 3 rfl), if_pos (field_is f4 rfl), f1, f2, f3, f5, f6]

theorem RoundTrip.frnd (d a : BitVec 6) (t : BitVec 2) (g : BitVec 3) : RoundTrip.Statement (.frnd d a t g) := by
  intro _ w h
  obtain ⟨f0, f1, f2, f3, f4, f5⟩ := layout7 h
  rw [major08 f0, decodeMajor08, if_pos (field_is f3 rfl), f1, f2, f4, f5]

theorem RoundTrip.ffma (d a b : BitVec 6) (t : BitVec 2) (g : BitVec 3) : RoundTrip.Statement (.ffma d a b t g) := by
  intro _ w h
  obtain ⟨f0, f1, f2, f3, f4, f5, f6⟩ := layout5 h
  rw [major09 f0, decodeMajor09, if_pos (field_is f4 rfl), f1, f2, f3, f5, f6]

theorem RoundTrip.ffmaSub (d a b : BitVec 6) (t : BitVec 2) (g : BitVec 3) : RoundTrip.Statement (.ffmaSub d a b t g) := by
  intro _ w h
  obtain ⟨f0, f1, f2, f3, f4, f5, f6⟩ := layout5 h
  rw [major09 f0, decodeMajor09, if_neg (field_not f4 5 3 rfl), if_pos (field_is f4 rfl), f1, f2, f3, f5, f6]

theorem RoundTrip.ffmaNeg (d a b : BitVec 6) (t : BitVec 2) (g : BitVec 3) : RoundTrip.Statement (.ffmaNeg d a b t g) := by
  intro _ w h
  obtain ⟨f0, f1, f2, f3, f4, f5, f6⟩ := layout5 h
  rw [major09 f0, decodeMajor09, if_neg (field_not f4 5 3 rfl), if_neg (field_not f4 5 3 rfl), if_pos (field_is f4 rfl), f1, f2, f3, f5, f6]

theorem RoundTrip.fcmp (p m : BitVec 3) (a b : BitVec 6) (t : BitVec 2) (k g : BitVec 3) : RoundTrip.Statement (.fcmp p m a b t k g) := by
  intro _ w h
  obtain ⟨f0, f1, f2, f3, f4, f5, f6, f7⟩ := layout8 h
  rw [major0A f0, decodeMajor0A, f1, f2, f3, f4, f5, f6, f7]

theorem RoundTrip.fdiv (d a b : BitVec 6) (l : BitVec 4) (g : BitVec 3) : RoundTrip.Statement (.fdiv d a b l g) := by
  intro _ w h
  obtain ⟨f0, f1, f2, f3, f4, f5, f6⟩ := layout6 h
  rw [major0B f0, decodeMajor0B, if_pos (field_is f5 rfl), f1, f2, f3, f4, f6]

theorem RoundTrip.fsqrt (d s : BitVec 6) (l : BitVec 4) (g : BitVec 3) : RoundTrip.Statement (.fsqrt d s l g) := by
  intro _ w h
  obtain ⟨f0, f1, f2, f3, f4, f5, f6⟩ := layout6 h
  rw [major0C f0, decodeMajor0C, if_pos ⟨field_is f5 rfl, field_is f3 rfl⟩, f1, f2, f4, f6]

theorem RoundTrip.frcp (d s : BitVec 6) (l : BitVec 4) (g : BitVec 3) : RoundTrip.Statement (.frcp d s l g) := by
  intro _ w h
  obtain ⟨f0, f1, f2, f3, f4, f5, f6⟩ := layout6 h
  rw [major0C f0, decodeMajor0C, if_neg (fun h => field_not f3 8 6 rfl h.2), if_pos ⟨field_is f5 rfl, field_is f3 rfl⟩, f1, f2, f4, f6]

theorem RoundTrip.frsq (d s : BitVec 6) (l : BitVec 4) (g : BitVec 3) : RoundTrip.Statement (.frsq d s l g) := by
  intro _ w h
  obtain ⟨f0, f1, f2, f3, f4, f5, f6⟩ := layout6 h
  rw [major0C f0, decodeMajor0C, if_neg (fun h => field_not f3 8 6 rfl h.2), if_neg (fun h => field_not f3 8 6 rfl h.2), if_pos ⟨field_is f5 rfl, field_is f3 rfl⟩, f1, f2, f4, f6]

theorem RoundTrip.fsinp (d s : BitVec 6) (l : BitVec 4) (g : BitVec 3) : RoundTrip.Statement (.fsinp d s l g) := by
  intro _ w h
  obtain ⟨f0, f1, f2, f3, f4, f5, f6⟩ := layout6 h
  rw [major0C f0, decodeMajor0C, if_neg (fun h => field_not f3 8 6 rfl h.2), if_neg (fun h => field_not f3 8 6 rfl h.2), if_neg (fun h => field_not f3 8 6 rfl h.2), if_pos ⟨field_is f5 rfl, field_is f3 rfl⟩, f1, f2, f4, f6]

theorem RoundTrip.fcosp (d s : BitVec 6) (l : BitVec 4) (g : BitVec 3) : RoundTrip.Statement (.fcosp d s l g) := by
  intro _ w h
  obtain ⟨f0, f1, f2, f3, f4, f5, f6⟩ := layout6 h
  rw [major0C f0, decodeMajor0C, if_neg (fun h => field_not f3 8 6 rfl h.2), if_neg (fun h => field_not f3 8 6 rfl h.2), if_neg (fun h => field_not f3 8 6 rfl h.2), if_neg (fun h => field_not f3 8 6 rfl h.2), if_pos ⟨field_is f5 rfl, field_is f3 rfl⟩, f1, f2, f4, f6]

theorem RoundTrip.fex2 (d s : BitVec 6) (l : BitVec 4) (g : BitVec 3) : RoundTrip.Statement (.fex2 d s l g) := by
  intro _ w h
  obtain ⟨f0, f1, f2, f3, f4, f5, f6⟩ := layout6 h
  rw [major0C f0, decodeMajor0C, if_neg (fun h => field_not f3 8 6 rfl h.2), if_neg (fun h => field_not f3 8 6 rfl h.2), if_neg (fun h => field_not f3 8 6 rfl h.2), if_neg (fun h => field_not f3 8 6 rfl h.2), if_neg (fun h => field_not f3 8 6 rfl h.2), if_pos ⟨field_is f5 rfl, field_is f3 rfl⟩, f1, f2, f4, f6]

theorem RoundTrip.flg2 (d s : BitVec 6) (l : BitVec 4) (g : BitVec 3) : RoundTrip.Statement (.flg2 d s l g) := by
  intro _ w h
  obtain ⟨f0, f1, f2, f3, f4, f5, f6⟩ := layout6 h
  rw [major0C f0, decodeMajor0C, if_neg (fun h => field_not f3 8 6 rfl h.2), if_neg (fun h => field_not f3 8 6 rfl h.2), if_neg (fun h => field_not f3 8 6 rfl h.2), if_neg (fun h => field_not f3 8 6 rfl h.2), if_neg (fun h => field_not f3 8 6 rfl h.2), if_neg (fun h => field_not f3 8 6 rfl h.2), if_pos ⟨field_is f5 rfl, field_is f3 rfl⟩, f1, f2, f4, f6]

theorem RoundTrip.packBf16 (d a b : BitVec 6) (g : BitVec 3) : RoundTrip.Statement (.packBf16 d a b g) := by
  intro _ w h
  obtain ⟨f0, f1, f2, f3, f4, f5⟩ := layout0 h
  rw [major0D f0, decodeMajor0D, if_neg (field_not f4 3 5 rfl), if_neg (field_not f4 3 5 rfl), if_neg (field_not f4 3 5 rfl), if_neg (field_not f4 3 5 rfl), if_pos (field_is f4 rfl), f1, f2, f3, f5]

theorem RoundTrip.packF16 (d a b : BitVec 6) (g : BitVec 3) : RoundTrip.Statement (.packF16 d a b g) := by
  intro _ w h
  obtain ⟨f0, f1, f2, f3, f4, f5⟩ := layout0 h
  rw [major0D f0, decodeMajor0D, if_neg (field_not f4 3 5 rfl), if_neg (field_not f4 3 5 rfl), if_neg (field_not f4 3 5 rfl), if_neg (field_not f4 3 5 rfl), if_neg (field_not f4 3 5 rfl), if_pos (field_is f4 rfl), f1, f2, f3, f5]

theorem RoundTrip.unpkBf16Lo (d s : BitVec 6) (g : BitVec 3) : RoundTrip.Statement (.unpkBf16Lo d s g) := by
  intro _ w h
  obtain ⟨f0, f1, f2, f3, f4⟩ := layout1 h
  rw [major0D f0, decodeMajor0D, if_pos (field_is f3 rfl), f1, f2, f4]

theorem RoundTrip.unpkBf16Hi (d s : BitVec 6) (g : BitVec 3) : RoundTrip.Statement (.unpkBf16Hi d s g) := by
  intro _ w h
  obtain ⟨f0, f1, f2, f3, f4⟩ := layout1 h
  rw [major0D f0, decodeMajor0D, if_neg (field_not f3 3 11 rfl), if_pos (field_is f3 rfl), f1, f2, f4]

theorem RoundTrip.unpkF16Lo (d s : BitVec 6) (g : BitVec 3) : RoundTrip.Statement (.unpkF16Lo d s g) := by
  intro _ w h
  obtain ⟨f0, f1, f2, f3, f4⟩ := layout1 h
  rw [major0D f0, decodeMajor0D, if_neg (field_not f3 3 11 rfl), if_neg (field_not f3 3 11 rfl), if_pos (field_is f3 rfl), f1, f2, f4]

theorem RoundTrip.unpkF16Hi (d s : BitVec 6) (g : BitVec 3) : RoundTrip.Statement (.unpkF16Hi d s g) := by
  intro _ w h
  obtain ⟨f0, f1, f2, f3, f4⟩ := layout1 h
  rw [major0D f0, decodeMajor0D, if_neg (field_not f3 3 11 rfl), if_neg (field_not f3 3 11 rfl), if_neg (field_not f3 3 11 rfl), if_pos (field_is f3 rfl), f1, f2, f4]

theorem RoundTrip.hcvt (t : BitVec 3) (s : BitVec 2) (x i : BitVec 5) (f : BitVec 3) (l : BitVec 4) (w : BitVec 1) (n : BitVec 3) : RoundTrip.Statement (.hcvt t s x i f l w n) := by
  intro _ w h
  obtain ⟨f0, f1, f2, f3, f4, f5, f6, f7, f8⟩ := layout9 h
  rw [major0E f0, decodeMajor0E, f1, f2, f3, f4, f5, f6, f7, f8]

theorem RoundTrip.cvt (d s : BitVec 6) (f t : BitVec 4) (r g : BitVec 3) : RoundTrip.Statement (.cvt d s f t r g) := by
  intro _ w h
  obtain ⟨f0, f1, f2, f3, f4, f5, f6⟩ := layout10 h
  rw [major0F f0, decodeMajor0F, f1, f2, f3, f4, f5, f6]

theorem RoundTrip.addImm (d a : BitVec 6) (i : BitVec 11) (g : BitVec 3) : RoundTrip.Statement (.addImm d a i g) := by
  intro _ w h
  obtain ⟨f0, f1, f2, f3, f4⟩ := layout1 h
  rw [major10 f0, decodeMajor10, f1, f2, f3, f4]

theorem RoundTrip.andImm (d a : BitVec 6) (i : BitVec 11) (g : BitVec 3) : RoundTrip.Statement (.andImm d a i g) := by
  intro _ w h
  obtain ⟨f0, f1, f2, f3, f4⟩ := layout1 h
  rw [major11 f0, decodeMajor11, f1, f2, f3, f4]

theorem RoundTrip.orImm (d a : BitVec 6) (i : BitVec 11) (g : BitVec 3) : RoundTrip.Statement (.orImm d a i g) := by
  intro _ w h
  obtain ⟨f0, f1, f2, f3, f4⟩ := layout1 h
  rw [major12 f0, decodeMajor12, f1, f2, f3, f4]

theorem RoundTrip.xorImm (d a : BitVec 6) (i : BitVec 11) (g : BitVec 3) : RoundTrip.Statement (.xorImm d a i g) := by
  intro _ w h
  obtain ⟨f0, f1, f2, f3, f4⟩ := layout1 h
  rw [major13 f0, decodeMajor13, f1, f2, f3, f4]

theorem RoundTrip.shlImm (d a : BitVec 6) (n : BitVec 5) (g : BitVec 3) : RoundTrip.Statement (.shlImm d a n g) := by
  intro _ w h
  obtain ⟨f0, f1, f2, f3, f4, f5⟩ := layout0 h
  rw [major14 f0, decodeMajor14, if_pos (field_is f3 rfl), f1, f2, f4, f5]

theorem RoundTrip.shrImm (d a : BitVec 6) (n : BitVec 5) (g : BitVec 3) : RoundTrip.Statement (.shrImm d a n g) := by
  intro _ w h
  obtain ⟨f0, f1, f2, f3, f4, f5⟩ := layout0 h
  rw [major14 f0, decodeMajor14, if_neg (field_not f3 8 6 rfl), if_pos (field_is f3 rfl), f1, f2, f4, f5]

theorem RoundTrip.sraImm (d a : BitVec 6) (n : BitVec 5) (g : BitVec 3) : RoundTrip.Statement (.sraImm d a n g) := by
  intro _ w h
  obtain ⟨f0, f1, f2, f3, f4, f5⟩ := layout0 h
  rw [major14 f0, decodeMajor14, if_neg (field_not f3 8 6 rfl), if_neg (field_not f3 8 6 rfl), if_pos (field_is f3 rfl), f1, f2, f4, f5]

theorem RoundTrip.rotImm (d a : BitVec 6) (n : BitVec 5) (g : BitVec 3) : RoundTrip.Statement (.rotImm d a n g) := by
  intro _ w h
  obtain ⟨f0, f1, f2, f3, f4, f5⟩ := layout0 h
  rw [major14 f0, decodeMajor14, if_neg (field_not f3 8 6 rfl), if_neg (field_not f3 8 6 rfl), if_neg (field_not f3 8 6 rfl), if_pos (field_is f3 rfl), f1, f2, f4, f5]

theorem RoundTrip.cmpImm (p m : BitVec 3) (a : BitVec 6) (k : BitVec 3) (u : BitVec 1) (i : BitVec 7) (g : BitVec 3) : RoundTrip.Statement (.cmpImm p m a k u i g) := by
  intro _ w h
  obtain ⟨f0, f1, f2, f3, f4, f5, f6, f7⟩ := layout11 h
  rw [major15 f0, decodeMajor15, f1, f2, f3, f4, f5, f6, f7]

theorem RoundTrip.movi (d : BitVec 6) (i : BitVec 16) (g : BitVec 3) : RoundTrip.Statement (.movi d i g) := by
  intro _ w h
  obtain ⟨f0, f1, f2, f3, f4⟩ := layout12 h
  rw [major16 f0, decodeMajor16, if_pos (field_is f3 rfl), f1, f2, f4]

theorem RoundTrip.moviHi (d : BitVec 6) (i : BitVec 16) (g : BitVec 3) : RoundTrip.Statement (.moviHi d i g) := by
  intro _ w h
  obtain ⟨f0, f1, f2, f3, f4⟩ := layout12 h
  rw [major16 f0, decodeMajor16, if_neg (field_not f3 3 1 rfl), if_pos (field_is f3 rfl), f1, f2, f4]

theorem RoundTrip.addKImm (d a : BitVec 6) (i : BitVec 11) : RoundTrip.Statement (.addKImm d a i) := by
  intro _ w h
  obtain ⟨f0, f1, f2, f3, f4⟩ := layout1 h
  rw [major1A f0, decodeMajor1A, if_pos (field_is f4 rfl), f1, f2, f3]

theorem RoundTrip.moviK (d : BitVec 6) (i : BitVec 16) (q : BitVec 2) : RoundTrip.Statement (.moviK d i q) := by
  intro _ w h
  obtain ⟨f0, f1, f2, f3, f4⟩ := layout13 h
  rw [major1B f0, decodeMajor1B, if_pos (field_is f4 rfl), f1, f2, f3]

theorem RoundTrip.cmpK (d a b : BitVec 6) (u : BitVec 1) (k : BitVec 3) : RoundTrip.Statement (.cmpK d a b u k) := by
  intro _ w h
  obtain ⟨f0, f1, f2, f3, f4, f5, f6, f7⟩ := layout14 h
  rw [major1C f0, decodeMajor1C, if_pos ⟨field_is f7 rfl, field_is f4 rfl⟩, f1, f2, f3, f5, f6]

theorem RoundTrip.ld (d : BitVec 6) (x k : BitVec 5) (w : BitVec 3) (l : BitVec 4) (g : BitVec 3) : RoundTrip.Statement (.ld d x k w l g) := by
  intro _ w h
  obtain ⟨f0, f1, f2, f3, f4, f5, f6⟩ := layout15 h
  rw [major20 f0, decodeMajor20, f1, f2, f3, f4, f5, f6]

theorem RoundTrip.ldS (d : BitVec 6) (x k : BitVec 5) (w : BitVec 1) (l : BitVec 4) (g : BitVec 3) : RoundTrip.Statement (.ldS d x k w l g) := by
  intro _ w h
  obtain ⟨f0, f1, f2, f3, f4, f5, f6, f7⟩ := layout16 h
  rw [major21 f0, decodeMajor21, if_pos (field_is f4 rfl), f1, f2, f3, f5, f6, f7]

theorem RoundTrip.st (d : BitVec 6) (x k : BitVec 5) (w : BitVec 3) (l : BitVec 4) (g : BitVec 3) : RoundTrip.Statement (.st d x k w l g) := by
  intro _ w h
  obtain ⟨f0, f1, f2, f3, f4, f5, f6⟩ := layout15 h
  rw [major22 f0, decodeMajor22, f1, f2, f3, f4, f5, f6]

theorem RoundTrip.ldk (d : BitVec 6) (x k : BitVec 5) (w : BitVec 3) (l : BitVec 4) : RoundTrip.Statement (.ldk d x k w l) := by
  intro _ w h
  obtain ⟨f0, f1, f2, f3, f4, f5, f6⟩ := layout15 h
  rw [major23 f0, decodeMajor23, if_pos (field_is f6 rfl), f1, f2, f3, f4, f5]

theorem RoundTrip.stk (d : BitVec 6) (x k : BitVec 5) (w : BitVec 3) (l : BitVec 4) : RoundTrip.Statement (.stk d x k w l) := by
  intro _ w h
  obtain ⟨f0, f1, f2, f3, f4, f5, f6⟩ := layout15 h
  rw [major24 f0, decodeMajor24, if_pos (field_is f6 rfl), f1, f2, f3, f4, f5]

theorem RoundTrip.atomAdd (d : BitVec 6) (x k : BitVec 5) (l : BitVec 4) (g : BitVec 3) : RoundTrip.Statement (.atomAdd d x k l g) := by
  intro _ w h
  obtain ⟨f0, f1, f2, f3, f4, f5, f6⟩ := layout15 h
  rw [major25 f0, decodeMajor25, if_pos (field_is f4 rfl), f1, f2, f3, f5, f6]

theorem RoundTrip.atomAnd (d : BitVec 6) (x k : BitVec 5) (l : BitVec 4) (g : BitVec 3) : RoundTrip.Statement (.atomAnd d x k l g) := by
  intro _ w h
  obtain ⟨f0, f1, f2, f3, f4, f5, f6⟩ := layout15 h
  rw [major25 f0, decodeMajor25, if_neg (field_not f4 7 3 rfl), if_pos (field_is f4 rfl), f1, f2, f3, f5, f6]

theorem RoundTrip.atomOr (d : BitVec 6) (x k : BitVec 5) (l : BitVec 4) (g : BitVec 3) : RoundTrip.Statement (.atomOr d x k l g) := by
  intro _ w h
  obtain ⟨f0, f1, f2, f3, f4, f5, f6⟩ := layout15 h
  rw [major25 f0, decodeMajor25, if_neg (field_not f4 7 3 rfl), if_neg (field_not f4 7 3 rfl), if_pos (field_is f4 rfl), f1, f2, f3, f5, f6]

theorem RoundTrip.atomXor (d : BitVec 6) (x k : BitVec 5) (l : BitVec 4) (g : BitVec 3) : RoundTrip.Statement (.atomXor d x k l g) := by
  intro _ w h
  obtain ⟨f0, f1, f2, f3, f4, f5, f6⟩ := layout15 h
  rw [major25 f0, decodeMajor25, if_neg (field_not f4 7 3 rfl), if_neg (field_not f4 7 3 rfl), if_neg (field_not f4 7 3 rfl), if_pos (field_is f4 rfl), f1, f2, f3, f5, f6]

theorem RoundTrip.atomMinS (d : BitVec 6) (x k : BitVec 5) (l : BitVec 4) (g : BitVec 3) : RoundTrip.Statement (.atomMinS d x k l g) := by
  intro _ w h
  obtain ⟨f0, f1, f2, f3, f4, f5, f6⟩ := layout15 h
  rw [major25 f0, decodeMajor25, if_neg (field_not f4 7 3 rfl), if_neg (field_not f4 7 3 rfl), if_neg (field_not f4 7 3 rfl), if_neg (field_not f4 7 3 rfl), if_pos (field_is f4 rfl), f1, f2, f3, f5, f6]

theorem RoundTrip.atomMaxS (d : BitVec 6) (x k : BitVec 5) (l : BitVec 4) (g : BitVec 3) : RoundTrip.Statement (.atomMaxS d x k l g) := by
  intro _ w h
  obtain ⟨f0, f1, f2, f3, f4, f5, f6⟩ := layout15 h
  rw [major25 f0, decodeMajor25, if_neg (field_not f4 7 3 rfl), if_neg (field_not f4 7 3 rfl), if_neg (field_not f4 7 3 rfl), if_neg (field_not f4 7 3 rfl), if_neg (field_not f4 7 3 rfl), if_pos (field_is f4 rfl), f1, f2, f3, f5, f6]

theorem RoundTrip.atomMinU (d : BitVec 6) (x k : BitVec 5) (l : BitVec 4) (g : BitVec 3) : RoundTrip.Statement (.atomMinU d x k l g) := by
  intro _ w h
  obtain ⟨f0, f1, f2, f3, f4, f5, f6⟩ := layout15 h
  rw [major25 f0, decodeMajor25, if_neg (field_not f4 7 3 rfl), if_neg (field_not f4 7 3 rfl), if_neg (field_not f4 7 3 rfl), if_neg (field_not f4 7 3 rfl), if_neg (field_not f4 7 3 rfl), if_neg (field_not f4 7 3 rfl), if_pos (field_is f4 rfl), f1, f2, f3, f5, f6]

theorem RoundTrip.atomMaxU (d : BitVec 6) (x k : BitVec 5) (l : BitVec 4) (g : BitVec 3) : RoundTrip.Statement (.atomMaxU d x k l g) := by
  intro _ w h
  obtain ⟨f0, f1, f2, f3, f4, f5, f6⟩ := layout15 h
  rw [major25 f0, decodeMajor25, if_neg (field_not f4 7 3 rfl), if_neg (field_not f4 7 3 rfl), if_neg (field_not f4 7 3 rfl), if_neg (field_not f4 7 3 rfl), if_neg (field_not f4 7 3 rfl), if_neg (field_not f4 7 3 rfl), if_neg (field_not f4 7 3 rfl), if_pos (field_is f4 rfl), f1, f2, f3, f5, f6]

theorem RoundTrip.atomExch32 (d : BitVec 6) (x k : BitVec 5) (l : BitVec 4) (g : BitVec 3) : RoundTrip.Statement (.atomExch32 d x k l g) := by
  intro _ w h
  obtain ⟨f0, f1, f2, f3, f4, f5, f6⟩ := layout15 h
  rw [major26 f0, decodeMajor26, if_pos (field_is f4 rfl), f1, f2, f3, f5, f6]

theorem RoundTrip.atomCas32 (d : BitVec 6) (x k : BitVec 5) (l : BitVec 4) (g : BitVec 3) : RoundTrip.Statement (.atomCas32 d x k l g) := by
  intro _ w h
  obtain ⟨f0, f1, f2, f3, f4, f5, f6⟩ := layout15 h
  rw [major26 f0, decodeMajor26, if_neg (field_not f4 7 3 rfl), if_pos (field_is f4 rfl), f1, f2, f3, f5, f6]

theorem RoundTrip.atomAdd64 (d : BitVec 6) (x k : BitVec 5) (l : BitVec 4) (g : BitVec 3) : RoundTrip.Statement (.atomAdd64 d x k l g) := by
  intro _ w h
  obtain ⟨f0, f1, f2, f3, f4, f5, f6⟩ := layout15 h
  rw [major26 f0, decodeMajor26, if_neg (field_not f4 7 3 rfl), if_neg (field_not f4 7 3 rfl), if_pos (field_is f4 rfl), f1, f2, f3, f5, f6]

theorem RoundTrip.atomExch64 (d : BitVec 6) (x k : BitVec 5) (l : BitVec 4) (g : BitVec 3) : RoundTrip.Statement (.atomExch64 d x k l g) := by
  intro _ w h
  obtain ⟨f0, f1, f2, f3, f4, f5, f6⟩ := layout15 h
  rw [major26 f0, decodeMajor26, if_neg (field_not f4 7 3 rfl), if_neg (field_not f4 7 3 rfl), if_neg (field_not f4 7 3 rfl), if_pos (field_is f4 rfl), f1, f2, f3, f5, f6]

theorem RoundTrip.atomCas64 (d : BitVec 6) (x k : BitVec 5) (l : BitVec 4) (g : BitVec 3) : RoundTrip.Statement (.atomCas64 d x k l g) := by
  intro _ w h
  obtain ⟨f0, f1, f2, f3, f4, f5, f6⟩ := layout15 h
  rw [major26 f0, decodeMajor26, if_neg (field_not f4 7 3 rfl), if_neg (field_not f4 7 3 rfl), if_neg (field_not f4 7 3 rfl), if_neg (field_not f4 7 3 rfl), if_pos (field_is f4 rfl), f1, f2, f3, f5, f6]

theorem RoundTrip.atomFaddF32 (d : BitVec 6) (x k : BitVec 5) (l : BitVec 4) (g : BitVec 3) : RoundTrip.Statement (.atomFaddF32 d x k l g) := by
  intro _ w h
  obtain ⟨f0, f1, f2, f3, f4, f5, f6⟩ := layout15 h
  rw [major26 f0, decodeMajor26, if_neg (field_not f4 7 3 rfl), if_neg (field_not f4 7 3 rfl), if_neg (field_not f4 7 3 rfl), if_neg (field_not f4 7 3 rfl), if_neg (field_not f4 7 3 rfl), if_pos (field_is f4 rfl), f1, f2, f3, f5, f6]

theorem RoundTrip.atomFaddBf16x2 (d : BitVec 6) (x k : BitVec 5) (l : BitVec 4) (g : BitVec 3) : RoundTrip.Statement (.atomFaddBf16x2 d x k l g) := by
  intro _ w h
  obtain ⟨f0, f1, f2, f3, f4, f5, f6⟩ := layout15 h
  rw [major26 f0, decodeMajor26, if_neg (field_not f4 7 3 rfl), if_neg (field_not f4 7 3 rfl), if_neg (field_not f4 7 3 rfl), if_neg (field_not f4 7 3 rfl), if_neg (field_not f4 7 3 rfl), if_neg (field_not f4 7 3 rfl), if_pos (field_is f4 rfl), f1, f2, f3, f5, f6]

theorem RoundTrip.fence (s : BitVec 3) (k : BitVec 2) : RoundTrip.Statement (.fence s k) := by
  intro _ w h
  obtain ⟨f0, f1, f2, f3⟩ := layout17 h
  rw [major27 f0, decodeMajor27, if_pos (field_is f3 rfl), f1, f2]

theorem RoundTrip.cpyG2s (a b : BitVec 5) (n : BitVec 4) (v z : BitVec 1) (l : BitVec 4) : RoundTrip.Statement (.cpyG2s a b n v z l) := by
  intro _ w h
  obtain ⟨f0, f1, f2, f3, f4, f5, f6, f7, f8⟩ := layout18 h
  rw [major28 f0, decodeMajor28, if_pos ⟨field_is f8 rfl, field_is f6 rfl⟩, f1, f2, f3, f4, f5, f7]

theorem RoundTrip.cpyS2g (a b : BitVec 5) (n : BitVec 4) (v z : BitVec 1) (l : BitVec 4) : RoundTrip.Statement (.cpyS2g a b n v z l) := by
  intro _ w h
  obtain ⟨f0, f1, f2, f3, f4, f5, f6, f7, f8⟩ := layout18 h
  rw [major28 f0, decodeMajor28, if_neg (fun h => field_not f6 7 3 rfl h.2), if_pos ⟨field_is f8 rfl, field_is f6 rfl⟩, f1, f2, f3, f4, f5, f7]

theorem RoundTrip.cpytG2s (a b : BitVec 5) (n : BitVec 4) (v z : BitVec 1) (l : BitVec 4) : RoundTrip.Statement (.cpytG2s a b n v z l) := by
  intro _ w h
  obtain ⟨f0, f1, f2, f3, f4, f5, f6, f7, f8⟩ := layout18 h
  rw [major28 f0, decodeMajor28, if_neg (fun h => field_not f6 7 3 rfl h.2), if_neg (fun h => field_not f6 7 3 rfl h.2), if_pos ⟨field_is f8 rfl, field_is f6 rfl⟩, f1, f2, f3, f4, f5, f7]

theorem RoundTrip.cpytS2g (a b : BitVec 5) (n : BitVec 4) (v z : BitVec 1) (l : BitVec 4) : RoundTrip.Statement (.cpytS2g a b n v z l) := by
  intro _ w h
  obtain ⟨f0, f1, f2, f3, f4, f5, f6, f7, f8⟩ := layout18 h
  rw [major28 f0, decodeMajor28, if_neg (fun h => field_not f6 7 3 rfl h.2), if_neg (fun h => field_not f6 7 3 rfl h.2), if_neg (fun h => field_not f6 7 3 rfl h.2), if_pos ⟨field_is f8 rfl, field_is f6 rfl⟩, f1, f2, f3, f4, f5, f7]

theorem RoundTrip.cpym (a b : BitVec 5) (n : BitVec 4) (v z : BitVec 1) (l : BitVec 4) (t : BitVec 3) : RoundTrip.Statement (.cpym a b n v z l t) := by
  intro _ w h
  obtain ⟨f0, f1, f2, f3, f4, f5, f6, f7, f8⟩ := layout18 h
  rw [major28 f0, decodeMajor28, if_neg (fun h => field_not f6 7 3 rfl h.2), if_neg (fun h => field_not f6 7 3 rfl h.2), if_neg (fun h => field_not f6 7 3 rfl h.2), if_neg (fun h => field_not f6 7 3 rfl h.2), if_pos (field_is f6 rfl), f1, f2, f3, f4, f5, f7, f8]

theorem RoundTrip.bini (a : BitVec 5) (n l : BitVec 4) : RoundTrip.Statement (.bini a n l) := by
  intro _ w h
  obtain ⟨f0, f1, f2, f3, f4, f5, f6⟩ := layout19 h
  rw [major29 f0, decodeMajor29, if_neg (fun h => field_not f4 7 5 rfl h.2.1), if_pos ⟨field_is f6 rfl, field_is f4 rfl, field_is f2 rfl⟩, f1, f3, f5]

theorem RoundTrip.barv (n l : BitVec 4) : RoundTrip.Statement (.barv n l) := by
  intro _ w h
  obtain ⟨f0, f1, f2, f3, f4⟩ := layout20 h
  rw [major29 (field_is f0 rfl), decodeMajor29, if_pos ⟨field_is f4 rfl, field_is f2 rfl, field_is f0 rfl⟩, f1, f3]

theorem RoundTrip.bexp (a : BitVec 5) (n l : BitVec 4) : RoundTrip.Statement (.bexp a n l) := by
  intro _ w h
  obtain ⟨f0, f1, f2, f3, f4, f5, f6⟩ := layout19 h
  rw [major29 f0, decodeMajor29, if_neg (fun h => field_not f4 7 5 rfl h.2.1), if_neg (fun h => field_not f4 7 5 rfl h.2.1), if_pos ⟨field_is f6 rfl, field_is f4 rfl, field_is f2 rfl⟩, f1, f3, f5]

theorem RoundTrip.btst (a : BitVec 5) (n l : BitVec 4) : RoundTrip.Statement (.btst a n l) := by
  intro _ w h
  obtain ⟨f0, f1, f2, f3, f4, f5, f6⟩ := layout19 h
  rw [major29 f0, decodeMajor29, if_neg (fun h => field_not f4 7 5 rfl h.2.1), if_neg (fun h => field_not f4 7 5 rfl h.2.1), if_neg (fun h => field_not f4 7 5 rfl h.2.1), if_pos ⟨field_is f6 rfl, field_is f4 rfl, field_is f2 rfl⟩, f1, f3, f5]

theorem RoundTrip.bwait (a : BitVec 5) (n l : BitVec 4) : RoundTrip.Statement (.bwait a n l) := by
  intro _ w h
  obtain ⟨f0, f1, f2, f3, f4, f5, f6⟩ := layout19 h
  rw [major29 f0, decodeMajor29, if_neg (fun h => field_not f4 7 5 rfl h.2.1), if_neg (fun h => field_not f4 7 5 rfl h.2.1), if_neg (fun h => field_not f4 7 5 rfl h.2.1), if_neg (fun h => field_not f4 7 5 rfl h.2.1), if_pos ⟨field_is f6 rfl, field_is f4 rfl, field_is f2 rfl⟩, f1, f3, f5]

theorem RoundTrip.clstAg (a : BitVec 5) (n l : BitVec 4) (f : BitVec 3) : RoundTrip.Statement (.clstAg a n l f) := by
  intro _ w h
  obtain ⟨f0, f1, f2, f3, f4, f5, f6⟩ := layout19 h
  rw [major2A f0, decodeMajor2A, if_pos ⟨field_is f4 rfl, field_is f2 rfl⟩, f1, f3, f5, f6]

theorem RoundTrip.clstRs (a : BitVec 5) (n l : BitVec 4) (f : BitVec 3) : RoundTrip.Statement (.clstRs a n l f) := by
  intro _ w h
  obtain ⟨f0, f1, f2, f3, f4, f5, f6⟩ := layout19 h
  rw [major2A f0, decodeMajor2A, if_neg (fun h => field_not f4 7 5 rfl h.1), if_pos ⟨field_is f4 rfl, field_is f2 rfl⟩, f1, f3, f5, f6]

theorem RoundTrip.clstAr (a : BitVec 5) (n l : BitVec 4) (f : BitVec 3) : RoundTrip.Statement (.clstAr a n l f) := by
  intro _ w h
  obtain ⟨f0, f1, f2, f3, f4, f5, f6⟩ := layout19 h
  rw [major2A f0, decodeMajor2A, if_neg (fun h => field_not f4 7 5 rfl h.1), if_neg (fun h => field_not f4 7 5 rfl h.1), if_pos ⟨field_is f4 rfl, field_is f2 rfl⟩, f1, f3, f5, f6]

theorem RoundTrip.clstBc (a : BitVec 5) (n l : BitVec 4) (f : BitVec 3) : RoundTrip.Statement (.clstBc a n l f) := by
  intro _ w h
  obtain ⟨f0, f1, f2, f3, f4, f5, f6⟩ := layout19 h
  rw [major2A f0, decodeMajor2A, if_neg (fun h => field_not f4 7 5 rfl h.1), if_neg (fun h => field_not f4 7 5 rfl h.1), if_neg (fun h => field_not f4 7 5 rfl h.1), if_pos ⟨field_is f4 rfl, field_is f2 rfl⟩, f1, f3, f5, f6]

theorem RoundTrip.evpst (a : BitVec 5) (l : BitVec 4) : RoundTrip.Statement (.evpst a l) := by
  intro _ w h
  obtain ⟨f0, f1, f2, f3, f4⟩ := layout21 h
  rw [major2B f0, decodeMajor2B, if_neg (fun h => field_not f2 7 14 rfl h.2), if_pos ⟨field_is f4 rfl, field_is f2 rfl⟩, f1, f3]

theorem RoundTrip.rfnc (l : BitVec 4) : RoundTrip.Statement (.rfnc l) := by
  intro _ w h
  obtain ⟨f0, f1, f2⟩ := layout22 h
  rw [major2B (field_is f0 rfl), decodeMajor2B, if_pos ⟨field_is f2 rfl, field_is f0 rfl⟩, f1]

theorem RoundTrip.audm (a : BitVec 5) (l : BitVec 4) : RoundTrip.Statement (.audm a l) := by
  intro _ w h
  obtain ⟨f0, f1, f2, f3, f4⟩ := layout21 h
  rw [major2B f0, decodeMajor2B, if_neg (fun h => field_not f2 7 14 rfl h.2), if_neg (fun h => field_not f2 7 14 rfl h.2), if_pos ⟨field_is f4 rfl, field_is f2 rfl⟩, f1, f3]

theorem RoundTrip.digr (a : BitVec 5) (l : BitVec 4) : RoundTrip.Statement (.digr a l) := by
  intro _ w h
  obtain ⟨f0, f1, f2, f3, f4⟩ := layout21 h
  rw [major2B f0, decodeMajor2B, if_neg (fun h => field_not f2 7 14 rfl h.2), if_neg (fun h => field_not f2 7 14 rfl h.2), if_neg (fun h => field_not f2 7 14 rfl h.2), if_pos ⟨field_is f4 rfl, field_is f2 rfl⟩, f1, f3]

theorem RoundTrip.snap (d a : BitVec 5) (l : BitVec 4) : RoundTrip.Statement (.snap d a l) := by
  intro _ w h
  obtain ⟨f0, f1, f2, f3, f4, f5⟩ := layout23 h
  rw [major2C f0, decodeMajor2C, if_neg (fun h => field_not f3 7 9 rfl h.2), if_neg (field_not f3 7 9 rfl), if_pos ⟨field_is f5 rfl, field_is f3 rfl⟩, f1, f2, f4]

theorem RoundTrip.sacc (h : BitVec 5) (l : BitVec 4) : RoundTrip.Statement (.sacc h l) := by
  intro _ w h
  obtain ⟨f0, f1, f2, f3, f4⟩ := layout21 h
  rw [major2C f0, decodeMajor2C, if_pos ⟨field_is f4 rfl, field_is f2 rfl⟩, f1, f3]

theorem RoundTrip.srej (h : BitVec 5) (l : BitVec 4) (s : BitVec 3) : RoundTrip.Statement (.srej h l s) := by
  intro _ w h
  obtain ⟨f0, f1, f2, f3, f4⟩ := layout21 h
  rw [major2C f0, decodeMajor2C, if_neg (fun h => field_not f2 7 14 rfl h.2), if_pos (field_is f2 rfl), f1, f3, f4]

theorem RoundTrip.sqry (d h : BitVec 5) (l : BitVec 4) : RoundTrip.Statement (.sqry d h l) := by
  intro _ w h
  obtain ⟨f0, f1, f2, f3, f4, f5⟩ := layout23 h
  rw [major2C f0, decodeMajor2C, if_neg (fun h => field_not f3 7 9 rfl h.2), if_neg (field_not f3 7 9 rfl), if_neg (fun h => field_not f3 7 9 rfl h.2), if_pos ⟨field_is f5 rfl, field_is f3 rfl⟩, f1, f2, f4]

theorem RoundTrip.hgiv (h p : BitVec 5) (l : BitVec 4) : RoundTrip.Statement (.hgiv h p l) := by
  intro _ w h
  obtain ⟨f0, f1, f2, f3, f4, f5⟩ := layout23 h
  rw [major2D f0, decodeMajor2D, if_neg (fun h => field_not f3 7 9 rfl h.2), if_pos ⟨field_is f5 rfl, field_is f3 rfl⟩, f1, f2, f4]

theorem RoundTrip.htak (d h : BitVec 5) (l : BitVec 4) : RoundTrip.Statement (.htak d h l) := by
  intro _ w h
  obtain ⟨f0, f1, f2, f3, f4, f5⟩ := layout23 h
  rw [major2D f0, decodeMajor2D, if_neg (fun h => field_not f3 7 9 rfl h.2), if_neg (fun h => field_not f3 7 9 rfl h.2), if_pos ⟨field_is f5 rfl, field_is f3 rfl⟩, f1, f2, f4]

theorem RoundTrip.hmap (d o : BitVec 5) (l : BitVec 4) : RoundTrip.Statement (.hmap d o l) := by
  intro _ w h
  obtain ⟨f0, f1, f2, f3, f4, f5⟩ := layout23 h
  rw [major2D f0, decodeMajor2D, if_neg (fun h => field_not f3 7 9 rfl h.2), if_neg (fun h => field_not f3 7 9 rfl h.2), if_neg (fun h => field_not f3 7 9 rfl h.2), if_pos ⟨field_is f5 rfl, field_is f3 rfl⟩, f1, f2, f4]

theorem RoundTrip.hfls (h : BitVec 5) (l : BitVec 4) : RoundTrip.Statement (.hfls h l) := by
  intro _ w h
  obtain ⟨f0, f1, f2, f3, f4⟩ := layout21 h
  rw [major2D f0, decodeMajor2D, if_pos ⟨field_is f4 rfl, field_is f2 rfl⟩, f1, f3]

theorem RoundTrip.lnch (d b : BitVec 5) (l : BitVec 4) : RoundTrip.Statement (.lnch d b l) := by
  intro _ w h
  obtain ⟨f0, f1, f2, f3, f4, f5⟩ := layout23 h
  rw [major2E f0, decodeMajor2E, if_pos ⟨field_is f5 rfl, field_is f3 rfl⟩, f1, f2, f4]

theorem RoundTrip.evpop (d b : BitVec 5) (l : BitVec 4) : RoundTrip.Statement (.evpop d b l) := by
  intro _ w h
  obtain ⟨f0, f1, f2, f3, f4, f5⟩ := layout23 h
  rw [major2E f0, decodeMajor2E, if_neg (fun h => field_not f3 7 9 rfl h.2), if_pos ⟨field_is f5 rfl, field_is f3 rfl⟩, f1, f2, f4]

theorem RoundTrip.trel (d t : BitVec 5) (l : BitVec 4) : RoundTrip.Statement (.trel d t l) := by
  intro _ w h
  obtain ⟨f0, f1, f2, f3, f4, f5⟩ := layout23 h
  rw [major2E f0, decodeMajor2E, if_neg (fun h => field_not f3 7 9 rfl h.2), if_neg (fun h => field_not f3 7 9 rfl h.2), if_pos ⟨field_is f5 rfl, field_is f3 rfl⟩, f1, f2, f4]

theorem RoundTrip.xchUp (d s : BitVec 6) (k : BitVec 5) (g : BitVec 3) : RoundTrip.Statement (.xchUp d s k g) := by
  intro _ w h
  obtain ⟨f0, f1, f2, f3, f4, f5⟩ := layout24 h
  rw [major30 f0, decodeMajor30, if_neg (field_not f4 3 6 rfl), if_pos (field_is f4 rfl), f1, f2, f3, f5]

theorem RoundTrip.xchDn (d s : BitVec 6) (k : BitVec 5) (g : BitVec 3) : RoundTrip.Statement (.xchDn d s k g) := by
  intro _ w h
  obtain ⟨f0, f1, f2, f3, f4, f5⟩ := layout24 h
  rw [major30 f0, decodeMajor30, if_neg (field_not f4 3 6 rfl), if_neg (field_not f4 3 6 rfl), if_pos (field_is f4 rfl), f1, f2, f3, f5]

theorem RoundTrip.xchXor (d s : BitVec 6) (k : BitVec 5) (g : BitVec 3) : RoundTrip.Statement (.xchXor d s k g) := by
  intro _ w h
  obtain ⟨f0, f1, f2, f3, f4, f5⟩ := layout24 h
  rw [major30 f0, decodeMajor30, if_neg (field_not f4 3 6 rfl), if_neg (field_not f4 3 6 rfl), if_neg (field_not f4 3 6 rfl), if_pos (field_is f4 rfl), f1, f2, f3, f5]

theorem RoundTrip.xchIdx (d s : BitVec 6) (g : BitVec 3) : RoundTrip.Statement (.xchIdx d s g) := by
  intro _ w h
  obtain ⟨f0, f1, f2, f3, f4⟩ := layout1 h
  rw [major30 f0, decodeMajor30, if_pos (field_is f3 rfl), f1, f2, f4]

theorem RoundTrip.xbc (d s : BitVec 6) (k : BitVec 5) (g : BitVec 3) : RoundTrip.Statement (.xbc d s k g) := by
  intro _ w h
  obtain ⟨f0, f1, f2, f3, f4, f5⟩ := layout24 h
  rw [major30 f0, decodeMajor30, if_neg (field_not f4 3 6 rfl), if_neg (field_not f4 3 6 rfl), if_neg (field_not f4 3 6 rfl), if_neg (field_not f4 3 6 rfl), if_pos (field_is f4 rfl), f1, f2, f3, f5]

theorem RoundTrip.xredAddI32 (d s : BitVec 6) (g : BitVec 3) : RoundTrip.Statement (.xredAddI32 d s g) := by
  intro _ w h
  obtain ⟨f0, f1, f2, f3, f4⟩ := layout1 h
  rw [major31 f0, decodeMajor31, if_neg (fun h => field_not f3 3 11 rfl h.1), if_neg (fun h => field_not f3 3 11 rfl h.1), if_neg (fun h => field_not f3 3 11 rfl h.1), if_pos (field_is f3 rfl), f1, f2, f4]

theorem RoundTrip.xredAddF32 (d s : BitVec 6) (g : BitVec 3) : RoundTrip.Statement (.xredAddF32 d s g) := by
  intro _ w h
  obtain ⟨f0, f1, f2, f3, f4⟩ := layout1 h
  rw [major31 f0, decodeMajor31, if_neg (fun h => field_not f3 3 11 rfl h.1), if_neg (fun h => field_not f3 3 11 rfl h.1), if_neg (fun h => field_not f3 3 11 rfl h.1), if_neg (field_not f3 3 11 rfl), if_pos (field_is f3 rfl), f1, f2, f4]

theorem RoundTrip.xredMinS (d s : BitVec 6) (g : BitVec 3) : RoundTrip.Statement (.xredMinS d s g) := by
  intro _ w h
  obtain ⟨f0, f1, f2, f3, f4⟩ := layout1 h
  rw [major31 f0, decodeMajor31, if_neg (fun h => field_not f3 3 11 rfl h.1), if_neg (fun h => field_not f3 3 11 rfl h.1), if_neg (fun h => field_not f3 3 11 rfl h.1), if_neg (field_not f3 3 11 rfl), if_neg (field_not f3 3 11 rfl), if_pos (field_is f3 rfl), f1, f2, f4]

theorem RoundTrip.xredMaxS (d s : BitVec 6) (g : BitVec 3) : RoundTrip.Statement (.xredMaxS d s g) := by
  intro _ w h
  obtain ⟨f0, f1, f2, f3, f4⟩ := layout1 h
  rw [major31 f0, decodeMajor31, if_neg (fun h => field_not f3 3 11 rfl h.1), if_neg (fun h => field_not f3 3 11 rfl h.1), if_neg (fun h => field_not f3 3 11 rfl h.1), if_neg (field_not f3 3 11 rfl), if_neg (field_not f3 3 11 rfl), if_neg (field_not f3 3 11 rfl), if_pos (field_is f3 rfl), f1, f2, f4]

theorem RoundTrip.xredMinF32 (d s : BitVec 6) (g : BitVec 3) : RoundTrip.Statement (.xredMinF32 d s g) := by
  intro _ w h
  obtain ⟨f0, f1, f2, f3, f4⟩ := layout1 h
  rw [major31 f0, decodeMajor31, if_neg (fun h => field_not f3 3 11 rfl h.1), if_neg (fun h => field_not f3 3 11 rfl h.1), if_neg (fun h => field_not f3 3 11 rfl h.1), if_neg (field_not f3 3 11 rfl), if_neg (field_not f3 3 11 rfl), if_neg (field_not f3 3 11 rfl), if_neg (field_not f3 3 11 rfl), if_pos (field_is f3 rfl), f1, f2, f4]

theorem RoundTrip.xredMaxF32 (d s : BitVec 6) (g : BitVec 3) : RoundTrip.Statement (.xredMaxF32 d s g) := by
  intro _ w h
  obtain ⟨f0, f1, f2, f3, f4⟩ := layout1 h
  rw [major31 f0, decodeMajor31, if_neg (fun h => field_not f3 3 11 rfl h.1), if_neg (fun h => field_not f3 3 11 rfl h.1), if_neg (fun h => field_not f3 3 11 rfl h.1), if_neg (field_not f3 3 11 rfl), if_neg (field_not f3 3 11 rfl), if_neg (field_not f3 3 11 rfl), if_neg (field_not f3 3 11 rfl), if_neg (field_not f3 3 11 rfl), if_pos (field_is f3 rfl), f1, f2, f4]

theorem RoundTrip.xscnAddI32 (d s : BitVec 6) (g : BitVec 3) : RoundTrip.Statement (.xscnAddI32 d s g) := by
  intro _ w h
  obtain ⟨f0, f1, f2, f3, f4⟩ := layout1 h
  rw [major31 f0, decodeMajor31, if_neg (fun h => field_not f3 3 11 rfl h.1), if_neg (fun h => field_not f3 3 11 rfl h.1), if_neg (fun h => field_not f3 3 11 rfl h.1), if_neg (field_not f3 3 11 rfl), if_neg (field_not f3 3 11 rfl), if_neg (field_not f3 3 11 rfl), if_neg (field_not f3 3 11 rfl), if_neg (field_not f3 3 11 rfl), if_neg (field_not f3 3 11 rfl), if_pos (field_is f3 rfl), f1, f2, f4]

theorem RoundTrip.xscnAddF32 (d s : BitVec 6) (g : BitVec 3) : RoundTrip.Statement (.xscnAddF32 d s g) := by
  intro _ w h
  obtain ⟨f0, f1, f2, f3, f4⟩ := layout1 h
  rw [major31 f0, decodeMajor31, if_neg (fun h => field_not f3 3 11 rfl h.1), if_neg (fun h => field_not f3 3 11 rfl h.1), if_neg (fun h => field_not f3 3 11 rfl h.1), if_neg (field_not f3 3 11 rfl), if_neg (field_not f3 3 11 rfl), if_neg (field_not f3 3 11 rfl), if_neg (field_not f3 3 11 rfl), if_neg (field_not f3 3 11 rfl), if_neg (field_not f3 3 11 rfl), if_neg (field_not f3 3 11 rfl), if_pos (field_is f3 rfl), f1, f2, f4]

theorem RoundTrip.xscnMinS (d s : BitVec 6) (g : BitVec 3) : RoundTrip.Statement (.xscnMinS d s g) := by
  intro _ w h
  obtain ⟨f0, f1, f2, f3, f4⟩ := layout1 h
  rw [major31 f0, decodeMajor31, if_neg (fun h => field_not f3 3 11 rfl h.1), if_neg (fun h => field_not f3 3 11 rfl h.1), if_neg (fun h => field_not f3 3 11 rfl h.1), if_neg (field_not f3 3 11 rfl), if_neg (field_not f3 3 11 rfl), if_neg (field_not f3 3 11 rfl), if_neg (field_not f3 3 11 rfl), if_neg (field_not f3 3 11 rfl), if_neg (field_not f3 3 11 rfl), if_neg (field_not f3 3 11 rfl), if_neg (field_not f3 3 11 rfl), if_pos (field_is f3 rfl), f1, f2, f4]

theorem RoundTrip.xscnMaxS (d s : BitVec 6) (g : BitVec 3) : RoundTrip.Statement (.xscnMaxS d s g) := by
  intro _ w h
  obtain ⟨f0, f1, f2, f3, f4⟩ := layout1 h
  rw [major31 f0, decodeMajor31, if_neg (fun h => field_not f3 3 11 rfl h.1), if_neg (fun h => field_not f3 3 11 rfl h.1), if_neg (fun h => field_not f3 3 11 rfl h.1), if_neg (field_not f3 3 11 rfl), if_neg (field_not f3 3 11 rfl), if_neg (field_not f3 3 11 rfl), if_neg (field_not f3 3 11 rfl), if_neg (field_not f3 3 11 rfl), if_neg (field_not f3 3 11 rfl), if_neg (field_not f3 3 11 rfl), if_neg (field_not f3 3 11 rfl), if_neg (field_not f3 3 11 rfl), if_pos (field_is f3 rfl), f1, f2, f4]

theorem RoundTrip.xscnMinF32 (d s : BitVec 6) (g : BitVec 3) : RoundTrip.Statement (.xscnMinF32 d s g) := by
  intro _ w h
  obtain ⟨f0, f1, f2, f3, f4⟩ := layout1 h
  rw [major31 f0, decodeMajor31, if_neg (fun h => field_not f3 3 11 rfl h.1), if_neg (fun h => field_not f3 3 11 rfl h.1), if_neg (fun h => field_not f3 3 11 rfl h.1), if_neg (field_not f3 3 11 rfl), if_neg (field_not f3 3 11 rfl), if_neg (field_not f3 3 11 rfl), if_neg (field_not f3 3 11 rfl), if_neg (field_not f3 3 11 rfl), if_neg (field_not f3 3 11 rfl), if_neg (field_not f3 3 11 rfl), if_neg (field_not f3 3 11 rfl), if_neg (field_not f3 3 11 rfl), if_neg (field_not f3 3 11 rfl), if_pos (field_is f3 rfl), f1, f2, f4]

theorem RoundTrip.xscnMaxF32 (d s : BitVec 6) (g : BitVec 3) : RoundTrip.Statement (.xscnMaxF32 d s g) := by
  intro _ w h
  obtain ⟨f0, f1, f2, f3, f4⟩ := layout1 h
  rw [major31 f0, decodeMajor31, if_neg (fun h => field_not f3 3 11 rfl h.1), if_neg (fun h => field_not f3 3 11 rfl h.1), if_neg (fun h => field_not f3 3 11 rfl h.1), if_neg (field_not f3 3 11 rfl), if_neg (field_not f3 3 11 rfl), if_neg (field_not f3 3 11 rfl), if_neg (field_not f3 3 11 rfl), if_neg (field_not f3 3 11 rfl), if_neg (field_not f3 3 11 rfl), if_neg (field_not f3 3 11 rfl), if_neg (field_not f3 3 11 rfl), if_neg (field_not f3 3 11 rfl), if_neg (field_not f3 3 11 rfl), if_neg (field_not f3 3 11 rfl), if_pos (field_is f3 rfl), f1, f2, f4]

theorem RoundTrip.voteBallot (d : BitVec 6) (p g : BitVec 3) : RoundTrip.Statement (.voteBallot d p g) := by
  intro _ w h
  obtain ⟨f0, f1, f2, f3, f4, f5⟩ := layout25 h
  rw [major31 f0, decodeMajor31, if_neg (fun h => field_not f4 3 11 rfl h.1), if_neg (fun h => field_not f4 3 11 rfl h.1), if_pos ⟨field_is f4 rfl, field_is f2 rfl⟩, f1, f3, f5]

theorem RoundTrip.voteAny (q p g : BitVec 3) : RoundTrip.Statement (.voteAny q p g) := by
  intro _ w h
  obtain ⟨f0, f1, f2, f3, f4, f5⟩ := layout26 h
  rw [major31 (field_is f0 rfl), decodeMajor31, if_pos ⟨field_is f4 rfl, field_is f2 rfl, field_is f0 rfl⟩, f1, f3, f5]

theorem RoundTrip.voteAll (q p g : BitVec 3) : RoundTrip.Statement (.voteAll q p g) := by
  intro _ w h
  obtain ⟨f0, f1, f2, f3, f4, f5⟩ := layout26 h
  rw [major31 (field_is f0 rfl), decodeMajor31, if_neg (fun h => field_not f4 3 11 rfl h.1), if_pos ⟨field_is f4 rfl, field_is f2 rfl, field_is f0 rfl⟩, f1, f3, f5]

theorem RoundTrip.xshc (d s : BitVec 6) (k : BitVec 5) (g : BitVec 3) : RoundTrip.Statement (.xshc d s k g) := by
  intro _ w h
  obtain ⟨f0, f1, f2, f3, f4, f5⟩ := layout24 h
  rw [major32 f0, decodeMajor32, if_pos (field_is f4 rfl), f1, f2, f3, f5]

theorem RoundTrip.bra (k : BitVec 5) (c : BitVec 2) (o : BitVec 19) : RoundTrip.Statement (.bra k c o) := by
  intro _ w h
  obtain ⟨f0, f1, f2, f3⟩ := layout27 h
  rw [major34 f0, decodeMajor34, f1, f2, f3]

theorem RoundTrip.brd (p : BitVec 3) (n : BitVec 1) (o : BitVec 22) : RoundTrip.Statement (.brd p n o) := by
  intro _ w h
  obtain ⟨f0, f1, f2, f3⟩ := layout28 h
  rw [major35 f0, decodeMajor35, f1, f2, f3]

theorem RoundTrip.call (o : BitVec 26) : RoundTrip.Statement (.call o) := by
  intro _ w h
  obtain ⟨f0, f1⟩ := layout29 h
  rw [major36 f0, decodeMajor36, f1]

theorem RoundTrip.calli (s : BitVec 6) (g : BitVec 3) : RoundTrip.Statement (.calli s g) := by
  intro _ w h
  obtain ⟨f0, f1, f2, f3⟩ := layout30 h
  rw [major37 f0, decodeMajor37, if_pos (field_is f2 rfl), f1, f3]

theorem RoundTrip.ret (s : BitVec 6) : RoundTrip.Statement (.ret s) := by
  intro _ w h
  obtain ⟨f0, f1, f2⟩ := layout31 h
  rw [major38 (field_is f0 rfl), decodeMajor38, if_neg (field_not f2 0 14 rfl), if_neg (field_not f2 3 11 rfl), if_neg (fun h => field_not f2 0 14 rfl h.1), if_neg (fun h => field_not f2 0 14 rfl h.1), if_pos ⟨field_is f2 rfl, field_is f0 rfl⟩, f1]

theorem RoundTrip.join : RoundTrip.Statement (.join) := by
  intro _ w h
  have f0 := layout32 h
  rw [major38 (field_is f0 rfl), decodeMajor38, if_pos (field_is f0 rfl)]

theorem RoundTrip.exit (g : BitVec 3) : RoundTrip.Statement (.exit g) := by
  intro _ w h
  obtain ⟨f0, f1⟩ := layout33 h
  rw [major38 (field_is f0 rfl), decodeMajor38, if_neg (field_not f0 3 23 rfl), if_pos (field_is f0 rfl), f1]

theorem RoundTrip.maskAnd (n : BitVec 1) (p : BitVec 3) : RoundTrip.Statement (.maskAnd n p) := by
  intro _ w h
  obtain ⟨f0, f1, f2, f3⟩ := layout34 h
  rw [major38 (field_is f0 rfl), decodeMajor38, if_neg (field_not f3 0 20 rfl), if_neg (field_not f3 3 17 rfl), if_pos ⟨field_is f3 rfl, field_is f0 rfl⟩, f1, f2]

theorem RoundTrip.maskSet (n : BitVec 1) (p : BitVec 3) : RoundTrip.Statement (.maskSet n p) := by
  intro _ w h
  obtain ⟨f0, f1, f2, f3⟩ := layout34 h
  rw [major38 (field_is f0 rfl), decodeMajor38, if_neg (field_not f0 24 2 rfl), if_neg (field_not f0 24 2 rfl), if_neg (fun h => field_not f0 24 2 rfl h.2), if_pos ⟨field_is f3 rfl, field_is f0 rfl⟩, f1, f2]

theorem RoundTrip.tld (t : BitVec 3) (s : BitVec 2) (x i : BitVec 5) (f : BitVec 3) (l k : BitVec 4) : RoundTrip.Statement (.tld t s x i f l k) := by
  intro _ w h
  obtain ⟨f0, f1, f2, f3, f4, f5, f6, f7⟩ := layout35 h
  rw [major39 f0, decodeMajor39, f1, f2, f3, f4, f5, f6, f7]

theorem RoundTrip.tst (t : BitVec 3) (s : BitVec 2) (x i : BitVec 5) (f : BitVec 3) (l k : BitVec 4) : RoundTrip.Statement (.tst t s x i f l k) := by
  intro _ w h
  obtain ⟨f0, f1, f2, f3, f4, f5, f6, f7⟩ := layout35 h
  rw [major3A f0, decodeMajor3A, f1, f2, f3, f4, f5, f6, f7]

theorem RoundTrip.tzr (t : BitVec 3) (s : BitVec 2) (x i : BitVec 5) (f : BitVec 3) (l : BitVec 4) : RoundTrip.Statement (.tzr t s x i f l) := by
  intro _ w h
  obtain ⟨f0, f1, f2, f3, f4, f5, f6, f7⟩ := layout35 h
  rw [major3B f0, decodeMajor3B, if_neg (fun h => field_not f7 0 4 rfl h.1), if_neg (fun h => field_not f7 0 4 rfl h.1), if_neg (fun h => field_not f7 0 4 rfl h.1), if_pos (field_is f7 rfl), f1, f2, f3, f4, f5, f6]

theorem RoundTrip.azr (x i : BitVec 5) (l : BitVec 4) : RoundTrip.Statement (.azr x i l) := by
  intro _ w h
  obtain ⟨f0, f1, f2, f3, f4, f5⟩ := layout36 h
  rw [major3B (field_is f0 rfl), decodeMajor3B, if_pos ⟨field_is f5 rfl, field_is f3 rfl, field_is f0 rfl⟩, f1, f2, f4]

theorem RoundTrip.ard (t : BitVec 3) (h : BitVec 2) (x i : BitVec 5) (f : BitVec 3) (l : BitVec 4) : RoundTrip.Statement (.ard t h x i f l) := by
  intro _ w h
  obtain ⟨f0, f1, f2, f3, f4, f5, f6, f7⟩ := layout35 h
  rw [major3B f0, decodeMajor3B, if_neg (fun h => field_not f7 0 4 rfl h.1), if_neg (fun h => field_not f7 0 4 rfl h.1), if_neg (fun h => field_not f7 0 4 rfl h.1), if_neg (field_not f7 0 4 rfl), if_pos (field_is f7 rfl), f1, f2, f3, f4, f5, f6]

theorem RoundTrip.awr (t : BitVec 3) (h : BitVec 2) (x i : BitVec 5) (f : BitVec 3) (l : BitVec 4) : RoundTrip.Statement (.awr t h x i f l) := by
  intro _ w h
  obtain ⟨f0, f1, f2, f3, f4, f5, f6, f7⟩ := layout35 h
  rw [major3B f0, decodeMajor3B, if_neg (fun h => field_not f7 0 4 rfl h.1), if_neg (fun h => field_not f7 0 4 rfl h.1), if_neg (fun h => field_not f7 0 4 rfl h.1), if_neg (field_not f7 0 4 rfl), if_neg (field_not f7 0 4 rfl), if_pos (field_is f7 rfl), f1, f2, f3, f4, f5, f6]

theorem RoundTrip.asv (a x i : BitVec 5) (l : BitVec 4) : RoundTrip.Statement (.asv a x i l) := by
  intro _ w h
  obtain ⟨f0, f1, f2, f3, f4, f5, f6⟩ := layout37 h
  rw [major3B f0, decodeMajor3B, if_neg (fun h => field_not f6 0 4 rfl h.1), if_pos ⟨field_is f6 rfl, field_is f4 rfl⟩, f1, f2, f3, f5]

theorem RoundTrip.ars (a x i : BitVec 5) (l : BitVec 4) : RoundTrip.Statement (.ars a x i l) := by
  intro _ w h
  obtain ⟨f0, f1, f2, f3, f4, f5, f6⟩ := layout37 h
  rw [major3B f0, decodeMajor3B, if_neg (fun h => field_not f6 0 4 rfl h.1), if_neg (fun h => field_not f6 0 4 rfl h.1), if_pos ⟨field_is f6 rfl, field_is f4 rfl⟩, f1, f2, f3, f5]

theorem RoundTrip.lstat (t : BitVec 3) (h : BitVec 2) (f : BitVec 3) (l : BitVec 4) : RoundTrip.Statement (.lstat t h f l) := by
  intro _ w h
  obtain ⟨f0, f1, f2, f3, f4, f5, f6⟩ := layout38 h
  rw [major3C f0, decodeMajor3C, if_neg (fun h => field_not f6 0 4 rfl h.1), if_pos ⟨field_is f6 rfl, field_is f3 rfl⟩, f1, f2, f4, f5]

theorem RoundTrip.lstatN32 (t : BitVec 3) (h : BitVec 2) (f : BitVec 3) (l : BitVec 4) : RoundTrip.Statement (.lstatN32 t h f l) := by
  intro _ w h
  obtain ⟨f0, f1, f2, f3, f4, f5, f6⟩ := layout38 h
  rw [major3C f0, decodeMajor3C, if_neg (fun h => field_not f6 0 4 rfl h.1), if_neg (fun h => field_not f6 0 4 rfl h.1), if_pos ⟨field_is f6 rfl, field_is f3 rfl⟩, f1, f2, f4, f5]

theorem RoundTrip.plsw (l : BitVec 4) : RoundTrip.Statement (.plsw l) := by
  intro _ w h
  obtain ⟨f0, f1, f2⟩ := layout39 h
  rw [major3C (field_is f0 rfl), decodeMajor3C, if_pos ⟨field_is f2 rfl, field_is f0 rfl⟩, f1]

theorem RoundTrip.mstr (t : BitVec 3) (h : BitVec 2) (x i : BitVec 5) (f : BitVec 3) (l : BitVec 4) : RoundTrip.Statement (.mstr t h x i f l) := by
  intro _ w h
  obtain ⟨f0, f1, f2, f3, f4, f5, f6, f7⟩ := layout35 h
  rw [major3D f0, decodeMajor3D, if_pos (field_is f7 rfl), f1, f2, f3, f4, f5, f6]

theorem RoundTrip.mstrN32 (t : BitVec 3) (h : BitVec 2) (x i : BitVec 5) (f : BitVec 3) (l : BitVec 4) : RoundTrip.Statement (.mstrN32 t h x i f l) := by
  intro _ w h
  obtain ⟨f0, f1, f2, f3, f4, f5, f6, f7⟩ := layout35 h
  rw [major3D f0, decodeMajor3D, if_neg (field_not f7 0 4 rfl), if_pos (field_is f7 rfl), f1, f2, f3, f4, f5, f6]

theorem RoundTrip.immx (p : BitVec 24) : RoundTrip.Statement (.immx p) := by
  intro _ w h
  obtain ⟨f0, f1⟩ := layout40 h
  rw [major3E (field_is f0 rfl), decodeMajor3E, if_neg (field_not f0 24 2 rfl), if_neg (field_not f0 24 2 rfl), if_pos (field_is f0 rfl), f1]

theorem RoundTrip.hintMem (a o : BitVec 2) (s : BitVec 3) : RoundTrip.Statement (.hintMem a o s) := by
  intro _ w h
  obtain ⟨f0, f1, f2, f3⟩ := layout41 h
  rw [major3E (field_is f0 rfl), decodeMajor3E, if_neg (field_not f0 7 19 rfl), if_pos (field_is f0 rfl), f1, f2, f3]

theorem RoundTrip.hintAri (t : BitVec 1) (r : BitVec 3) : RoundTrip.Statement (.hintAri t r) := by
  intro _ w h
  obtain ⟨f0, f1, f2⟩ := layout42 h
  rw [major3E (field_is f0 rfl), decodeMajor3E, if_pos (field_is f0 rfl), f1, f2]

theorem RoundTrip.csrr (d : BitVec 6) (c : BitVec 10) (g : BitVec 3) : RoundTrip.Statement (.csrr d c g) := by
  intro _ w h
  obtain ⟨f0, f1, f2, f3, f4, f5⟩ := layout43 h
  rw [major3F f0, decodeMajor3F, if_neg (field_not f4 3 2 rfl), if_neg (field_not f4 3 2 rfl), if_neg (fun h => field_not f4 3 2 rfl h.1), if_neg (fun h => field_not f4 3 2 rfl h.1), if_neg (fun h => field_not f4 3 2 rfl h.1), if_neg (fun h => field_not f4 3 2 rfl h.1), if_neg (fun h => field_not f4 3 2 rfl h.1), if_neg (fun h => field_not f4 3 2 rfl h.1), if_neg (fun h => field_not f4 3 2 rfl h.1), if_neg (fun h => field_not f4 3 2 rfl h.1), if_neg (field_not f4 3 2 rfl), if_neg (fun h => field_not f4 3 2 rfl h.1), if_pos ⟨field_is f4 rfl, field_is f2 rfl⟩, f1, f3, f5]

/-- A word of CSRW with a register of its own row is not the general one's (R275). -/
theorem csrw_not {w : W32} {c : BitVec 10} {k : BitVec 15} (f : w.extractLsb' 5 10 = c) (h : csrOwnRow c.toNat = false)
    (hk : csrOwnRow (k.extractLsb' 5 10).toNat = true) : ¬ w.extractLsb' 0 15 = k := by
  intro g
  have h1 := field_inside g 5 10 (by decide) (by decide)
  rw [f] at h1
  rw [h1] at h
  exact Bool.noConfusion (h.symm.trans hk)

theorem RoundTrip.csrw (k : BitVec 5) (c : BitVec 10) : RoundTrip.Statement (.csrw k c) := by
  intro hw w h
  obtain ⟨f0, f1, f2, f3⟩ := layout44 h
  have hc : csrOwnRow c.toNat = false := by
    simp only [Instr.wf, Bool.and_eq_true, Bool.not_eq_true'] at hw
    exact hw.2
  rw [major3F (field_is f0 rfl), decodeMajor3F, if_neg (field_not f3 0 5 rfl), if_neg (field_not f3 0 5 rfl),
    if_neg (fun q => csrw_not f2 hc rfl q.1), if_neg (fun q => csrw_not f2 hc rfl q.1),
    if_neg (fun q => csrw_not f2 hc rfl q.1), if_neg (fun q => csrw_not f2 hc rfl q.1),
    if_neg (fun q => csrw_not f2 hc rfl q.1), if_neg (fun q => csrw_not f2 hc rfl q.1),
    if_neg (fun q => field_not f3 0 5 rfl q.1), if_neg (fun q => field_not f3 0 5 rfl q.1),
    if_neg (field_not f3 0 5 rfl), if_pos ⟨f3, field_is f0 rfl⟩, f1, f2]

theorem RoundTrip.csrwExm (k : BitVec 5) : RoundTrip.Statement (.csrwExm k) := by
  intro _ w h
  obtain ⟨f0, f1, f2⟩ := layout45 h
  rw [major3F (field_is f0 rfl), decodeMajor3F, if_neg (field_not f2 0 15 rfl), if_neg (field_not f2 0 15 rfl), if_pos ⟨field_is f2 rfl, field_is f0 rfl⟩, f1]

theorem RoundTrip.csrwStat (k : BitVec 5) : RoundTrip.Statement (.csrwStat k) := by
  intro _ w h
  obtain ⟨f0, f1, f2⟩ := layout45 h
  rw [major3F (field_is f0 rfl), decodeMajor3F, if_neg (field_not f2 0 15 rfl), if_neg (field_not f2 0 15 rfl), if_neg (fun h => field_not f2 0 15 rfl h.1), if_pos ⟨field_is f2 rfl, field_is f0 rfl⟩, f1]

theorem RoundTrip.csrwAcown (k : BitVec 5) : RoundTrip.Statement (.csrwAcown k) := by
  intro _ w h
  obtain ⟨f0, f1, f2⟩ := layout45 h
  rw [major3F (field_is f0 rfl), decodeMajor3F, if_neg (field_not f2 0 15 rfl), if_neg (field_not f2 0 15 rfl), if_neg (fun h => field_not f2 0 15 rfl h.1), if_neg (fun h => field_not f2 0 15 rfl h.1), if_pos ⟨field_is f2 rfl, field_is f0 rfl⟩, f1]

theorem RoundTrip.csrwTvec (k : BitVec 5) : RoundTrip.Statement (.csrwTvec k) := by
  intro _ w h
  obtain ⟨f0, f1, f2⟩ := layout45 h
  rw [major3F (field_is f0 rfl), decodeMajor3F, if_neg (field_not f2 0 15 rfl), if_neg (field_not f2 0 15 rfl), if_neg (fun h => field_not f2 0 15 rfl h.1), if_neg (fun h => field_not f2 0 15 rfl h.1), if_neg (fun h => field_not f2 0 15 rfl h.1), if_pos ⟨field_is f2 rfl, field_is f0 rfl⟩, f1]

theorem RoundTrip.csrwWdg (k : BitVec 5) : RoundTrip.Statement (.csrwWdg k) := by
  intro _ w h
  obtain ⟨f0, f1, f2⟩ := layout45 h
  rw [major3F (field_is f0 rfl), decodeMajor3F, if_neg (field_not f2 0 15 rfl), if_neg (field_not f2 0 15 rfl), if_neg (fun h => field_not f2 0 15 rfl h.1), if_neg (fun h => field_not f2 0 15 rfl h.1), if_neg (fun h => field_not f2 0 15 rfl h.1), if_neg (fun h => field_not f2 0 15 rfl h.1), if_pos ⟨field_is f2 rfl, field_is f0 rfl⟩, f1]

theorem RoundTrip.csrwPrivb (k : BitVec 5) : RoundTrip.Statement (.csrwPrivb k) := by
  intro _ w h
  obtain ⟨f0, f1, f2⟩ := layout45 h
  rw [major3F (field_is f0 rfl), decodeMajor3F, if_neg (field_not f2 0 15 rfl), if_neg (field_not f2 0 15 rfl), if_neg (fun h => field_not f2 0 15 rfl h.1), if_neg (fun h => field_not f2 0 15 rfl h.1), if_neg (fun h => field_not f2 0 15 rfl h.1), if_neg (fun h => field_not f2 0 15 rfl h.1), if_neg (fun h => field_not f2 0 15 rfl h.1), if_pos ⟨field_is f2 rfl, field_is f0 rfl⟩, f1]

theorem RoundTrip.trap : RoundTrip.Statement (.trap) := by
  intro _ w h
  have f0 := layout32 h
  rw [major3F (field_is f0 rfl), decodeMajor3F, if_pos (field_is f0 rfl)]

theorem RoundTrip.rft : RoundTrip.Statement (.rft) := by
  intro _ w h
  have f0 := layout32 h
  rw [major3F (field_is f0 rfl), decodeMajor3F, if_neg (field_not f0 0 26 rfl), if_pos (field_is f0 rfl)]

theorem RoundTrip.svc (k : BitVec 5) : RoundTrip.Statement (.svc k) := by
  intro _ w h
  obtain ⟨f0, f1, f2⟩ := layout45 h
  rw [major3F (field_is f0 rfl), decodeMajor3F, if_neg (field_not f2 0 15 rfl), if_neg (field_not f2 0 15 rfl), if_neg (fun h => field_not f2 0 15 rfl h.1), if_neg (fun h => field_not f2 0 15 rfl h.1), if_neg (fun h => field_not f2 0 15 rfl h.1), if_neg (fun h => field_not f2 0 15 rfl h.1), if_neg (fun h => field_not f2 0 15 rfl h.1), if_neg (fun h => field_not f2 0 15 rfl h.1), if_pos ⟨field_is f2 rfl, field_is f0 rfl⟩, f1]

theorem RoundTrip.wait (k : BitVec 5) : RoundTrip.Statement (.wait k) := by
  intro _ w h
  obtain ⟨f0, f1, f2⟩ := layout45 h
  rw [major3F (field_is f0 rfl), decodeMajor3F, if_neg (field_not f2 0 15 rfl), if_neg (field_not f2 0 15 rfl), if_neg (fun h => field_not f2 0 15 rfl h.1), if_neg (fun h => field_not f2 0 15 rfl h.1), if_neg (fun h => field_not f2 0 15 rfl h.1), if_neg (fun h => field_not f2 0 15 rfl h.1), if_neg (fun h => field_not f2 0 15 rfl h.1), if_neg (fun h => field_not f2 0 15 rfl h.1), if_neg (fun h => field_not f2 0 15 rfl h.1), if_pos ⟨field_is f2 rfl, field_is f0 rfl⟩, f1]

theorem RoundTrip.nop (d : BitVec 6) : RoundTrip.Statement (.nop d) := by
  intro _ w h
  obtain ⟨f0, f1, f2⟩ := layout46 h
  rw [major3F f0, decodeMajor3F, if_neg (field_not f2 0 20 rfl), if_neg (field_not f2 0 20 rfl), if_neg (fun h => field_not f2 0 15 rfl h.1), if_neg (fun h => field_not f2 0 15 rfl h.1), if_neg (fun h => field_not f2 0 15 rfl h.1), if_neg (fun h => field_not f2 0 15 rfl h.1), if_neg (fun h => field_not f2 0 15 rfl h.1), if_neg (fun h => field_not f2 0 15 rfl h.1), if_neg (fun h => field_not f2 0 15 rfl h.1), if_neg (fun h => field_not f2 0 15 rfl h.1), if_pos (field_is f2 rfl), f1]

theorem RoundTrip.write (f : Frame) : RoundTrip.Statement (.write f) := by
  intro _ w h; cases h

theorem RoundTrip.read (f : Frame) : RoundTrip.Statement (.read f) := by
  intro _ w h; cases h

theorem RoundTrip.submit (f : Frame) : RoundTrip.Statement (.submit f) := by
  intro _ w h; cases h

theorem RoundTrip.cancel (f : Frame) : RoundTrip.Statement (.cancel f) := by
  intro _ w h; cases h

theorem RoundTrip.retry (f : Frame) : RoundTrip.Statement (.retry f) := by
  intro _ w h; cases h

theorem RoundTrip.cfgw (f : Frame) : RoundTrip.Statement (.cfgw f) := by
  intro _ w h; cases h

theorem RoundTrip.cfgwWayMask (f : Frame) : RoundTrip.Statement (.cfgwWayMask f) := by
  intro _ w h; cases h

theorem RoundTrip.cfgwTroot (f : Frame) : RoundTrip.Statement (.cfgwTroot f) := by
  intro _ w h; cases h

theorem RoundTrip.cfgwPartition (f : Frame) : RoundTrip.Statement (.cfgwPartition f) := by
  intro _ w h; cases h

theorem RoundTrip.cfgwHandlerDesc (f : Frame) : RoundTrip.Statement (.cfgwHandlerDesc f) := by
  intro _ w h; cases h

theorem RoundTrip.cfgwLeakyBucket (f : Frame) : RoundTrip.Statement (.cfgwLeakyBucket f) := by
  intro _ w h; cases h

theorem RoundTrip.cfgwPairctl (f : Frame) : RoundTrip.Statement (.cfgwPairctl f) := by
  intro _ w h; cases h

theorem RoundTrip.cfgr (f : Frame) : RoundTrip.Statement (.cfgr f) := by
  intro _ w h; cases h

theorem RoundTrip.pageUnmap (f : Frame) (len : Nat) : RoundTrip.Statement (.pageUnmap f len) := by
  intro _ w h; cases h

theorem RoundTrip.pageProtect (f : Frame) (len leaf : Nat) : RoundTrip.Statement (.pageProtect f len leaf) := by
  intro _ w h; cases h

theorem RoundTrip.pageDiscard (f : Frame) (len : Nat) : RoundTrip.Statement (.pageDiscard f len) := by
  intro _ w h; cases h

theorem RoundTrip.pageMigrate (f : Frame) (len leaf : Nat) : RoundTrip.Statement (.pageMigrate f len leaf) := by
  intro _ w h; cases h

theorem RoundTrip.splinter : RoundTrip.Statement (.splinter) := by
  intro _ w h; cases h

theorem RoundTrip.pair (f : Frame) : RoundTrip.Statement (.pair f) := by
  intro _ w h; cases h

theorem RoundTrip.unpair (f : Frame) : RoundTrip.Statement (.unpair f) := by
  intro _ w h; cases h

theorem RoundTrip.powerRun (f : Frame) : RoundTrip.Statement (.powerRun f) := by
  intro _ w h; cases h

theorem RoundTrip.powerRunLow (f : Frame) : RoundTrip.Statement (.powerRunLow f) := by
  intro _ w h; cases h

theorem RoundTrip.powerHold (f : Frame) : RoundTrip.Statement (.powerHold f) := by
  intro _ w h; cases h

theorem RoundTrip.powerOff (f : Frame) : RoundTrip.Statement (.powerOff f) := by
  intro _ w h; cases h

theorem RoundTrip.powerGate (f : Frame) : RoundTrip.Statement (.powerGate f) := by
  intro _ w h; cases h

theorem RoundTrip.powerUngate (f : Frame) : RoundTrip.Statement (.powerUngate f) := by
  intro _ w h; cases h

theorem RoundTrip.repair (f : Frame) (bank row : Nat) : RoundTrip.Statement (.repair f bank row) := by
  intro _ w h; cases h

theorem RoundTrip.attest (f : Frame) : RoundTrip.Statement (.attest f) := by
  intro _ w h; cases h

theorem RoundTrip.unknownCommand (f : Frame) (cmd : Nat) : RoundTrip.Statement (.unknownCommand f cmd) := by
  intro _ w h; cases h

theorem RoundTrip.ethernetIngressDrop (f : EthFrame) : RoundTrip.Statement (.ethernetIngressDrop f) := by
  intro _ w h; cases h

theorem RoundTrip.bringUp (imageOk : Bool) (up : Halves) (dup : BitVec 3) : RoundTrip.Statement (.bringUp imageOk up dup) := by
  intro _ w h; cases h

theorem RoundTrip.thermalTrip : RoundTrip.Statement (.thermalTrip) := by
  intro _ w h; cases h

theorem RoundTrip.linkDown (port : Nat) (reason : DownReason) : RoundTrip.Statement (.linkDown port reason) := by
  intro _ w h; cases h

theorem RoundTrip.linkRetrain (port : Nat) (lowHalf highHalf sameId : Bool) : RoundTrip.Statement (.linkRetrain port lowHalf highHalf sameId) := by
  intro _ w h; cases h

theorem RoundTrip.linkLoss (port : Nat) : RoundTrip.Statement (.linkLoss port) := by
  intro _ w h; cases h

theorem RoundTrip.portStatusReport (chip : Nat) (upTo : BitVec 4) : RoundTrip.Statement (.portStatusReport chip upTo) := by
  intro _ w h; cases h

theorem RoundTrip.flitReceive (port chan : Nat) (crcOk : Bool) : RoundTrip.Statement (.flitReceive port chan crcOk) := by
  intro _ w h; cases h

theorem RoundTrip.pauseFlit (port chan : Nat) : RoundTrip.Statement (.pauseFlit port chan) := by
  intro _ w h; cases h

theorem RoundTrip.resumeFlit (port chan : Nat) : RoundTrip.Statement (.resumeFlit port chan) := by
  intro _ w h; cases h

theorem RoundTrip.remoteRequest (chip : Nat) (r : RemoteReq) : RoundTrip.Statement (.remoteRequest chip r) := by
  intro _ w h; cases h

theorem RoundTrip.collectiveContribution (coll chip : Nat) (c : Contribution) : RoundTrip.Statement (.collectiveContribution coll chip c) := by
  intro _ w h; cases h

theorem RoundTrip.homeWriteGrant (w t e : Nat) : RoundTrip.Statement (.homeWriteGrant w t e) := by
  intro _ w h; cases h

theorem RoundTrip.l2Fill (line tenant : Nat) (errs : List SectorErr) : RoundTrip.Statement (.l2Fill line tenant errs) := by
  intro _ w h; cases h

theorem RoundTrip.correctedError (site : ErrSite) : RoundTrip.Statement (.correctedError site) := by
  intro _ w h; cases h

theorem RoundTrip.classifierEntryExpiry (ctl idx : Nat) : RoundTrip.Statement (.classifierEntryExpiry ctl idx) := by
  intro _ w h; cases h

theorem RoundTrip.leakyBucketLeak (idx : Nat) : RoundTrip.Statement (.leakyBucketLeak idx) := by
  intro _ w h; cases h

theorem RoundTrip.wayRemovalLine (slice tenant : Nat) : RoundTrip.Statement (.wayRemovalLine slice tenant) := by
  intro _ w h; cases h

theorem RoundTrip.storeBufferDrain (w t e : Nat) : RoundTrip.Statement (.storeBufferDrain w t e) := by
  intro _ w h; cases h

theorem RoundTrip.writeAck (w t e : Nat) : RoundTrip.Statement (.writeAck w t e) := by
  intro _ w h; cases h

theorem RoundTrip.fenceMarkerAck (w t : Nat) (d : Dest) : RoundTrip.Statement (.fenceMarkerAck w t d) := by
  intro _ w h; cases h

theorem RoundTrip.loadReturn (w t o i : Nat) (d : RemoteData) : RoundTrip.Statement (.loadReturn w t o i d) := by
  intro _ w h; cases h

theorem RoundTrip.atomicResponse (idx : Nat) (old : W64) (fail : Option AtomFail) :
    RoundTrip.Statement (.atomicResponse idx old fail) := by
  intro _ w h; cases h

theorem RoundTrip.requestReturnExpiry (w t o i : Nat) : RoundTrip.Statement (.requestReturnExpiry w t o i) := by
  intro _ w h; cases h

theorem RoundTrip.longLatencyComplete (w t o : Nat) : RoundTrip.Statement (.longLatencyComplete w t o) := by
  intro _ w h; cases h

theorem RoundTrip.translationWalk (core tenant vpage : Nat) : RoundTrip.Statement (.translationWalk core tenant vpage) := by
  intro _ w h; cases h

theorem RoundTrip.pageRevival (tenant vpage : Nat) : RoundTrip.Statement (.pageRevival tenant vpage) := by
  intro _ w h; cases h

theorem RoundTrip.linePull (frame line : Nat) (d : List Byte) (tags : SectorTags) :
    RoundTrip.Statement (.linePull frame line d tags) := by
  intro _ w h; cases h

theorem RoundTrip.trapEntry (w t : Nat) : RoundTrip.Statement (.trapEntry w t) := by
  intro _ w h; cases h

theorem RoundTrip.splitReload (w t : Nat) : RoundTrip.Statement (.splitReload w t) := by
  intro _ w h; cases h

theorem RoundTrip.waitExpiry (w t p : Nat) : RoundTrip.Statement (.waitExpiry w t p) := by
  intro _ w h; cases h

theorem RoundTrip.clusterBarrierArrival (w b : Nat) : RoundTrip.Statement (.clusterBarrierArrival w b) := by
  intro _ w h; cases h

theorem RoundTrip.clusterBarrierBroadcast (w b : Nat) : RoundTrip.Statement (.clusterBarrierBroadcast w b) := by
  intro _ w h; cases h

theorem RoundTrip.barrierTimeout (w b : Nat) : RoundTrip.Statement (.barrierTimeout w b) := by
  intro _ w h; cases h

theorem RoundTrip.xshcTimeout (w t p : Nat) : RoundTrip.Statement (.xshcTimeout w t p) := by
  intro _ w h; cases h

theorem RoundTrip.streamerCommandStart (c : Nat) : RoundTrip.Statement (.streamerCommandStart c) := by
  intro _ w h; cases h

theorem RoundTrip.streamerWrite (c : Nat) (d : RemoteData) : RoundTrip.Statement (.streamerWrite c d) := by
  intro _ w h; cases h

theorem RoundTrip.streamerCommandComplete (c : Nat) : RoundTrip.Statement (.streamerCommandComplete c) := by
  intro _ w h; cases h

theorem RoundTrip.sequencerStart (q : Nat) (d : List Byte) (tags : SectorTags) :
    RoundTrip.Statement (.sequencerStart q d tags) := by
  intro _ w h; cases h

theorem RoundTrip.mstrChunkPass (q : Nat) : RoundTrip.Statement (.mstrChunkPass q) := by
  intro _ w h; cases h

theorem RoundTrip.sequencerComplete (q : Nat) : RoundTrip.Statement (.sequencerComplete q) := by
  intro _ w h; cases h

theorem RoundTrip.snapshotCommandStart (dom : Nat) : RoundTrip.Statement (.snapshotCommandStart dom) := by
  intro _ w h; cases h

theorem RoundTrip.svcAnswer (w t : Nat) : RoundTrip.Statement (.svcAnswer w t) := by
  intro _ w h; cases h

theorem RoundTrip.preemptRequest (w : Nat) : RoundTrip.Statement (.preemptRequest w) := by
  intro _ w h; cases h

theorem RoundTrip.coreHalt (w : Nat) : RoundTrip.Statement (.coreHalt w) := by
  intro _ w h; cases h

theorem RoundTrip.contextSave (w : Nat) : RoundTrip.Statement (.contextSave w) := by
  intro _ w h; cases h

theorem RoundTrip.contextResume (w core : Nat) : RoundTrip.Statement (.contextResume w core) := by
  intro _ w h; cases h

theorem RoundTrip.dispatchSelection : RoundTrip.Statement (.dispatchSelection) := by
  intro _ w h; cases h

theorem RoundTrip.timeSliceExpiry (w : Nat) : RoundTrip.Statement (.timeSliceExpiry w) := by
  intro _ w h; cases h

theorem RoundTrip.leaseResolve (slot : Nat) : RoundTrip.Statement (.leaseResolve slot) := by
  intro _ w h; cases h

theorem RoundTrip.taskRetire (slot : Nat) : RoundTrip.Statement (.taskRetire slot) := by
  intro _ w h; cases h

theorem RoundTrip.workgroupEnd (w : Nat) : RoundTrip.Statement (.workgroupEnd w) := by
  intro _ w h; cases h

theorem RoundTrip.completionRecordPost (x : PostTurn) : RoundTrip.Statement (.completionRecordPost x) := by
  intro _ w h; cases h

theorem RoundTrip.checkpointClose (slot : Nat) : RoundTrip.Statement (.checkpointClose slot) := by
  intro _ w h; cases h

theorem RoundTrip.comparatorRequest (w t : Nat) : RoundTrip.Statement (.comparatorRequest w t) := by
  intro _ w h; cases h

theorem RoundTrip.comparatorTimeout (w t : Nat) : RoundTrip.Statement (.comparatorTimeout w t) := by
  intro _ w h; cases h

theorem RoundTrip.auditReplay (slot wgid core : Nat) : RoundTrip.Statement (.auditReplay slot wgid core) := by
  intro _ w h; cases h

theorem RoundTrip.lehrExhaustion (slot : Nat) : RoundTrip.Statement (.lehrExhaustion slot) := by
  intro _ w h; cases h

theorem RoundTrip.timeSyncMessage (port : Nat) (offset : Int) : RoundTrip.Statement (.timeSyncMessage port offset) := by
  intro _ w h; cases h

theorem RoundTrip.gateControlListAdvance (port : Nat) : RoundTrip.Statement (.gateControlListAdvance port) := by
  intro _ w h; cases h

end Sys2Proof.Laws
end

