-- ==== Sys2Proof/Safety.lean ====
section
/-! DEFINITION. What counts as a safe run, and the terms in which claims speak of one issue: who issues, what the issue leaves
of the machine around it, and what it leaves of its own train. -/

namespace Sys2Proof.Machine

/-! ### Runs -/

/-- The invariant of the machine: main memory stands in its canonical form, so that equal memories are equal data. -/
def State.Inv (s : State) : Prop := Memory.wf s.mem = true

/-- An event of the agenda names a part of the chip (WellFormed.lean). Instruction words need a split and come from memory. -/
def Move.sound : Move → Prop
  | .event i => (encode i).isNone = true ∧ i.wf = true
  | .issue _ _ => True
  | .cut _ _ => True
  | .control _ => True
  | .upset _ _ => True
  | .gates _ _ => True

/-- A run of `n` steps is safe: no step stops, and the invariant holds at each. -/
def SafeRun : Nat → State → Prop
  | 0, s => s.Inv
  | n + 1, s => s.Inv ∧ ∃ t, step s = .next t ∧ SafeRun n t

/-! ### One issue -/

/-- The split that `State.cur` names issues `i`, and nothing stands before it: every instruction it must wait for has
completed (R265, R41), and it passes the checks of R276 and R239. -/
structure Issues (i : Instr) (s : State) (c : Ctx) : Prop where
  here : s.ctx? i = some c
  free : c.stop = .go

/-- A split but for why it waits. -/
def Split.calm (q : Split) : Split := { q with wait := .ready }

/-- A train but for why its splits wait. -/
def Train.calm (tr : Train) : Train := { tr with splits := tr.splits.map Split.calm }

/-- What an issue of one train leaves of the machine around it: every other train but for why its splits wait, and every
piece of state beside the trains, the lanes' issue counts and the clock. -/
structure Beside (c : Ctx) (s t : State) : Prop where
  rest : t = { s with trains := t.trains, cores := t.cores, clock := s.clock + c.cycles }
  cores : ∀ n, t.core n = { s.core n with lanes := (t.core n).lanes }
  others : ∀ key, key ≠ 64 * c.w + c.t → (t.trains.look key).map Train.calm = (s.trains.look key).map Train.calm

/-- The issuing train after an instruction that goes on at `pc`: its split has moved past the instruction and any prefix
(R24, R44, R268), the lookahead windows of the split's outstanding instructions have counted it (R265), and nothing else of
the train has changed but registers, which each claim names. -/
structure Passed (c : Ctx) (t : State) (pc : W64) (tr : Train) : Prop where
  now : t.train? c.w c.t = some tr
  split : ∃ n, tr.split? c.p = some { c.sp with
    pc := pc, dix := if c.tr.hmode then c.sp.dix else c.sp.dix + 1, pfx := none, done := 0, wait := .ready, part := none, rel := none, last := n }
  others : ∀ p, p ≠ c.p → (tr.split? p).map Split.calm = (c.tr.split? p).map Split.calm
  rest : ∃ new, tr = { c.tr with
    k := tr.k, v := tr.v, p := tr.p, splits := tr.splits, nextId := tr.nextId
    issues := c.tr.issues + 1, hcount := if c.tr.hmode then c.tr.hcount + 1 else c.tr.hcount
    outst := (c.tr.outst ++ new).map fun o =>
      if o.split = c.p ∧ o.id < c.tr.nextId then { o with window := o.window - 1 } else o }

/-- Register `d` of each acting thread takes `f` of it; every other `v` register of every thread keeps its value (R286). -/
def WritesV (c : Ctx) (tr : Train) (d : Nat) (f : Nat → W32) : Prop :=
  ∀ j r, j < 32 → r < 64 → tr.getV j r = if r = d ∧ c.active.getLsbD j = true then f j else c.tr.getV j r

/-- Predicate `p` of each acting thread takes `f` of it; every other bit of every predicate register keeps its value. -/
def WritesP (c : Ctx) (tr : Train) (p : Nat) (f : Nat → Bool) : Prop :=
  ∀ q j, q < 8 → j < 32 → tr.predOf q j =
    if q = p ∧ q ≠ 7 ∧ c.active.getLsbD j = true then f j else c.tr.predOf q j

/-- `k` register `d` takes `x`; every other `k` register keeps its value. -/
def WritesK (c : Ctx) (tr : Train) (d : Nat) (x : W64) : Prop :=
  ∀ r, tr.getK r = if r = d then x else c.tr.getK r

/-- The issuing train has one more outstanding instruction, all of whose results are known: `ws` is written when it
completes (R41). -/
def Later (c : Ctx) (tr : Train) (ws : List RegWrite) : Prop :=
  ∃ o, tr.outst = (c.tr.outst.map fun o =>
      if o.split = c.p ∧ o.id < c.tr.nextId then { o with window := o.window - 1 } else o) ++ [o] ∧
    o.id = c.tr.nextId ∧ o.split = c.p ∧ o.insn = c.insn ∧ o.pc = c.sp.pc ∧ o.window = (lookahead c.insn).getD 0 ∧
    o.writes = ws ∧ o.finished = true ∧ o.fault = none ∧ o.kept = false

/-! ### How one instruction ends -/

/-- No register changes, and no instruction of the train begins or completes. -/
def Same (c : Ctx) (tr : Train) : Prop :=
  tr.k = c.tr.k ∧ tr.v = c.tr.v ∧ tr.p = c.tr.p ∧ tr.outst.length = c.tr.outst.length

/-- An instruction without an effect of its own completes. -/
def Passes (i : Instr) (s : State) (c : Ctx) : Prop :=
  ∃ t tr, exec i s = .next t ∧ Beside c s t ∧ Passed c t c.next tr ∧ Same c tr

/-- A control transfer of the whole split completes: it goes on at `pc`, a checked pair is told (R227), and no register
changes. -/
def Moves (i : Instr) (s : State) (c : Ctx) (pc : W64) : Prop :=
  ∃ t tr, exec i s = .next (t.noteControl c [(pc, c.sp.exm)]) ∧ Beside c s t ∧ Passed c t pc tr ∧ Same c tr

/-- The issuing split is changed. -/
def State.updSp (s : State) (c : Ctx) (f : Split → Split) : State := s.updTrain c.w c.t fun tr => tr.updSplit c.p f

/-- An instruction completes with an effect `f` beside the passing of its split. -/
def After (i : Instr) (s : State) (c : Ctx) (f : State → State) : Prop :=
  ∃ t tr, exec i s = .next (f t) ∧ Beside c s t ∧ Passed c t c.next tr ∧ Same c tr

/-- A per-thread instruction completes: destination `d` of each acting thread takes `f`, and nothing else changes. -/
def ThreadResult (i : Instr) (s : State) (c : Ctx) (d : BitVec 6) (f : Nat → W32) : Prop :=
  ∃ t tr, exec i s = .next t ∧ Beside c s t ∧ Passed c t c.next tr ∧ tr.k = c.tr.k ∧ tr.p = c.tr.p ∧
    tr.outst.length = c.tr.outst.length ∧ WritesV c tr d.toNat f

/-- A per-thread instruction completes: predicate `p` of each acting thread takes `f`, and nothing else changes. -/
def PredResult (i : Instr) (s : State) (c : Ctx) (p : BitVec 3) (f : Nat → Bool) : Prop :=
  ∃ t tr, exec i s = .next t ∧ Beside c s t ∧ Passed c t c.next tr ∧ tr.k = c.tr.k ∧ tr.v = c.tr.v ∧
    tr.outst.length = c.tr.outst.length ∧ WritesP c tr p.toNat f

/-- A uniform instruction completes: `k` register `d` takes `x`, and nothing else changes. -/
def TrainResult (i : Instr) (s : State) (c : Ctx) (d : BitVec 6) (x : W64) : Prop :=
  ∃ t tr, exec i s = .next t ∧ Beside c s t ∧ Passed c t c.next tr ∧ tr.v = c.tr.v ∧ tr.p = c.tr.p ∧
    tr.outst.length = c.tr.outst.length ∧ WritesK c tr d.toNat x

/-- A long-latency per-thread instruction issues: the acting threads' results are known and wait for its completion, and
nothing else changes (R41). -/
def LongResult (i : Instr) (s : State) (c : Ctx) (d : BitVec 6) (f : Nat → W32) : Prop :=
  ∃ t tr, exec i s = .next t ∧ Beside c s t ∧ Passed c t c.next tr ∧ tr.k = c.tr.k ∧ tr.v = c.tr.v ∧ tr.p = c.tr.p ∧
    Later c tr ((maskThreads c.active).map fun j => .v j d.toNat (f j))

end Sys2Proof.Machine
end

