-- ==== Sys2Proof/Certificates/Slice0/Obligations.lean ====
section
/-! DEFINITION. The claims about the machine. Each docstring names the rules of spec/ it formalises. The first part of the
file, in Sys2Proof.Claims, holds what each rule says an instruction computes, in plain arithmetic. -/

namespace Sys2Proof.Claims

open Sys2Proof.Machine

/-! ### Words of `w` bits -/

/-- The upper half of an exact product of `2 × w` bits (R365). -/
def upperHalf (w : Nat) (x : Int) : BitVec w := (BitVec.ofInt (2 * w) x).extractLsb' w w

/-- The number of set bits (R371). -/
def ones {w : Nat} (a : BitVec w) : BitVec w := BitVec.ofNat w ((List.range w).filter fun i => a.getLsbD i).length

/-- The number of zero bits above the highest set bit, `w` for zero (R314). -/
def zerosAbove {w : Nat} (a : BitVec w) : BitVec w :=
  BitVec.ofNat w ((List.range w).takeWhile fun i => !a.getLsbD (w - 1 - i)).length

/-- The number of zero bits below the lowest set bit, `w` for zero (R323). -/
def zerosBelow {w : Nat} (a : BitVec w) : BitVec w :=
  BitVec.ofNat w ((List.range w).takeWhile fun i => !a.getLsbD i).length

/-- The smaller or the larger of two words, by signed or unsigned value (R360). -/
def pick {w : Nat} (larger signed : Bool) (a b : BitVec w) : BitVec w :=
  let below := if signed then decide (a.toInt < b.toInt) else decide (a.toNat < b.toNat)
  if below = larger then b else a

/-- A shift amount: `b` modulo the width (R51). -/
def amount {w : Nat} (b : BitVec w) : Nat := b.toNat % w

/-- SHL (R382). -/
def shiftLeft {w : Nat} (a b : BitVec w) : BitVec w := BitVec.ofNat w (a.toNat * 2 ^ amount b)

/-- SHR: zeros enter (R382). -/
def shiftRight {w : Nat} (a b : BitVec w) : BitVec w := BitVec.ofNat w (a.toNat / 2 ^ amount b)

/-- SRA: copies of the sign enter, so the value is the quotient rounded down (R382). -/
def shiftSigned {w : Nat} (a b : BitVec w) : BitVec w := BitVec.ofInt w (a.toInt / (2 ^ amount b : Nat))

/-- ROT: what leaves at the top enters at the bottom (R375). -/
def rotated {w : Nat} (a b : BitVec w) : BitVec w :=
  BitVec.ofNat w (a.toNat * 2 ^ amount b) ||| BitVec.ofNat w (a.toNat / 2 ^ (w - amount b))

/-- The position and the length of a bit field, from S2 (R302). -/
def fieldPos {w : Nat} (b : BitVec w) : Nat := b.toNat % 256
/-- The length, cut at the width; 0 for a position outside the word. -/
def fieldLen {w : Nat} (b : BitVec w) : Nat := min (b.toNat / 256 % 256) (w - fieldPos b)

/-- BFX.U (R302). -/
def extract {w : Nat} (a b : BitVec w) : BitVec w := BitVec.ofNat w (a.toNat / 2 ^ fieldPos b % 2 ^ fieldLen b)

/-- BFX.S: the field read as a two's-complement number (R302). -/
def extractSigned {w : Nat} (a b : BitVec w) : BitVec w :=
  let x := a.toNat / 2 ^ fieldPos b % 2 ^ fieldLen b
  if fieldLen b = 0 then 0
  else if x < 2 ^ (fieldLen b - 1) then BitVec.ofNat w x
  else BitVec.ofInt w ((x : Int) - (2 ^ fieldLen b : Nat))

/-- BFI: bits `pos` to `pos + l - 1` come from the low bits of S1, the others from D (R302). -/
def inserted (d a b : W32) : W32 :=
  let l := fieldLen b
  let pos := fieldPos b
  BitVec.ofNat 32 (d.toNat % 2 ^ pos + a.toNat % 2 ^ l * 2 ^ pos + d.toNat / 2 ^ (pos + l) * 2 ^ (pos + l))

/-- The quotient truncated toward zero, all ones for a divisor of zero (R326, R52). -/
def quotient (signed : Bool) (a b : W32) : W32 :=
  if b.toNat = 0 then BitVec.ofNat 32 0xFFFFFFFF
  else if signed then
    (if (decide (a.toInt < 0)) = decide (b.toInt < 0) then BitVec.ofNat 32 (a.toInt.natAbs / b.toInt.natAbs)
     else BitVec.ofInt 32 (-((a.toInt.natAbs / b.toInt.natAbs : Nat) : Int)))
  else BitVec.ofNat 32 (a.toNat / b.toNat)

/-- The remainder: the dividend less the product of quotient and divisor, the dividend for a divisor of zero (R52). -/
def remainder (signed : Bool) (a b : W32) : W32 :=
  if b.toNat = 0 then a else a - quotient signed a b * b

/-- The condition `cc` of CMP between two numbers (R315, R271): EQ, NE, LT, LE, GT, GE. -/
def holds (cc : Nat) (x y : Int) : Bool :=
  match cc with
  | 0 => decide (x = y)
  | 1 => decide (x ≠ y)
  | 2 => decide (x < y)
  | 3 => decide (x ≤ y)
  | 4 => decide (y < x)
  | _ => decide (y ≤ x)

/-- A word as the number that CMP compares: unsigned under .U. -/
def asNumber {w : Nat} (unsigned : Bool) (a : BitVec w) : Int := if unsigned then (a.toNat : Int) else a.toInt

/-- The three combines of a predicate write (R315). -/
def combined (m : Nat) (old c : Bool) : Bool := if m = 0 then c else if m = 1 then old && c else old || c

/-! ### Immediates (R266) -/

/-- The 24-bit payload of a pending IMMX. -/
def payload (c : Ctx) : Option Nat :=
  match c.sp.pfx with
  | some ⟨.immx p, _, _⟩ => some p.toNat
  | _ => none

/-- The number of `n` bits read as two's complement. -/
def signedBits (n x : Nat) : Int := if x < 2 ^ (n - 1) then (x : Int) else (x : Int) - (2 ^ n : Nat)

/-- The immediate of majors 0x10 to 0x13. -/
def imm11 (c : Ctx) (i : BitVec 11) : W32 :=
  match payload c with
  | some p => BitVec.ofNat 32 (p * 2 ^ 11 + i.toNat)
  | none => BitVec.ofInt 32 (signedBits 11 i.toNat)

/-- The immediate of major 0x1A. -/
def immTrain (c : Ctx) (i : BitVec 11) : W64 :=
  match payload c with
  | some p => BitVec.ofInt 64 (signedBits 35 (p * 2 ^ 11 + i.toNat))
  | none => BitVec.ofInt 64 (signedBits 11 i.toNat)

/-- The immediate of major 0x15. -/
def imm7 (c : Ctx) (i : BitVec 7) : W32 :=
  match payload c with
  | some p => BitVec.ofInt 32 (signedBits 31 (p * 2 ^ 7 + i.toNat))
  | none => BitVec.ofInt 32 (signedBits 7 i.toNat)

/-- The value of MOVI: without IMMX the immediate is not extended by its sign. -/
def imm16 (c : Ctx) (i : BitVec 16) : W32 :=
  match payload c with
  | some p => BitVec.ofNat 32 (p % 65536 * 65536 + i.toNat)
  | none => BitVec.ofNat 32 i.toNat

/-! ### What an instruction may raise as it issues -/

/-- The issue checks of an instruction raise nothing but ILLEGAL and BUDGET. -/
def OnlyDecodeFaults (c : Ctx) : Prop := ∀ cause, c.stop = .trap cause → cause = .illegal ∨ cause = .budget

/-- A per-thread instruction: what it may raise, and its result where it issues. -/
def PerThread (i : Instr) (d : BitVec 6) (f : Ctx → Nat → W32) : Prop :=
  ∀ s c, (s.ctx? i = some c → OnlyDecodeFaults c) ∧ (Issues i s c → ThreadResult i s c d (f c))

/-- A per-thread instruction that writes a predicate. -/
def PerThreadPred (i : Instr) (p : BitVec 3) (f : Ctx → Nat → Bool) : Prop :=
  ∀ s c, (s.ctx? i = some c → OnlyDecodeFaults c) ∧ (Issues i s c → PredResult i s c p (f c))

/-- A per-thread instruction that writes a register and p6 (R289): what it may raise, and its result where it issues. -/
def PerThreadCarry (i : Instr) (d : BitVec 6) (f : Ctx → Nat → W32 × Bool) : Prop :=
  ∀ s c, (s.ctx? i = some c → OnlyDecodeFaults c) ∧ (Issues i s c →
    ∃ t tr, exec i s = .next t ∧ Beside c s t ∧ Passed c t c.next tr ∧ tr.k = c.tr.k ∧
      tr.outst.length = c.tr.outst.length ∧ WritesV c tr d.toNat (fun j => (f c j).1) ∧ WritesP c tr 6 fun j => (f c j).2)

/-- A uniform instruction. -/
def Uniform (i : Instr) (d : BitVec 6) (x : Ctx → W64) : Prop :=
  ∀ s c, (s.ctx? i = some c → OnlyDecodeFaults c) ∧ (Issues i s c → TrainResult i s c d (x c))

/-- A long-latency per-thread instruction. -/
def LongThread (i : Instr) (d : BitVec 6) (f : Ctx → Nat → W32) : Prop :=
  ∀ s c, (s.ctx? i = some c → OnlyDecodeFaults c) ∧ (Issues i s c → LongResult i s c d (f c))

/-! ### Tables: what each instruction writes -/

/-- A per-thread instruction's destination and result. -/
abbrev ThreadRow := BitVec 6 × (Ctx → Nat → W32)

/-- A uniform instruction's destination and result. -/
abbrev TrainRow := BitVec 6 × (Ctx → W64)

/-- Sums and differences (R288, R386, R366 NEG). -/
def sumThread : Instr → Option ThreadRow
  | .add d a b _ => some (d, fun c j => BitVec.ofNat 32 ((c.v a j).toNat + (c.v b j).toNat))
  | .addImm d a i _ => some (d, fun c j => BitVec.ofNat 32 ((c.v a j).toNat + (imm11 c i).toNat))
  | .sub d a b _ => some (d, fun c j => BitVec.ofInt 32 ((c.v a j).toInt - (c.v b j).toInt))
  | .neg d a _ => some (d, fun c j => BitVec.ofInt 32 (-(c.v a j).toInt))
  | _ => none

/-- The same of the train. -/
def sumTrain : Instr → Option TrainRow
  | .addK d a b => some (d, fun c => BitVec.ofNat 64 ((c.k a).toNat + (c.k b).toNat))
  | .addKImm d a i => some (d, fun c => BitVec.ofNat 64 ((c.k a).toNat + (immTrain c i).toNat))
  | .subK d a b => some (d, fun c => BitVec.ofInt 64 ((c.k a).toInt - (c.k b).toInt))
  | .negK d a => some (d, fun c => BitVec.ofInt 64 (-(c.k a).toInt))
  | _ => none

/-- Products (R365), MAD (R358), LEA (R355), ABS (R287). -/
def productThread : Instr → Option ThreadRow
  | .mul d a b _ => some (d, fun c j => BitVec.ofNat 32 ((c.v a j).toNat * (c.v b j).toNat))
  | .mulhS d a b _ => some (d, fun c j => upperHalf 32 ((c.v a j).toInt * (c.v b j).toInt))
  | .mulhU d a b _ => some (d, fun c j => upperHalf 32 ((c.v a j).toNat * (c.v b j).toNat : Nat))
  | .mad d a b _ => some (d, fun c j => BitVec.ofNat 32 ((c.v a j).toNat * (c.v b j).toNat + (c.v d j).toNat))
  | .lea0 d a b _ => some (d, fun c j => BitVec.ofNat 32 ((c.v a j).toNat + (c.v b j).toNat * 1))
  | .lea1 d a b _ => some (d, fun c j => BitVec.ofNat 32 ((c.v a j).toNat + (c.v b j).toNat * 2))
  | .lea2 d a b _ => some (d, fun c j => BitVec.ofNat 32 ((c.v a j).toNat + (c.v b j).toNat * 4))
  | .lea3 d a b _ => some (d, fun c j => BitVec.ofNat 32 ((c.v a j).toNat + (c.v b j).toNat * 8))
  | .abs d a _ => some (d, fun c j => BitVec.ofNat 32 (c.v a j).toInt.natAbs)
  | _ => none

/-- The same of the train. -/
def productTrain : Instr → Option TrainRow
  | .mulK d a b => some (d, fun c => BitVec.ofNat 64 ((c.k a).toNat * (c.k b).toNat))
  | .mulhSK d a b => some (d, fun c => upperHalf 64 ((c.k a).toInt * (c.k b).toInt))
  | .mulhUK d a b => some (d, fun c => upperHalf 64 ((c.k a).toNat * (c.k b).toNat : Nat))
  | .absK d a => some (d, fun c => BitVec.ofNat 64 (c.k a).toInt.natAbs)
  | _ => none

/-- MIN and MAX (R360), bit counts and reversal (R371, R314, R323, R306). -/
def orderThread : Instr → Option ThreadRow
  | .minS d a b _ => some (d, fun c j => pick false true (c.v a j) (c.v b j))
  | .minU d a b _ => some (d, fun c j => pick false false (c.v a j) (c.v b j))
  | .maxS d a b _ => some (d, fun c j => pick true true (c.v a j) (c.v b j))
  | .maxU d a b _ => some (d, fun c j => pick true false (c.v a j) (c.v b j))
  | .popc d a _ => some (d, fun c j => ones (c.v a j))
  | .clz d a _ => some (d, fun c j => zerosAbove (c.v a j))
  | .ctz d a _ => some (d, fun c j => zerosBelow (c.v a j))
  | .brev d a _ => some (d, fun c j => (c.v a j).reverse)
  | _ => none

/-- The same of the train. -/
def orderTrain : Instr → Option TrainRow
  | .minSK d a b => some (d, fun c => pick false true (c.k a) (c.k b))
  | .minUK d a b => some (d, fun c => pick false false (c.k a) (c.k b))
  | .maxSK d a b => some (d, fun c => pick true true (c.k a) (c.k b))
  | .maxUK d a b => some (d, fun c => pick true false (c.k a) (c.k b))
  | .popcK d a => some (d, fun c => ones (c.k a))
  | .clzK d a => some (d, fun c => zerosAbove (c.k a))
  | .ctzK d a => some (d, fun c => zerosBelow (c.k a))
  | .brevK d a => some (d, fun c => (c.k a).reverse)
  | _ => none

/-- A word from its bits. -/
def ofBits (w : Nat) (f : Nat → Bool) : BitVec w := BitVec.ofNat w (bitsOf f w)

/-- Logic, bit by bit (R290, R366 NOT, R368, R401). -/
def logicThread : Instr → Option ThreadRow
  | .and d a b _ => some (d, fun c j => ofBits 32 fun n => (c.v a j).getLsbD n && (c.v b j).getLsbD n)
  | .andn d a b _ => some (d, fun c j => ofBits 32 fun n => (c.v a j).getLsbD n && !(c.v b j).getLsbD n)
  | .or d a b _ => some (d, fun c j => ofBits 32 fun n => (c.v a j).getLsbD n || (c.v b j).getLsbD n)
  | .xor d a b _ => some (d, fun c j => ofBits 32 fun n => (c.v a j).getLsbD n != (c.v b j).getLsbD n)
  | .not d a _ => some (d, fun c j => ofBits 32 fun n => !(c.v a j).getLsbD n)
  | .andImm d a i _ => some (d, fun c j => ofBits 32 fun n => (c.v a j).getLsbD n && (imm11 c i).getLsbD n)
  | .orImm d a i _ => some (d, fun c j => ofBits 32 fun n => (c.v a j).getLsbD n || (imm11 c i).getLsbD n)
  | .xorImm d a i _ => some (d, fun c j => ofBits 32 fun n => (c.v a j).getLsbD n != (imm11 c i).getLsbD n)
  | _ => none

/-- The same of the train. -/
def logicTrain : Instr → Option TrainRow
  | .andK d a b => some (d, fun c => ofBits 64 fun n => (c.k a).getLsbD n && (c.k b).getLsbD n)
  | .andnK d a b => some (d, fun c => ofBits 64 fun n => (c.k a).getLsbD n && !(c.k b).getLsbD n)
  | .orK d a b => some (d, fun c => ofBits 64 fun n => (c.k a).getLsbD n || (c.k b).getLsbD n)
  | .xorK d a b => some (d, fun c => ofBits 64 fun n => (c.k a).getLsbD n != (c.k b).getLsbD n)
  | .notK d a => some (d, fun c => ofBits 64 fun n => !(c.k a).getLsbD n)
  | _ => none

/-- Shifts (R382), ROT (R375), bit fields (R302). -/
def shiftThread : Instr → Option ThreadRow
  | .shl d a b _ => some (d, fun c j => shiftLeft (c.v a j) (c.v b j))
  | .shr d a b _ => some (d, fun c j => shiftRight (c.v a j) (c.v b j))
  | .sra d a b _ => some (d, fun c j => shiftSigned (c.v a j) (c.v b j))
  | .rot d a b _ => some (d, fun c j => rotated (c.v a j) (c.v b j))
  | .shlImm d a n _ => some (d, fun c j => shiftLeft (c.v a j) (BitVec.ofNat 32 n.toNat))
  | .shrImm d a n _ => some (d, fun c j => shiftRight (c.v a j) (BitVec.ofNat 32 n.toNat))
  | .sraImm d a n _ => some (d, fun c j => shiftSigned (c.v a j) (BitVec.ofNat 32 n.toNat))
  | .rotImm d a n _ => some (d, fun c j => rotated (c.v a j) (BitVec.ofNat 32 n.toNat))
  | .bfxU d a b _ => some (d, fun c j => extract (c.v a j) (c.v b j))
  | .bfxS d a b _ => some (d, fun c j => extractSigned (c.v a j) (c.v b j))
  | .bfi d a b _ => some (d, fun c j => inserted (c.v d j) (c.v a j) (c.v b j))
  | _ => none

/-- The same of the train. -/
def shiftTrain : Instr → Option TrainRow
  | .shlK d a b => some (d, fun c => shiftLeft (c.k a) (c.k b))
  | .shrK d a b => some (d, fun c => shiftRight (c.k a) (c.k b))
  | .sraK d a b => some (d, fun c => shiftSigned (c.k a) (c.k b))
  | .rotK d a b => some (d, fun c => rotated (c.k a) (c.k b))
  | .bfxUK d a b => some (d, fun c => extract (c.k a) (c.k b))
  | .bfxSK d a b => some (d, fun c => extractSigned (c.k a) (c.k b))
  | _ => none

/-- Moves (R361), immediates (R362), SEL (R381). -/
def moveThread : Instr → Option ThreadRow
  | .mov d a _ => some (d, fun c j => c.v a j)
  | .movVK d a _ => some (d, fun c _ => BitVec.ofNat 32 (c.k a).toNat)
  | .movi d i _ => some (d, fun c _ => imm16 c i)
  | .moviHi d i _ => some (d, fun c j => BitVec.ofNat 32 (i.toNat * 65536 + (c.v d j).toNat % 65536))
  | .sel d a b p _ => some (d, fun c j => if p = 7#3 ∨ c.tr.predOf p.toNat j = true then c.v a j else c.v b j)
  | _ => none

/-- Sixteen bits of a 64-bit word replaced: quarter `q` (R362). -/
def withQuarter (x : W64) (q : Nat) (i : BitVec 16) : W64 :=
  ofBits 64 fun n => if n / 16 = q then i.getLsbD (n % 16) else x.getLsbD n

/-- The same of the train. -/
def moveTrain : Instr → Option TrainRow
  | .movK d a => some (d, fun c => c.k a)
  | .moviK d i q => some (d, fun c => withQuarter (c.k d) q.toNat i)
  | .cmpK d a b u k => some (d, fun c => if holds k.toNat (asNumber (u == 1) (c.k a)) (asNumber (u == 1) (c.k b)) then 1 else 0)
  | _ => none

/-- CMP of threads (R315). -/
def compareThread : Instr → Option (BitVec 3 × (Ctx → Nat → Bool))
  | .cmp p m a b u k _ => some (p, fun c j => combined m.toNat (c.tr.predOf p.toNat j)
      (holds k.toNat (asNumber (u == 1) (c.v a j)) (asNumber (u == 1) (c.v b j))))
  | .cmpImm p m a k u i _ => some (p, fun c j => combined m.toNat (c.tr.predOf p.toNat j)
      (holds k.toNat (asNumber (u == 1) (c.v a j)) (asNumber (u == 1) (imm7 c i))))
  | _ => none

/-- Division (R326). -/
def divisionThread : Instr → Option ThreadRow
  | .divU d a b _ _ => some (d, fun c j => quotient false (c.v a j) (c.v b j))
  | .remU d a b _ _ => some (d, fun c j => remainder false (c.v a j) (c.v b j))
  | .divS d a b _ _ => some (d, fun c j => quotient true (c.v a j) (c.v b j))
  | .remS d a b _ _ => some (d, fun c j => remainder true (c.v a j) (c.v b j))
  | _ => none

/-! ### Floating point -/

/-- The rounding of element `e` of thread `j`'s result: the mode and saturate bit of a HINT.ARI, else those given, and the
random bits of SRBITS (R59, R63). -/
def roundingOf (c : Ctx) (mode : Nat) (sat : Bool) (j e : Nat) : Fp.Rnd :=
  match c.sp.pfx with
  | some ⟨.ari b m, _, _⟩ => Fp.Rnd.at (Fp.Mode.ofCode m) b c.task.rcd.seed.toNat c.sp.dix.toNat j e
  | _ => Fp.Rnd.at (Fp.Mode.ofCode mode) sat c.task.rcd.seed.toNat c.sp.dix.toNat j e

/-- The elements of a register under a type code: one F32, or two of 16 bits, the first in bits [15:0] (R333, R48). -/
def elements (t : BitVec 2) (g : Fp.Fmt → Nat → (W32 → Nat) → Nat) : W32 :=
  if t = 0#2 then BitVec.ofNat 32 (g .f32 0 fun x => x.toNat)
  else
    let f : Fp.Fmt := if t = 1#2 then .f16 else .bf16
    BitVec.ofNat 32 (g f 0 (fun x => x.toNat % 65536) + g f 1 (fun x => x.toNat / 65536) * 65536)

/-- The exact value of a pattern with its sign inverted. -/
def minus : Fp.Val → Fp.Val
  | .nan => .nan
  | .inf n => .inf !n
  | .fin n m e => .fin (!n) m e

/-- Arithmetic of one rounding (R333, R338): the exact sum or product is formed, then rounded. -/
def floatThread : Instr → Option ThreadRow
  | .fadd d a b t _ => some (d, fun c j => elements t fun f e x =>
      let r := roundingOf c 0 false j e
      Fp.round f (Fp.add (r.mode == .rd) (Fp.decode f (x (c.v a j))) (Fp.decode f (x (c.v b j)))) r)
  | .fsub d a b t _ => some (d, fun c j => elements t fun f e x =>
      let r := roundingOf c 0 false j e
      Fp.round f (Fp.add (r.mode == .rd) (Fp.decode f (x (c.v a j))) (minus (Fp.decode f (x (c.v b j))))) r)
  | .fmul d a b t _ => some (d, fun c j => elements t fun f e x =>
      Fp.round f (Fp.mul (Fp.decode f (x (c.v a j))) (Fp.decode f (x (c.v b j)))) (roundingOf c 0 false j e))
  | .fmin d a b t _ => some (d, fun c j => elements t fun f _ x => Fp.minMax f false (x (c.v a j)) (x (c.v b j)))
  | .fmax d a b t _ => some (d, fun c j => elements t fun f _ x => Fp.minMax f true (x (c.v a j)) (x (c.v b j)))
  | .frnd d a t _ => some (d, fun c j => elements t fun f e x =>
      Fp.toIntegral f (Fp.decode f (x (c.v a j))) (roundingOf c 0 false j e))
  | .ffma d a b t _ => some (d, fun c j => elements t fun f e x =>
      let r := roundingOf c 0 false j e
      Fp.round f (Fp.add (r.mode == .rd) (Fp.mul (Fp.decode f (x (c.v a j))) (Fp.decode f (x (c.v b j))))
        (Fp.decode f (x (c.v d j)))) r)
  | .ffmaSub d a b t _ => some (d, fun c j => elements t fun f e x =>
      let r := roundingOf c 0 false j e
      Fp.round f (Fp.add (r.mode == .rd) (Fp.mul (Fp.decode f (x (c.v a j))) (Fp.decode f (x (c.v b j))))
        (minus (Fp.decode f (x (c.v d j))))) r)
  | .ffmaNeg d a b t _ => some (d, fun c j => elements t fun f e x =>
      let r := roundingOf c 0 false j e
      Fp.round f (Fp.add (r.mode == .rd) (minus (Fp.mul (Fp.decode f (x (c.v a j))) (Fp.decode f (x (c.v b j)))))
        (Fp.decode f (x (c.v d j)))) r)
  | _ => none

/-- Conversions: PACK (R369), UNPK (R397), CVT (R324). -/
def convertThread : Instr → Option ThreadRow
  | .packBf16 d a b _ => some (d, fun c j => BitVec.ofNat 32
      (Fp.round .bf16 (Fp.decode .f32 (c.v a j).toNat) (roundingOf c 0 false j 0) +
        Fp.round .bf16 (Fp.decode .f32 (c.v b j).toNat) (roundingOf c 0 false j 1) * 65536))
  | .packF16 d a b _ => some (d, fun c j => BitVec.ofNat 32
      (Fp.round .f16 (Fp.decode .f32 (c.v a j).toNat) (roundingOf c 0 false j 0) +
        Fp.round .f16 (Fp.decode .f32 (c.v b j).toNat) (roundingOf c 0 false j 1) * 65536))
  | .unpkBf16Lo d a _ => some (d, fun c j =>
      BitVec.ofNat 32 (Fp.round .f32 (Fp.decode .bf16 ((c.v a j).toNat % 65536)) .rne))
  | .unpkBf16Hi d a _ => some (d, fun c j =>
      BitVec.ofNat 32 (Fp.round .f32 (Fp.decode .bf16 ((c.v a j).toNat / 65536)) .rne))
  | .unpkF16Lo d a _ => some (d, fun c j =>
      BitVec.ofNat 32 (Fp.round .f32 (Fp.decode .f16 ((c.v a j).toNat % 65536)) .rne))
  | .unpkF16Hi d a _ => some (d, fun c j =>
      BitVec.ofNat 32 (Fp.round .f32 (Fp.decode .f16 ((c.v a j).toNat / 65536)) .rne))
  | .cvt d a f t r _ =>
    match Fp.Fmt.ofCode f.toNat, Fp.Fmt.ofCode t.toNat with
    | some f, some t => some (d, fun c j =>
        let x := (c.v a j).toNat % 2 ^ f.width
        BitVec.ofNat 32 (Fp.fill t (if f = t ∧ Fp.decode f x ≠ .nan then x
          else Fp.round t (Fp.decode f x) (roundingOf c r.toNat false j 0))))
    | _, _ => none
  | _ => none

/-- FCMP's condition (R334): NaN makes NE and UN true and every other condition false. -/
def floatHolds (cc : Nat) (o : Option Ordering) : Bool :=
  match o with
  | none => cc == 1 || cc == 6
  | some .eq => cc == 0 || cc == 3 || cc == 5
  | some .lt => cc == 1 || cc == 2 || cc == 3
  | some .gt => cc == 1 || cc == 4 || cc == 5

/-- FCMP. -/
def compareFloat : Instr → Option (BitVec 3 × (Ctx → Nat → Bool))
  | .fcmp p m a b t k _ => some (p, fun c j =>
      let f : Fp.Fmt := if t = 1#2 then .f16 else if t = 2#2 then .bf16 else .f32
      combined m.toNat (c.tr.predOf p.toNat j) (floatHolds k.toNat
        (Fp.cmp (Fp.decode f ((c.v a j).toNat % 2 ^ f.width)) (Fp.decode f ((c.v b j).toNat % 2 ^ f.width)))))
  | _ => none

/-- The functions of R335 and R336. -/
def functionThread : Instr → Option ThreadRow
  | .fdiv d a b _ _ => some (d, fun c j => BitVec.ofNat 32 (Fp.div .f32 (Fp.decode .f32 (c.v a j).toNat)
      (Fp.decode .f32 (c.v b j).toNat) (roundingOf c 0 false j 0)))
  | .fsqrt d a _ _ => some (d, fun c j =>
      BitVec.ofNat 32 (Fp.sqrt .f32 (Fp.decode .f32 (c.v a j).toNat) (roundingOf c 0 false j 0)))
  | .frcp d a _ _ => some (d, fun c j => BitVec.ofNat 32 (Fp.rcp .f32 (Fp.decode .f32 (c.v a j).toNat)))
  | .frsq d a _ _ => some (d, fun c j => BitVec.ofNat 32 (Fp.rsq .f32 (Fp.decode .f32 (c.v a j).toNat)))
  | .fsinp d a _ _ => some (d, fun c j => BitVec.ofNat 32 (Fp.fsinp (Fp.decode .f32 (c.v a j).toNat)))
  | .fcosp d a _ _ => some (d, fun c j => BitVec.ofNat 32 (Fp.fcosp (Fp.decode .f32 (c.v a j).toNat)))
  | .fex2 d a _ _ => some (d, fun c j => BitVec.ofNat 32 (Fp.fex2 (Fp.decode .f32 (c.v a j).toNat)))
  | .flg2 d a _ _ => some (d, fun c j => BitVec.ofNat 32 (Fp.flg2 (Fp.decode .f32 (c.v a j).toNat)))
  | _ => none

/-! ### Exchange through time -/

/-- What a thread gives: its register, or 0 if it was never launched (R399). -/
def given (c : Ctx) (src : BitVec 6) (j : Nat) : W32 := if c.tr.launched.getLsbD j then c.tr.getV j src.toNat else 0

/-- The last combination of a list of words. -/
def combineAll (f : W32 → W32 → W32) : List W32 → W32
  | [] => 0
  | x :: xs => xs.foldl f x

/-- The combination over every participating thread (R402). -/
def reduced (f : W32 → W32 → W32) (c : Ctx) (src : BitVec 6) : W32 :=
  combineAll f ((maskThreads c.active).map (given c src))

/-- The combination over the participating threads up to `j` (R402). -/
def scanned (f : W32 → W32 → W32) (c : Ctx) (src : BitVec 6) (j : Nat) : W32 :=
  combineAll f (((maskThreads c.active).filter fun i => decide (i ≤ j)).map (given c src))

/-- F32 addition to nearest even, whatever the slot (R402). -/
def plusF32 (a b : W32) : W32 :=
  BitVec.ofNat 32 (Fp.round .f32 (Fp.add false (Fp.decode .f32 a.toNat) (Fp.decode .f32 b.toNat)) .rne)

/-- F32 minimum or maximum (R402, R72). -/
def pickF32 (larger : Bool) (a b : W32) : W32 := BitVec.ofNat 32 (Fp.minMax .f32 larger a.toNat b.toNat)

/-- XCH, XBC, XRED, XSCN, VOTE.BALLOT (R398, R400, R402). -/
def exchangeThread : Instr → Option ThreadRow
  | .xchUp d src k _ => some (d, fun c j =>
      let n := (c.k5 k).toNat % 32
      given c src (if n ≤ j then j - n else j))
  | .xchDn d src k _ => some (d, fun c j =>
      let n := (c.k5 k).toNat % 32
      given c src (if j + n < 32 then j + n else j))
  | .xchXor d src k _ => some (d, fun c j => given c src (j ^^^ (c.k5 k).toNat % 32))
  | .xchIdx d src _ => some (d, fun c j => given c src ((c.v d j).toNat % 32))
  | .xbc d src k _ => some (d, fun c _ => given c src ((c.k5 k).toNat % 32))
  | .xredAddI32 d src _ => some (d, fun c _ => reduced (fun a b => BitVec.ofNat 32 (a.toNat + b.toNat)) c src)
  | .xredAddF32 d src _ => some (d, fun c _ => reduced plusF32 c src)
  | .xredMinS d src _ => some (d, fun c _ => reduced (pick false true) c src)
  | .xredMaxS d src _ => some (d, fun c _ => reduced (pick true true) c src)
  | .xredMinF32 d src _ => some (d, fun c _ => reduced (pickF32 false) c src)
  | .xredMaxF32 d src _ => some (d, fun c _ => reduced (pickF32 true) c src)
  | .xscnAddI32 d src _ => some (d, fun c j => scanned (fun a b => BitVec.ofNat 32 (a.toNat + b.toNat)) c src j)
  | .xscnAddF32 d src _ => some (d, fun c j => scanned plusF32 c src j)
  | .xscnMinS d src _ => some (d, fun c j => scanned (pick false true) c src j)
  | .xscnMaxS d src _ => some (d, fun c j => scanned (pick true true) c src j)
  | .xscnMinF32 d src _ => some (d, fun c j => scanned (pickF32 false) c src j)
  | .xscnMaxF32 d src _ => some (d, fun c j => scanned (pickF32 true) c src j)
  | .voteBallot d p _ => some (d, fun c _ => ofBits 32 fun j => c.active.getLsbD j && c.tr.predOf p.toNat j)
  | _ => none

/-- VOTE.ANY and VOTE.ALL (R398): of the participating threads. -/
def votePred : Instr → Option (BitVec 3 × (Ctx → Nat → Bool))
  | .voteAny q p _ => some (q, fun c _ => (maskThreads c.active).any fun j => c.tr.predOf p.toNat j)
  | .voteAll q p _ => some (q, fun c _ => (maskThreads c.active).all fun j => c.tr.predOf p.toNat j)
  | _ => none

/-! ### Control transfers and CSRs -/

/-- PC + 4 × OFF modulo 2^48, with OFF of `n` bits read as two's complement (R304). -/
def reached (c : Ctx) (n o : Nat) : W64 := BitVec.ofInt 64 (((c.sp.pc.toNat : Int) + 4 * signedBits n o) % 2 ^ 48)

/-- PC[47:32] before the thread's register (R38). -/
def entered (c : Ctx) (r : BitVec 6) (j : Nat) : W64 :=
  BitVec.ofNat 64 (c.sp.pc.toNat / 2 ^ 32 * 2 ^ 32 + (c.tr.getV j r.toNat).toNat)

/-- A train after a division of split `p` (R24): the fall-through part keeps its row, the taken part is a new split, and both
read what the split has buffered (R134). -/
def divided (tr : Train) (p : Nat) (target : W64) (taken fall : Mask) : Train :=
  match tr.split? p with
  | some q => { tr with
      splits := (tr.splits.map fun x => if x.id = p then { x with member := q.member &&& ~~~taken, exm := fall } else x) ++
        [⟨tr.nextId, target, q.rpc, taken, taken, q.dix, false, none, 0, q.last, .ready, none, 0, none, none⟩]
      sb := tr.sb.map fun e => if e.owners.contains p then { e with owners := e.owners ++ [tr.nextId] } else e
      nextId := tr.nextId + 1 }
  | none => tr

/-- The 32 bytes of a spilled entry (R31): PC, RPC, the member and execute masks, DIX and the parked bit, the first byte lowest. -/
def entryBytes (q : Split) : List Byte :=
  let n := q.pc.toNat + q.rpc.toNat * 2 ^ 64 + q.member.toNat * 2 ^ 128 + q.exm.toNat * 2 ^ 160 + q.dix.toNat * 2 ^ 192 +
    (if q.parked then 2 ^ 224 else 0)
  (List.range 32).map fun i => BitVec.ofNat 8 (n / 256 ^ i)

/-- No split of a train is in the spill area, and split ids lie below the next one. -/
def Unspilled (tr : Train) : Prop := ∀ q ∈ tr.splits, q.spilled = none ∧ q.id < tr.nextId

/-- What waits for the next word after a prefix (R266, R348, R349). -/
def prefixKind : Instr → Option PrefixKind
  | .immx p => some (.immx p)
  | .hintMem a o sc => some (.mem a.toNat o.toNat sc.toNat)
  | .hintAri t r => some (.ari (t == 1) r.toNat)
  | _ => none

/-- The value of each uniform CSR (R45, R320). -/
def csrTable : Nat → Option (State → Ctx → W64)
  | 0x002 => some fun _ c => BitVec.ofNat 64 c.tr.trn
  | 0x003 => some fun _ c => BitVec.ofNat 64 c.g.wgid
  | 0x004 => some fun _ c => BitVec.ofNat 64 c.g.lpid
  | 0x005 => some fun _ c => BitVec.ofNat 64 ((c.task.rcd.wgthr + 31) / 32)
  | 0x010 => some fun _ c => BitVec.ofNat 64 c.sp.exm.toNat
  | 0x011 => some fun _ c => BitVec.ofNat 64 c.sp.dix.toNat
  | 0x012 => some fun _ c => c.task.rcd.seed
  | 0x020 => some fun s c => BitVec.ofNat 64 ((s.core c.core).owner.toNat + if (s.core c.core).valid then 65536 else 0)
  | 0x021 => some fun s c => ofBits 64 fun n => (s.core c.core).live.getLsbD n
  | 0x022 => some fun s c => ofBits 64 fun n => (s.core c.core).live.getLsbD (64 + n)
  | 0x023 => some fun s c => ofBits 64 fun n => (s.core c.core).live.getLsbD (128 + n)
  | 0x024 => some fun s c => ofBits 64 fun n => (s.core c.core).live.getLsbD (192 + n)
  | 0x030 => some fun _ c => BitVec.ofNat 64 c.g.ctxgen.toNat
  | 0x031 => some fun s c => s.ustValue c.w c.t
  | 0x040 => some fun _ c => BitVec.ofNat 64 ((if c.tr.demoted then 1 else 0) + (if c.tr.hmode then 2 else 0) +
      c.task.rcd.integ * 4 + if c.task.rcd.det || c.task.rcd.integ == 2 then 16 else 0)
  | 0x100 => some fun _ c => c.tr.tvec
  | 0x101 => some fun _ c => c.g.frameVa c.task c.tr.trn
  | 0x102 => some fun _ c => BitVec.ofNat 64 c.tr.tcause.toNat
  | 0x110 => some fun _ c => BitVec.ofNat 64 c.g.wdg.toNat
  | 0x120 => some fun _ c => BitVec.ofNat 64 c.tr.privb.toNat
  | _ => none

/-! ### Traps -/

/-- Where an instruction stands: its prefix, if it has one (R242). -/
def placeOf (c : Ctx) : W64 :=
  match c.sp.pfx with
  | some x => x.pc
  | none => c.sp.pc

/-- The word of a pending prefix, 0 without one. -/
def prefixWord (c : Ctx) : W32 :=
  match c.sp.pfx with
  | some x => x.word
  | none => 0

/-- What a frame reports of an instruction none of whose threads has stepped (R242). -/
def recordAt (c : Ctx) (cause : Cause) (uni skip : Bool) : FaultRec where
  cause := cause
  j := 0
  uni := uni
  ct := false
  addr := 0
  pc := placeOf c
  pfx := c.sp.pfx.isSome
  insn := c.word
  pword := prefixWord c
  dix := c.sp.dix
  done := 0
  exm := c.sp.exm
  rpc := c.next
  skip := skip

/-- A train in program mode with nothing outstanding, a handler, and a frame slot at `pa` of this chip that is mapped and at hand
(R240, R241), and no write of the train that the frame would pass (R15, R134); no checked pair's. -/
structure MayTrap (s : State) (c : Ctx) (pa b : Nat) : Prop where
  program : c.tr.hmode = false
  alone : c.tr.outst = []
  vec : c.tr.tvec ≠ 0
  mark : s.budgetAt c.core c.task true c.tr.tvec = .ok b
  fits : b ≤ c.task.rcd.budget
  tables : s.walkPull c.core c.task.rcd.tenant (c.g.frameVa c.task c.tr.trn).toNat = none
  frame : ∃ uc, s.translate c.core c.task true (c.g.frameVa c.task c.tr.trn).toNat .store = .ok pa false uc
  here : s.isLocal pa = true
  pulled : s.pullPending pa = false ∧ s.pullLost pa = false
  behind : s.frameBehind c.tr pa = false
  leads : c.g.mode = .primary
  level : c.task.rcd.integ ≠ 3

/-- One bit of a frame's first word. -/
def flagAt (b : Bool) (n : Nat) : Nat := if b then 2 ^ n else 0

/-- The sixteen words of a frame (R242). -/
def frameWords (r : FaultRec) (tr : Train) : List Nat :=
  [r.cause.code + r.j * 2 ^ 8 + flagAt r.uni 13 + flagAt r.ct 14 + flagAt r.pfx 15 + flagAt r.skip 16 + r.dix.toNat * 2 ^ 32,
   r.pc.toNat, r.rpc.toNat, r.done.toNat + r.exm.toNat * 2 ^ 32, r.addr.toNat, r.insn.toNat + r.pword.toNat * 2 ^ 32,
   (tr.getK 28).toNat, (tr.getK 29).toNat, (tr.getK 30).toNat, (tr.getK 31).toNat, 0, 0, 0, 0, 0, 0]

/-- The handler has been entered (R241 steps 3 to 5). -/
def Entered (s : State) (c : Ctx) (r : FaultRec) (pa : Nat) (out : Out) : Prop :=
  ∃ t tr, out = .next t ∧ t.train? c.w c.t = some tr ∧ tr.hmode = true ∧ tr.hsplit = c.p ∧ tr.trap = r ∧
    tr.tcause.toNat = (frameWords r c.tr).getD 0 0 % 2 ^ 17 ∧ tr.k = c.tr.k ∧ tr.v = c.tr.v ∧ tr.p = c.tr.p ∧ tr.outst = [] ∧
    tr.split? c.p = some { c.sp with
      pc := c.tr.tvec, pfx := none, done := 0, wait := .ready, part := none, rel := none } ∧
    (∀ p, p ≠ c.p → tr.split? p = c.tr.split? p) ∧ (∀ key, key ≠ 64 * c.w + c.t → t.trains.look key = s.trains.look key) ∧
    ∀ a, Memory.read t.mem a = if offOf pa ≤ a ∧ a < offOf pa + 128
      then BitVec.ofNat 8 ((frameWords r c.tr).getD ((a - offOf pa) / 8) 0 / 256 ^ ((a - offOf pa) % 8)) else Memory.read s.mem a

/-- A number from its bytes, the first lowest (R3). -/
def littleEndian : List Byte → Nat
  | [] => 0
  | b :: bs => b.toNat + 256 * littleEndian bs

/-- Word `n` of the frame that memory holds at `pa`. -/
def frameWord (s : State) (pa n : Nat) : Nat :=
  littleEndian ((List.range 8).map fun i => Memory.read s.mem (offOf pa + 8 * n + i))

/-- A command issues (R41), having read what it needs, which leaves the machine at `s0`: it is outstanding with its operands, its split
goes on, and its unit does `f`. -/
def CommandsFrom (s0 : State) (i : Instr) (s : State) (c : Ctx) (ops : List W64) (f : State → State) : Prop :=
  ∃ t tr o, exec i s = .next (f t) ∧ Beside c s0 t ∧ Passed c t c.next tr ∧ tr.k = c.tr.k ∧ tr.v = c.tr.v ∧ tr.p = c.tr.p ∧
    tr.outst.getLast? = some o ∧ tr.outst.length = c.tr.outst.length + 1 ∧ o.id = c.tr.nextId ∧ o.split = c.p ∧ o.insn = i ∧ o.ops = ops ∧
    o.waitsFor = some 0 ∧ o.fault = none ∧ o.loads = [] ∧ o.writes = []

/-- A command issues that reads nothing first. -/
def Commands (i : Instr) (s : State) (c : Ctx) (ops : List W64) (f : State → State) : Prop := CommandsFrom s i s c ops f

/-- The split of an issue that goes on at the next word (R24, R44). -/
def wentOn (c : Ctx) (last : Nat) : Split :=
  { c.sp with
    pc := c.next, dix := if c.tr.hmode then c.sp.dix else c.sp.dix + 1, pfx := none, done := 0, wait := .ready, part := none
    rel := none, last := last }

/-! ### Memory -/

/-- The machine once the translation caches have learned the pages of the threads' addresses (R178). -/
def learned (s : State) (c : Ctx) (addr : Nat → W64) (js : List Nat) : State := js.foldl (fun s j => s.learn c.who (addr j)) s

/-- A load of `n` bytes by each of `js`, every one of whose accesses is allowed, is outstanding (R131, R353). -/
def LoadsBegin (i : Instr) (n al : Nat) (addr : Ctx → Nat → W64) (privOk : Bool) (js : Ctx → List Nat) : Prop :=
  ∀ s c (locs : Nat → List Loc), Issues i s c → js c ≠ [] → s.walkPulls c.who ((js c).map (addr c)) = [] →
    (∀ j ∈ js c, (learned s c (addr c) (js c)).resolve c.who j (addr c j) n al .load privOk = .ok (locs j)) →
    ∃ t tr o m, exec i s = .next t ∧ t.train? c.w c.t = some tr ∧ tr.k = c.tr.k ∧ tr.v = c.tr.v ∧ tr.p = c.tr.p ∧
      tr.sb = c.tr.sb ∧ t.mem = s.mem ∧ t.wgs = s.wgs ∧ t.tasks = s.tasks ∧ t.clock = s.clock + c.cycles ∧
      tr.outst.length = c.tr.outst.length + 1 ∧ tr.outst.getLast? = some o ∧ o.id = c.tr.nextId ∧ o.split = c.p ∧
      o.insn = i ∧ o.writes = [] ∧ o.fault = none ∧ o.exm = (if isPerThread i then c.active else 0) ∧
      o.acq = c.acquireAfter.map (s.runScope c.task.rcd.tenant) ∧
      o.loads = (js c).map (fun j => ⟨j, addr c j, locs j,
        c.g.mode.takesLog ((locs j).getD 0 (.priv 0)).isGlobal false, none, false, s.clock, false, c.g.ctx, c.g.ctxgen⟩) ∧
      tr.split? c.p = some (wentOn c m) ∧
      ∀ key, key ≠ 64 * c.w + c.t → (t.trains.look key).map Train.calm = (s.trains.look key).map Train.calm

/-- A store of `n` bytes of thread `j` finds its place at once: no release, no issue under way, rights at every byte, nothing
discarded or waiting for a pull, room in the store buffer, counters below their limit, and no shadow entry needed (R134, R136,
R164, R182, R383). -/
structure StoresAt (s : State) (c : Ctx) (j n al : Nat) (a : W64) (privOk : Bool) (locs : List Loc) : Prop where
  plain : c.sp.pfx = none ∧ c.sp.part = none
  tables : s.walkPulls c.who [a] = []
  run : c.g.mode.performs (locs.getD 0 (.priv 0)) = true
  rights : (s.learn c.who a).resolve c.who j a n al .store privOk = .ok locs
  kept : ∀ l ∈ locs, ∀ pa, l ≠ .discarded pa
  room : c.tr.held + n ≤ 16
  counters : ∀ l ∈ locs, s.ustFull c.w c.t (s.locDest c.core l) = false
  noCopy : ∀ l ∈ locs, ∀ pa, l = .glob pa → s.needsEntry c.g.slot (offOf pa) = none
  fresh : ∀ e ∈ c.tr.sb, e.id < c.tr.nextId

/-- A store's bytes are in the store buffer, in entries of this issue towards their destinations. -/
def StoreResult (i : Instr) (s : State) (c : Ctx) (locs : List Loc) (byte : Nat → Byte) : Prop :=
  ∃ t tr m, exec i s = .next t ∧ t.train? c.w c.t = some tr ∧ tr.k = c.tr.k ∧ tr.v = c.tr.v ∧ tr.p = c.tr.p ∧
    t.mem = s.mem ∧ t.wgs = s.wgs ∧ t.tasks = s.tasks ∧ tr.outst.length = c.tr.outst.length ∧
    (∀ e ∈ c.tr.sb, e ∈ tr.sb) ∧
    (∀ b, b < locs.length → ∃ e ∈ tr.sb, c.tr.nextId ≤ e.id ∧ e.owners = [c.p] ∧
      (∃ l, locs[b]? = some l ∧ e.dest = s.locDest c.core l ∧ ⟨l, 0xFF, byte b⟩ ∈ e.bytes)) ∧
    tr.split? c.p = some (wentOn c m)

/-- The parts of an ATOM word. -/
def atomParts : Instr → Option (AtomOp × BitVec 6 × BitVec 5 × BitVec 5)
  | .atomAdd d x k _ _ => some (.add, d, x, k)
  | .atomAnd d x k _ _ => some (.and, d, x, k)
  | .atomOr d x k _ _ => some (.or, d, x, k)
  | .atomXor d x k _ _ => some (.xor, d, x, k)
  | .atomMinS d x k _ _ => some (.minS, d, x, k)
  | .atomMaxS d x k _ _ => some (.maxS, d, x, k)
  | .atomMinU d x k _ _ => some (.minU, d, x, k)
  | .atomMaxU d x k _ _ => some (.maxU, d, x, k)
  | .atomExch32 d x k _ _ => some (.exch32, d, x, k)
  | .atomCas32 d x k _ _ => some (.cas32, d, x, k)
  | .atomAdd64 d x k _ _ => some (.add64, d, x, k)
  | .atomExch64 d x k _ _ => some (.exch64, d, x, k)
  | .atomCas64 d x k _ _ => some (.cas64, d, x, k)
  | .atomFaddF32 d x k _ _ => some (.faddF32, d, x, k)
  | .atomFaddBf16x2 d x k _ _ => some (.faddBf16x2, d, x, k)
  | _ => none

/-- The operands of an atomic in the thread's registers (R293): one word, a pair, or what is compared and what is written. -/
def atomArgs (op : AtomOp) (c : Ctx) (j d : Nat) : Nat × Nat :=
  let r := fun n => (c.tr.getV j (d + n)).toNat
  match op with
  | .cas32 => (r 0, r 1)
  | .add64 => (r 0 + r 1 * 2 ^ 32, 0)
  | .exch64 => (r 0 + r 1 * 2 ^ 32, 0)
  | .cas64 => (r 0 + r 1 * 2 ^ 32, r 2 + r 3 * 2 ^ 32)
  | _ => (r 0, 0)

/-- The elements of an atomic addition, rounded to nearest even (R293). -/
def atomSum (f : Fp.Fmt) (old x : Nat) : Nat := Fp.round f (Fp.add false (Fp.decode f old) (Fp.decode f x)) .rne

/-- What an atomic leaves at its target (R293); none where a comparison fails. -/
def atomNew (op : AtomOp) (old a b : Nat) : Option Nat :=
  let word := fun (x : W32) => some x.toNat
  let o := BitVec.ofNat 32 old
  let x := BitVec.ofNat 32 a
  match op with
  | .add => some ((old + a) % 2 ^ 32)
  | .and => word (ofBits 32 fun n => o.getLsbD n && x.getLsbD n)
  | .or => word (ofBits 32 fun n => o.getLsbD n || x.getLsbD n)
  | .xor => word (ofBits 32 fun n => o.getLsbD n != x.getLsbD n)
  | .minS => word (pick false true o x)
  | .maxS => word (pick true true o x)
  | .minU => word (pick false false o x)
  | .maxU => word (pick true false o x)
  | .exch32 => some a
  | .cas32 => if old = a then some b else none
  | .add64 => some ((old + a) % 2 ^ 64)
  | .exch64 => some a
  | .cas64 => if old = a then some b else none
  | .faddF32 => some (atomSum .f32 old a)
  | .faddBf16x2 => some (atomSum .bf16 (old % 65536) (a % 65536) + atomSum .bf16 (old / 65536) (a / 65536) * 65536)

/-- An atomic of thread `j` is performed at its home on this chip at once (R131, R207, R215, R227): rights, no write or older load
on its way, no pull, no poison, no record of R215 in the way, no shadow entry needed. -/
structure AtomAt (s : State) (c : Ctx) (j : Nat) (op : AtomOp) (a : W64) (pa : Nat) : Prop where
  plain : c.sp.pfx = none ∧ c.sp.part = none
  tables : s.walkPulls c.who [a] = []
  leads : c.g.mode = .primary
  level : c.task.rcd.integ < 2
  notDet : c.task.rcd.det = false
  rights : (s.learn c.who a).resolve c.who j a (atomSize op) (atomSize op) .atomic false =
    .ok ((List.range (atomSize op)).map fun b => .glob (pa + b))
  here : s.isLocal pa = true
  noEntry : ∀ e ∈ s.trains, e.2.sb = []
  noResp : s.resp = []
  fresh : ∀ o ∈ c.tr.outst, o.id < c.tr.nextId ∧ o.loads = []
  noPull : s.pullPending pa = false ∧ s.pullLost pa = false
  sound : s.anyPoison (offOf pa) (atomSize op) = false
  noRecord : s.flagged pa = false
  noCopy : s.needsEntry c.g.slot (offOf pa) = none ∧ s.domainOf (offOf pa) = none

/-! ### Barriers and engines -/

/-- A barrier register as BTST reads it (R97). -/
def barValue (b : Bar) : W64 :=
  BitVec.ofNat 64 (b.expect + b.arrived * 128 + flagAt b.phase 14 + flagAt b.strm 15 + flagAt b.scope 16 + flagAt b.init 17 +
    b.err * 2 ^ 18 + b.pend.toNat * 2 ^ 24)

/-- An instruction of the barrier unit returns `phase` of register `n` and writes `ws` (R299): a phase that its train has seen is
no news; a new one is acquired, and one that failed raises ENGINE with the register's value (R96). -/
def Observes (i : Instr) (s : State) (c : Ctx) (n : Nat) (phase : Bool) (ws : List RegWrite) : Prop :=
  let sc := if (c.g.bar n).scope then 2 else 1
  (c.tr.seen.getLsbD n = phase → exec i s = .next (s.finishLater c ws)) ∧
  (c.tr.seen.getLsbD n ≠ phase → (c.g.bar n).lastErr = 0 → exec i s =
    .next (((s.finishLater c ws).acquire c.w c.t sc).updTrain c.w c.t fun tr => tr.setSeen n phase)) ∧
  (c.tr.seen.getLsbD n ≠ phase → (c.g.bar n).lastErr ≠ 0 → c.tr.outst = [] → exec i s =
    .next (((s.acquire c.w c.t sc).updTrain c.w c.t fun tr => ws.foldl Train.applyWrite (tr.setSeen n phase)).raise c
      (c.fault .engine (c.g.bar n).lastVal 0 true false 0)))

/-- The streamer has room, and the barrier that a copy names is initialised, with STRM for .ARV (R94, R316). -/
structure CopyReady (s : State) (c : Ctx) (n : BitVec 4) (v z : BitVec 1) : Prop where
  room : (s.streamerOf c.core).length < 16
  bar : z = 0 → (c.g.bar n.toNat).init = true ∧ (v = 1 → (c.g.bar n.toNat).strm = true)

/-- The streamer's queue has taken a command (R94), behind every earlier one; no register and no byte of memory has changed. -/
def Queued (i : Instr) (s : State) (c : Ctx) (kind : StrKind) (n : BitVec 4) (v z : BitVec 1) (ops : List W64) : Prop :=
  ∃ t tr cmd m, exec i s = .next t ∧ t.strQ = s.strQ ++ [cmd] ∧ cmd.w = c.w ∧ cmd.t = c.t ∧ cmd.kind = kind ∧
    cmd.bar = (if z = 1 then none else some n.toNat) ∧ cmd.arv = (v == 1) ∧ cmd.started = false ∧ cmd.pos = 0 ∧
    cmd.failed = false ∧ cmd.fence = c.tr.nextId ∧ cmd.origin.ops = ops ∧ cmd.origin.insn = i ∧ t.mem = s.mem ∧ t.seqQ = s.seqQ ∧
    t.train? c.w c.t = some tr ∧ tr.k = c.tr.k ∧ tr.v = c.tr.v ∧ tr.p = c.tr.p ∧ tr.sb = c.tr.sb ∧
    tr.outst.length = c.tr.outst.length ∧ tr.split? c.p = some (wentOn c m)

/-- The accumulator store is free or this context's (R87), and no tile waits to be reported (R209). -/
structure OwnsStore (s : State) (c : Ctx) : Prop where
  sound : c.g.tileMark = none
  mine : (s.core c.core).valid = false ∨ (s.core c.core).owner = c.g.ctx

/-- The issuing context owns its core's accumulator store after the issue (R87). -/
def TakesStore (i : Instr) (s : State) (c : Ctx) : Prop :=
  ∃ t, exec i s = .next t ∧ (t.core c.core).valid = true ∧ (t.core c.core).owner = c.g.ctx

/-- The index, the mode and the saturate bit of an instruction that consults ACOWN, once it has passed its own checks (R291, R296, R297,
R364). -/
def storeArgs (s : State) (c : Ctx) : Instr → Option (Nat × Nat × Bool)
  | .azr x i _ => if c.index x i ≤ 255 then some (c.index x i, 0, false) else none
  | .ard _ h x i f _ =>
    let slot := c.task.rcd.slotW f.toNat
    if slotElem slot ≠ 11 ∧ c.index x i ≤ 255 ∧ 32 * h.toNat + 32 ≤ rowLimit (slotFmt slot) true
    then some (c.index x i, (c.slotMode slot).1, (c.slotMode slot).2) else none
  | .awr _ h x i f _ =>
    let slot := c.task.rcd.slotW f.toNat
    if slotElem slot ≠ 11 ∧ c.index x i ≤ 255 ∧ 32 * h.toNat + 32 ≤ rowLimit (slotFmt slot) (slotScale slot)
    then some (c.index x i, 0, false) else none
  | .mstr _ h x i f _ =>
    if s.isFollower c.w c.g c.task.rcd = false ∧ c.index x i ≤ 254 ∧ windowOk (c.task.rcd.slotW f.toNat) h.toNat = true
    then some (c.index x i, 0, false) else none
  | .mstrN32 _ h x i f _ =>
    if s.isFollower c.w c.g c.task.rcd = false ∧ c.index x i ≤ 255 ∧ windowOk (c.task.rcd.slotW f.toNat) h.toNat = true
    then some (c.index x i, 0, false) else none
  | _ => none

/-- The sequencer's queue has taken an instruction (R82), which is outstanding until it completes there. -/
def Sequenced (i : Instr) (s : State) (c : Ctx) (addr : W64) (idx mode : Nat) (sat : Bool) : Prop :=
  ∃ t tr cmd o m, exec i s = .next t ∧ t.seqQ = s.seqQ ++ [cmd] ∧ cmd.w = c.w ∧ cmd.t = c.t ∧ cmd.insn = i ∧ cmd.addr = addr ∧
    cmd.idx = idx ∧ cmd.mode = mode ∧ cmd.sat = sat ∧ cmd.started = false ∧ cmd.pos = 0 ∧ cmd.fault = none ∧ t.mem = s.mem ∧
    t.strQ = s.strQ ∧ t.train? c.w c.t = some tr ∧ tr.k = c.tr.k ∧ tr.v = c.tr.v ∧ tr.p = c.tr.p ∧ tr.sb = c.tr.sb ∧
    tr.outst.length = c.tr.outst.length + 1 ∧ tr.outst.getLast? = some o ∧ o.insn = i ∧ o.id = cmd.outst ∧
    o.waitsFor = some cmd.id ∧ tr.split? c.p = some (wentOn c m)

/-- A run that neither follows another's log nor is compared, whose train has no write on its way. -/
structure Simple (s : State) (c : Ctx) : Prop where
  leads : c.g.mode = .primary
  level : c.task.rcd.integ ≠ 3
  buffer : c.tr.sb = []
  used : c.tr.used = []
  markers : c.tr.markers = []
  noResp : s.resp = []
  fresh : ∀ o ∈ c.tr.outst, o.id < c.tr.nextId

/-- A snapshot command at the end of its domain's queue (R158). -/
def queuedAt (c : Ctx) (d : Domain) (i : Instr) (op : W64) (t : State) : State :=
  t.setDom c.g.slot { d with queue := d.queue ++ [⟨c.tr.nextId, c.w, c.t, i, op, c.tr.nextId + 1, false⟩] }

/-- The parts of a CLST word: its function, operands and slot (R312). -/
def collectiveParts : Instr → Option (Nat × BitVec 5 × BitVec 4 × BitVec 3)
  | .clstAg a n _ f => some (0, a, n, f)
  | .clstRs a n _ f => some (1, a, n, f)
  | .clstAr a n _ f => some (2, a, n, f)
  | .clstBc a n _ f => some (3, a, n, f)
  | _ => none

/-! ### Requests of the host -/

/-- A request that nothing refuses (R251 to R253), to a running chip whose queue is empty. -/
structure Welcome (s : State) (f : Frame) (cmd : Nat) : Prop where
  run : s.power = .run
  idle : s.hostQ = []
  port : f.port ≤ 1
  owner : hostPortOnly cmd = true → s.hostPort.getLsbD f.port = true
  version : f.ver = 1
  form : frameMalformed f cmd = false
  sound : carriesData cmd = true → cmd ≠ 1 → anyFails f = false

/-- The machine `u` once a request is answered (R251): one response frame, stamped by its port (R250), and the queue is empty again. -/
def answered (u : State) (f : Frame) (cmd status : Nat) (addr : W64) (data : List Byte) : State :=
  { u with out := u.out ++ [⟨f.port, cmd + 0x80, f.tenant, f.seq, addr, status, data, u.stamp f.port⟩], hostQ := [] }

/-- The frames `fs` are sent in order on their ports, whatever their stamps (R250). -/
def Sends (s u : State) (fs : List OutFrame) : Prop :=
  ∃ gs, u.out = s.out ++ gs ∧ (gs.map fun g => { g with stamp := 0 }) = fs

/-- A device record on port `n` (R423). -/
def eventFrame (n tenant status : Nat) (bs : List Byte) : OutFrame := ⟨n, 0x40, tenant, 0, 0, status, bs, 0⟩

/-- A request is answered with STATUS 0 and no data, and the machine is `u`. -/
def Granted (i : Instr) (s : State) (f : Frame) (cmd : Nat) (u : State) : Prop :=
  exec i s = .next (answered u f cmd 0 f.addr []).wake

/-- A request is answered with a STATUS that refuses it, and changes nothing. -/
def Refused (i : Instr) (s : State) (f : Frame) (cmd status : Nat) : Prop :=
  exec i s = .next (answered s f cmd status f.addr []).wake

/-- A request stands in the queue. -/
def inQueue (s : State) (op : HostOp) (f : Frame) : State := { s with hostQ := [⟨op, f⟩] }

/-- A configuration register's selector (R254). -/
def selects (f : Frame) (cls i j : Nat) : Prop := f.addr.toNat = cls + 256 * i + 65536 * j

/-- A word that CFGR returns (R252): one sector, the value first. -/
def wordSector (x : Nat) : List Byte := toBytes x 8 ++ List.replicate 24 0

/-- The value of each register of R254 that CFGR reads: class, index, sub-index. -/
def registerValue (s : State) (cls i j : Nat) : Option Nat :=
  match cls with
  | 1 => if i ≤ 31 ∧ j ≤ 15 then some ((s.wayMaskOf i j).ways.toNat + if (s.wayMaskOf i j).busy then 65536 else 0) else none
  | 2 => if i ≤ 15 ∧ j = 0 then some (s.troot.val 0 i).toNat else none
  | 3 => if i ≤ 15 ∧ j ≤ 1 then some (if j = 0 then (s.partOf i).cores.toNat else (s.partOf i).word1.toNat) else none
  | 4 => if i ≤ 15 ∧ j = 0 then some (s.tenpol.val 0 i).toNat else none
  | 5 =>
    let h := s.hdesc.val ⟨0, 0, 0, 0⟩ i
    if i ≤ 15 ∧ j ≤ 3 then some ([h.vec, h.wbase, h.wlen, h.fslots].getD j 0).toNat else none
  | 6 =>
    let b := s.buckets.val .reset i
    if i ≤ 80 ∧ j = 0 then some ((b.fill + b.mark * 2 ^ 16 + b.leak * 2 ^ 32 + flagAt b.evt 48) % 2 ^ 64) else none
  | 7 => if i = 0 ∧ j = 0 then some (s.paired.toNat + 65536 * s.faulty.toNat) else none
  | 8 => if i ≤ 15 ∧ j = 0 then some (s.redOwner.val 0 i).toNat else none
  | 10 => if i ≤ 1 ∧ j = 0 then some ((s.eth.getD i .reset).drops % 2 ^ 64) else none
  | _ => none

/-- An event happens, and the machine is `u`; every waiting split looks again. -/
def Happens (i : Instr) (s u : State) : Prop := exec i s = .next u.wake

/-! ### The move of a step -/

/-- The lane of train `t` of workgroup `w` picks the split `r` (R32), the splits that are due back in the lane's tables before it (R30,
R33): the machine is then `s0`. -/
def Picks (s : State) (w t : Nat) (s0 : State) (r : Ready) : Prop :=
  s0 = (s.laneReady w t).foldl State.atIssue s ∧ firstReady (s0.laneReady w t) = some r

/-- The split `r` is the one that the next step lets issue, from state `s0`: the agenda's first move names a train of its lane, or the
agenda is empty and a running chip has nothing before its lane. -/
def IssuesNext (s s0 : State) (r : Ready) : Prop :=
  (∃ w t rest, s.agenda = .issue w t :: rest ∧ Picks { s with agenda := rest } w t s0 r) ∨
  (s.agenda = [] ∧ (s.power = .run ∨ s.power = .runLow) ∧ s.nowMoves.findSome? (progress s) = none ∧
    (∀ e ∈ s.timers, s.clock < e.1) ∧ ∃ x, firstReady s.allReady = some x ∧ Picks s x.w x.t s0 r)

end Sys2Proof.Claims

open Sys2Proof Sys2Proof.Machine Sys2Proof.Claims

/-! ### Integer arithmetic -/

/-- R288, with its three words, and SUB (R386) and NEG (R366). Every statement of this part says that the instruction
completes from every state in which its split may issue, what the acting threads' destination takes, that nothing else of the
train, of any other train and of memory changes, and that its checks raise nothing but ILLEGAL and BUDGET. -/
def Obligations.AdditionWrapsAtTheWidth : Prop :=
  (∀ i d f, sumThread i = some (d, f) → PerThread i d f) ∧
  (∀ i d x, sumTrain i = some (d, x) → Uniform i d x) ∧
  decode 0x4020BFDF#32 = some (.addImm 2 2 0x7FB 7) ∧ decode 0x6020C407#32 = some (.addK 2 3 4) ∧
  decode 0x68104047#32 = some (.addKImm 1 1 8)

/-- R289 and the SUBB of R386, with their word and example. -/
def Obligations.CarriesAndBorrowsChainThroughP6 : Prop :=
  (∀ d a b g, PerThreadCarry (.addc d a b g) d fun c j =>
    let x := (c.v a j).toNat + (c.v b j).toNat + if c.tr.predOf 6 j then 1 else 0
    (BitVec.ofNat 32 x, decide (2 ^ 32 ≤ x))) ∧
  (∀ d a b g, PerThreadCarry (.subb d a b g) d fun c j =>
    let x : Int := ((c.v a j).toNat : Int) - (c.v b j).toNat - if c.tr.predOf 6 j then 1 else 0
    (BitVec.ofInt 32 x, decide (x < 0))) ∧
  decode 0x0451870F#32 = some (.addc 5 6 7 7) ∧
  addCarry 0xFFFFFFFF#32 1#32 false = (0#32, true) ∧ addCarry 1#32 2#32 true = (4#32, false)

/-- R287, R355, R358 and R365, with their words and examples. -/
def Obligations.ProductsKeepTheHalfTheyName : Prop :=
  (∀ i d f, productThread i = some (d, f) → PerThread i d f) ∧
  (∀ i d x, productTrain i = some (d, x) → Uniform i d x) ∧
  upperHalf 32 (-1 * 2) = 0xFFFFFFFF#32 ∧ upperHalf 32 (0xFFFFFFFF * 2) = 1#32 ∧
  decode 0x0412405F#32 = some (.abs 1 9 7)

/-- R360, R314, R323, R371 and R306, with CTZ's word. -/
def Obligations.ExtremesAndBitCounts : Prop :=
  (∀ i d f, orderThread i = some (d, f) → PerThread i d f) ∧
  (∀ i d x, orderTrain i = some (d, x) → Uniform i d x) ∧
  decode 0x0410807F#32 = some (.ctz 1 2 7)

/-- R368 and R401; and AND, ANDN (R290) and NOT (R366). SHL, SHR, SRA (R382), ROT (R375) and R302, with the examples of each.
-/
def Obligations.LogicShiftsAndBitFields : Prop :=
  ((∀ i d f, logicThread i = some (d, f) → PerThread i d f) ∧
     (∀ i d x, logicTrain i = some (d, x) → Uniform i d x)) ∧
  ((∀ i d f, shiftThread i = some (d, f) → PerThread i d f) ∧
     (∀ i d x, shiftTrain i = some (d, x) → Uniform i d x) ∧
     shiftSigned 0x80000010#32 4#32 = 0xF8000001#32 ∧ shiftRight 0x80000010#32 4#32 = 0x08000001#32 ∧
     rotated 0x12345678#32 8#32 = 0x34567812#32 ∧
     extractSigned 0x00000F00#32 0x00000408#32 = 0xFFFFFFFF#32 ∧ decode 0x08108357#32 = some (.bfxS 1 2 3 7))

/-- MOV (R361), MOVI (R362), SEL (R381) and the uniform CMP (R315). -/
def Obligations.MovesImmediatesAndSelection : Prop :=
  (∀ i d f, moveThread i = some (d, f) → PerThread i d f) ∧
  (∀ i d x, moveTrain i = some (d, x) → Uniform i d x)

/-- CMP of threads (R315) with its words: a write to p7 is discarded, a thread whose guard is false keeps its predicate. FCMP
(R334): NaN makes UN and NE true and every other condition false. p7 always reads 1 (R262), and a write to it is
discarded. -/
def Obligations.ComparisonsWriteTheirPredicate : Prop :=
  ((∀ i p f, compareThread i = some (p, f) → PerThreadPred i p f) ∧
     decode 0x10808317#32 = some (.cmp 1 0 2 3 0 2 7) ∧ decode 0x55212C57#32 = some (.cmpImm 2 2 4 5 1 10 7)) ∧
  (∀ i p f, compareFloat i = some (p, f) → PerThreadPred i p f) ∧
  (∀ (tr : Train) m x j, tr.setP 7 m x = tr ∧ (j < 32 → tr.predOf 7 j = true))

/-- DIV and REM (R326, R52): no case traps, and the quotient waits for the instruction's completion. FDIV (R336) and the
functions of R335, with R335's examples. -/
def Obligations.DivisionsAndFunctionsWaitForTheirResult : Prop :=
  ((∀ i d f, divisionThread i = some (d, f) → LongThread i d f) ∧
     (∀ signed a, quotient signed a 0#32 = 0xFFFFFFFF#32 ∧ remainder signed a 0#32 = a) ∧
     quotient true 0x80000000#32 0xFFFFFFFF#32 = 0x80000000#32 ∧ remainder true 0x80000000#32 0xFFFFFFFF#32 = 0#32 ∧
     (∀ signed a b, quotient signed a b * b + remainder signed a b = a)) ∧
  ((∀ i d f, functionThread i = some (d, f) → LongThread i d f) ∧
     Fp.fsinp (Fp.decode .f32 0x3F000000) = 0x3F800000 ∧ Fp.fcosp (Fp.decode .f32 0x40200000) = 0 ∧
     Fp.fsinp (Fp.decode .f32 0x49742404) = 0x3F3504F3)

/-! ### Floating point and exchange -/

/-- FADD, FSUB, FMUL, FMIN, FMAX, FRND (R333) and FFMA (R338): each element is computed exactly and rounded once. The sign of
an exact zero sum (R333): the common sign of two zeros, else plus, but minus under RD; and NaN where an infinity meets the
other. -/
def Obligations.FloatArithmeticRoundsOnce : Prop :=
  (∀ i d f, floatThread i = some (d, f) → PerThread i d f) ∧
  ((∀ down n e e', Fp.add down (.fin n 0 e) (.fin n 0 e') = .fin n 0 0) ∧
     (∀ down m e, Fp.add down (.fin false m e) (.fin true m e) = .fin down 0 0) ∧
     (∀ down n, Fp.add down (.inf n) (.inf !n) = .nan) ∧
     (∀ a b m n e e', Fp.mul (.fin a m e) (.fin b n e') = .fin (a != b) (m * n) (e + e')) ∧
     (∀ a b e, Fp.mul (.inf a) (.fin b 0 e) = .nan))

/-- Rounding is exact on what a format holds (R60), whatever the mode: the pattern of a number is its rounding. -/
def Obligations.RoundingKeepsRepresentableNumbers : Prop :=
  ∀ f x r, (f = .f32 ∨ f = .f16 ∨ f = .bf16 ∨ f = .e5m2 ∨ f = .e4m3) → r.sat = false → x < 2 ^ f.width →
    Fp.decode f x ≠ .nan → Fp.round f (Fp.decode f x) r = x

/-- PACK (R369), UNPK (R397) and CVT (R324), with their worked conversions. -/
def Obligations.ConversionsBetweenFormats : Prop :=
  (∀ i d f, convertThread i = some (d, f) → PerThread i d f) ∧
  Fp.round .bf16 (Fp.decode .f32 0x3F808000) .rne = 0x3F80 ∧ Fp.round .bf16 (Fp.decode .f32 0x40400000) .rne = 0x4040 ∧
  Fp.round .f32 (Fp.decode .f16 1) .rne = 0x33800000 ∧ Fp.round .f32 (Fp.decode .bf16 0x3F80) .rne = 0x3F800000

/-- XCH, XBC (R400), XRED, XSCN (R402) and BALLOT (R398) under R399: every read is made before any write, and only the
participating threads write. R402's example follows. VOTE.ANY and VOTE.ALL (R398). -/
def Obligations.ExchangesReadBeforeTheyWrite : Prop :=
  ((∀ i d f, exchangeThread i = some (d, f) → PerThread i d f) ∧
     plusF32 (plusF32 0x3F800000#32 0x33800000#32) 0x33800000#32 = 0x3F800000#32) ∧
  (∀ i p f, votePred i = some (p, f) → PerThreadPred i p f)

/-! ### Control transfers -/

/-- BRA (R304): the split goes to PC + 4 × OFF modulo 2^48 when its condition holds, else to PC + 4; with its word. BRD (R24,
R305): with one side empty the split moves as a whole; else it divides into a taken split at the target and the fall-through
one, which keeps the inactive members. With EXM zero it has no effect (R23). A ninth entry spills (R30, R31): the entry other than
the issuer's that issued least recently is in the first entry of the spill area, its 32 bytes in private memory. MASK (R359): EXM
takes the members, or the active members, whose predicate XOR N is 1. -/
def Obligations.BranchesAndMasksSteerTheSplit : Prop :=
  ((∀ k cc o s c, Issues (.bra k cc o) s c →
       Moves (.bra k cc o) s c (if cc = 0#2 ∨ (cc = 1#2 ∧ c.k5 k = 0) ∨ (cc = 2#2 ∧ c.k5 k ≠ 0) ∨
         (cc = 3#2 ∧ (c.k5 k).getLsbD 63 = true) then reached c 19 o.toNat else c.next)) ∧
     (∀ k o, k ≠ 0#5 → (Instr.bra k 0 o).wf = false) ∧
     decode 0xD057FFFD#32 = some (.bra 2 2 (BitVec.ofInt 19 (-3)))) ∧
  ((∀ p n o s c, Issues (.brd p n o) s c →
       let taken := ofBits 32 fun j => c.sp.exm.getLsbD j && (c.tr.predOf p.toNat j != (n == 1))
       let fall := ofBits 32 fun j => c.sp.exm.getLsbD j && !(c.tr.predOf p.toNat j != (n == 1))
       let target := reached c 22 o.toNat
       (c.sp.exm = 0 → Passes (.brd p n o) s c) ∧
       (c.sp.exm ≠ 0 → fall = 0 → Moves (.brd p n o) s c target) ∧
       (c.sp.exm ≠ 0 → taken = 0 → Moves (.brd p n o) s c c.next) ∧
       (taken ≠ 0 → fall ≠ 0 → Unspilled c.tr → c.tr.splits.length < 8 → ∃ t tr,
         exec (.brd p n o) s = .next ((t.updTrain c.w c.t fun tr => divided tr c.p target taken fall).noteControl c
           [(target, taken), (c.next, fall)]) ∧
         Beside c s t ∧ Passed c t c.next tr ∧ Same c tr) ∧
       (taken ≠ 0 → fall ≠ 0 → Unspilled c.tr → c.tr.splits.length = 8 → (c.tr.splits.map Split.id).Nodup → c.tr.pb % 32 = 0 →
         (s.core c.core).sector? ((c.tr.pb + 128 * c.tr.privb.toNat) / 32) = none → ∃ u tr r,
         exec (.brd p n o) s = .next u ∧ u.train? c.w c.t = some tr ∧ r ∈ c.tr.splits ∧ r.id ≠ c.p ∧
         (∀ q ∈ c.tr.splits, q.id ≠ c.p → r.last ≤ q.last) ∧
         (tr.split? r.id).map Split.spilled = some (some (c.tr.issues + 1)) ∧ (tr.split? r.id).map Split.row = some 0 ∧
         (u.sectorSeen c.core (c.tr.pb + 128 * c.tr.privb.toNat) true).data = entryBytes r)) ∧
     decode 0xD4000006#32 = some (.brd 0 0 6) ∧ decode 0xD4400006#32 = some (.brd 0 1 6)) ∧
  (∀ n p s c,
       let chosen := fun (from' : Mask) => ofBits 32 fun j =>
         from'.getLsbD j && c.sp.member.getLsbD j && (c.tr.predOf p.toNat j != (n == 1))
       (Issues (.maskAnd n p) s c → ∃ t tr, exec (.maskAnd n p) s =
         .next ((t.updSp c fun q => { q with exm := chosen c.sp.exm }).noteControl c [(c.next, chosen c.sp.exm)]) ∧
         Beside c s t ∧ Passed c t c.next tr ∧ Same c tr) ∧
       (Issues (.maskSet n p) s c → ∃ t tr, exec (.maskSet n p) s =
         .next ((t.updSp c fun q => { q with exm := chosen c.sp.member }).noteControl c [(c.next, chosen c.sp.member)]) ∧
         Beside c s t ∧ Passed c t c.next tr ∧ Same c tr))

/-- CALL (R309): k30 takes PC + 4 and the split goes on at the target, unless the target's mark exceeds the train's budget,
which raises BUDGET with nothing changed before it. The budget that a word before an entry marks (R37). RET (R372): the split
goes to k[S1][47:0], or faults with ALIGN at a misaligned one. -/
def Obligations.CallsLinkAndReturn : Prop :=
  ((∀ o s c b, Issues (.call o) s c → s.budgetAt c.core c.task c.tr.hmode (reached c 26 o.toNat) = .ok b →
       (b ≤ c.task.rcd.budget → ∃ t tr, exec (.call o) s = .next (t.noteControl c [(reached c 26 o.toNat, c.sp.exm)]) ∧
         Beside c s t ∧ Passed c t (reached c 26 o.toNat) tr ∧ tr.v = c.tr.v ∧ tr.p = c.tr.p ∧
         tr.outst.length = c.tr.outst.length ∧ WritesK c tr 30 c.next) ∧
       (c.task.rcd.budget < b → exec (.call o) s = .next (s.raiseUniform c .budget (reached c 26 o.toNat)))) ∧
     decode 0xD8000010#32 = some (.call 16)) ∧
  ((∀ d, 1 ≤ d.toNat → d.toNat ≤ 8 → ∀ x, decode x = some (.nop d) → markOf x = 8 * d.toNat) ∧
     (∀ x, (∀ d, decode x ≠ some (.nop d)) → markOf x = 64)) ∧
  (∀ r s c, Issues (.ret r) s c →
       ((c.k r).toNat % 4 = 0 → Moves (.ret r) s c (BitVec.ofNat 64 ((c.k r).toNat % 2 ^ 48))) ∧
       ((c.k r).toNat % 4 ≠ 0 → exec (.ret r) s =
         .next (s.raiseUniform c .misaligned (BitVec.ofNat 64 ((c.k r).toNat % 2 ^ 48)))))

/-- CALLI (R38, R310) where every acting thread's target is aligned and within the budget: each goes to its own target, in
one split with the others that share it, the rest of the split goes on behind it, and k30 takes PC + 4. -/
def Obligations.CalliGroupsThreadsByTarget : Prop :=
  (∀ r g s c, Issues (.calli r g) s c → c.active ≠ 0 → Unspilled c.tr →
    c.tr.splits.length + (maskThreads c.active).length ≤ 8 →
    (∀ j, c.active.getLsbD j = true → (entered c r j).toNat % 4 = 0 ∧
      ∃ b, s.budgetAt c.core c.task c.tr.hmode (entered c r j) = .ok b ∧ b ≤ c.task.rcd.budget) →
    ∃ t tr ps, exec (.calli r g) s = .next ((t.setTrain c.w c.t tr).noteControl c ps) ∧ Beside c s t ∧
      tr.v = c.tr.v ∧ tr.p = c.tr.p ∧ WritesK c tr 30 c.next ∧
      (∀ j, c.active.getLsbD j = true → ∃ q ∈ tr.splits, c.tr.nextId ≤ q.id ∧ q.pc = entered c r j ∧
        ∀ j', j' < 32 → q.member.getLsbD j' = (c.active.getLsbD j' && (entered c r j' == entered c r j)))) ∧
  (∀ r g s c, Issues (.calli r g) s c → c.sp.exm = 0 → Passes (.calli r g) s c) ∧
  decode 0xDC600007#32 = some (.calli 6 7)

/-- JOIN (R26, R351) of a train none of whose splits is spilled: the split parks with its own address as RPC and may merge; in handler mode it raises ILLEGAL, which
ends the task (R244). The merge of R26: nothing while some split is not parked; else the splits at the lowest RPC become one
at the following instruction, with their members, their active threads and the largest DIX, and what they have buffered is
visible to the whole train (R29). The others stay parked. -/
def Obligations.JoinedSplitsMergeAtTheLowestRpc : Prop :=
  (∀ s c, Issues .join s c →
       (c.tr.hmode = false → Unspilled c.tr → c.tr.splits.length ≤ 8 → ∃ t tr, exec .join s =
         .next (((t.updTrain c.w c.t fun tr => tr.updSplit c.p fun q => { q with parked := true, rpc := c.sp.pc }).updTrain
           c.w c.t Train.merge).noteControl c [(c.next, c.sp.exm)]) ∧ Beside c s t ∧ Passed c t c.next tr ∧ Same c tr) ∧
       (c.tr.hmode = true → exec .join s = .next (s.endTask c.g.slot ((c.fault .illegal 0 0 true false 0).endInfo c.g.wgid)))) ∧
  (∀ tr : Train,
       ((∃ q ∈ tr.splits, q.parked = false) → tr.merge = tr) ∧
       (tr.splits ≠ [] → tr.splits.length ≤ 8 → (∀ q ∈ tr.splits, q.parked = true ∧ q.spilled = none) →
         ∃ a m, (∃ q ∈ tr.splits, q.rpc.toNat = a) ∧ (∀ q ∈ tr.splits, a ≤ q.rpc.toNat) ∧
           tr.merge.splits = m :: tr.splits.filter (fun q => q.rpc.toNat != a) ∧
           m.parked = false ∧ m.wait = .ready ∧ m.pc = BitVec.ofNat 64 ((a + 4) % 2 ^ 48) ∧
           (∀ j, m.member.getLsbD j = tr.splits.any fun q => q.rpc.toNat == a && q.member.getLsbD j) ∧
           (∀ j, m.exm.getLsbD j = tr.splits.any fun q => q.rpc.toNat == a && q.exm.getLsbD j) ∧
           (∃ q ∈ tr.splits, q.rpc.toNat = a ∧ m.dix = q.dix) ∧
           (∀ q ∈ tr.splits, q.rpc.toNat = a → q.dix.toNat ≤ m.dix.toNat) ∧
           (∀ e ∈ tr.merge.sb, ∀ q ∈ tr.splits, q.rpc.toNat = a → e.owners.contains q.id = true → e.vis = true)))

/-- EXIT (R27, R331) in program mode: the acting threads leave the split; a split left empty leaves its train, which ends
with its last one, where none of its splits is spilled or parked; with EXM zero nothing happens (R23). -/
def Obligations.ExitRemovesTheActingThreads : Prop :=
  ∀ g s c, Issues (.exit g) s c →
    let left := c.sp.member &&& ~~~c.active
    (c.sp.exm = 0 → Passes (.exit g) s c) ∧
    (c.sp.exm ≠ 0 → c.tr.hmode = false → left ≠ 0 → ∃ t tr, exec (.exit g) s =
      .next ((t.updSp c fun q => { q with member := q.member &&& ~~~c.active, exm := q.exm &&& ~~~c.active }).noteControl c
        [(c.next, c.sp.exm &&& ~~~c.active)]) ∧ Beside c s t ∧ Passed c t c.next tr ∧ Same c tr) ∧
    (c.sp.exm ≠ 0 → c.tr.hmode = false → left = 0 → Unspilled c.tr → (∀ q ∈ c.tr.splits, q.parked = false) → ∃ t tr, exec (.exit g) s =
        .next ((t.updTrain c.w c.t fun tr => { tr with
          splits := tr.splits.filter fun q => q.id != c.p
          ended := (tr.splits.filter fun q => q.id != c.p).isEmpty }).noteControl c []) ∧
        Beside c s t ∧ Passed c t c.next tr ∧ Same c tr)

/-- IMMX and HINT (R266 to R268): the prefix waits with its split for the word it modifies, and counts as an instruction. -/
def Obligations.PrefixesWaitForTheirWord : Prop :=
  ∀ i kind s c, prefixKind i = some kind → Issues i s c →
    ∃ t tr n, exec i s = .next t ∧ Beside c s t ∧ t.train? c.w c.t = some tr ∧ Same c tr ∧
      tr.split? c.p = some { c.sp with pc := c.next, dix := if c.tr.hmode then c.sp.dix else c.sp.dix + 1
                                       pfx := some ⟨kind, c.sp.pc, c.word⟩, wait := .ready, last := n } ∧
      (∀ p, p ≠ c.p → (tr.split? p).map Split.calm = (c.tr.split? p).map Split.calm) ∧
      ∃ d, tr = { c.tr with splits := tr.splits, issues := c.tr.issues + 1, hcount := d }

/-- CSRR (R320): TID is per-thread, every other CSR uniform; the values are those of R22, R44, R45, R86, R97, R101, R110,
R136, R203, R240 and R247. ALIVE and ACOWN wait for the train's own sequencer instructions. CSRW (R22, R101, R247, R275,
R321, R322): what each register takes, and that a read-only one takes nothing (R5); PRIVB is limited to the value loaded at launch,
and where it changes the last entry of the spill area is found where the new limit puts it (R31). A write of ACOWN, TVEC, WDG or PRIVB
outside the handler raises PRIV. -/
def Obligations.CsrsHoldWhatTheirTableSays : Prop :=
  ((∀ d g, PerThread (.csrr d 1 g) d fun c j => BitVec.ofNat 32 (32 * c.tr.trn + j)) ∧
     (∀ d n g s c f, n ≠ 1#10 → csrTable n.toNat = some f → Issues (.csrr d n g) s c →
       (0x20 ≤ n.toNat ∧ n.toNat ≤ 0x24 → ∀ q ∈ s.seqQ, ¬ (q.w = c.w ∧ q.t = c.t)) →
       TrainResult (.csrr d n g) s c d (f s c)) ∧
     (∀ d n g s c q, 0x20 ≤ n.toNat → n.toNat ≤ 0x24 → Issues (.csrr d n g) s c → q ∈ s.seqQ → q.w = c.w → q.t = c.t →
       exec (.csrr d n g) s = .next (s.stall c .retry))) ∧
  ((∀ k n s c, Issues (.csrw k n) s c → Passes (.csrw k n) s c) ∧
     (∀ k s c, Issues (.csrwExm k) s c → After (.csrwExm k) s c fun t => t.updSp c fun q =>
       { q with exm := ofBits 32 fun j => (c.k5 k).getLsbD j && q.member.getLsbD j }) ∧
     (∀ k s c, Issues (.csrwStat k) s c → After (.csrwStat k) s c fun t => t.updTrain c.w c.t fun tr =>
       { tr with demoted := c.tr.demoted && !(c.k5 k).getLsbD 0 }) ∧
     (∀ k s c, Issues (.csrwTvec k) s c → After (.csrwTvec k) s c fun t => t.updTrain c.w c.t fun tr =>
       { tr with tvec := BitVec.ofNat 64 ((c.k5 k).toNat % 2 ^ 48 / 4 * 4) }) ∧
     (∀ k s c, Issues (.csrwWdg k) s c → After (.csrwWdg k) s c fun t => t.updWg c.w fun g =>
       { g with wdg := BitVec.ofNat 32 (c.k5 k).toNat }) ∧
     (∀ k s c, Issues (.csrwPrivb k) s c →
       let limit := min (c.k5 k).toNat c.task.rcd.privlim
       (limit = c.tr.privb.toNat → Passes (.csrwPrivb k) s c) ∧
       ∃ t tr m, exec (.csrwPrivb k) s = .next t ∧ t.train? c.w c.t = some tr ∧ tr.privb = BitVec.ofNat 23 limit ∧
         tr.k = c.tr.k ∧ tr.v = c.tr.v ∧ tr.p = c.tr.p ∧ tr.split? c.p = some (wentOn c m) ∧
         (limit ≠ c.tr.privb.toNat → c.tr.pb % 32 = 0 → ∃ x, (t.core c.core).sector? ((c.tr.pb + 128 * limit) / 32 + 23) = some x ∧
           x.data = (s.sectorSeen c.core (c.tr.pb + 128 * c.tr.privb.toNat + 736) true).data)) ∧
     (∀ k s c, Issues (.csrwAcown k) s c → (∀ q ∈ s.seqQ, s.coreOf q.w ≠ some c.core) →
       After (.csrwAcown k) s c fun t => t.setCore c.core { t.core c.core with
         owner := BitVec.ofNat 16 (c.k5 k).toNat, valid := (c.k5 k).getLsbD 16 }) ∧
     (∀ (k : BitVec 5) (i : Instr) (s : State) (c : Ctx),
       (i = .csrwAcown k ∨ i = .csrwTvec k ∨ i = .csrwWdg k ∨ i = .csrwPrivb k) → s.ctx? i = some c →
       c.tr.hmode = false → c.awaits = [] → c.sp.pfx = none → c.stop = .trap .priv))

/-- NOP (R367) and WAIT (R390), which lets its split go on after k[K][15:0] cycles. An issue that must wait changes nothing
but why its split waits (R265, R41). Every instruction's issue checks come in the order of R276 and R239, and a trap found
there is raised before any thread steps: the frame names J 0 and no thread as done. What `retire` does for a train at its
split: the split moves past its instruction and its DIX counts one, but in the handler, where it is frozen (R24, R44, R241).
The comparator is told of a control transfer at level 3 alone (R227): elsewhere the machine is as it was. -/
def Obligations.IssuesCheckWaitAndRetire : Prop :=
  ((∀ d s c, Issues (.nop d) s c → Passes (.nop d) s c) ∧
     (∀ k s c, Issues (.wait k) s c → After (.wait k) s c fun t => t.updSp c fun q =>
       { q with wait := if (c.k5 k).toNat % 65536 = 0 then .ready else .timer (s.clock + (c.k5 k).toNat % 65536) })) ∧
  (∀ i s c, (encode i).isSome = true → s.ctx? i = some c →
       (∀ ids, c.stop = .await ids → exec i s = .next (s.stall c (.outst ids))) ∧
       (c.stop = .again → exec i s = .next (s.stall c .retry))) ∧
  ((∀ i s c cause, (encode i).isSome = true → s.ctx? i = some c → c.stop = .trap cause →
       exec i s = .next (s.raise c (c.fault cause 0 0 (!isPerThread i) false 0))) ∧
     (∀ c : Ctx, c.awaits = [] → c.fifth = false →
       (c.insn.wf = false → c.stop = .trap .illegal) ∧
       (c.insn.wf = true → c.sp.pfx = none →
         ((∃ r ∈ vNames c.insn, c.task.rcd.budget ≤ r) → c.stop = .trap .budget) ∧
         ((∀ r ∈ vNames c.insn, r < c.task.rcd.budget) →
           ((needsHandler c.insn = true ∧ c.tr.hmode = false) ∨ (needsSysprog c.insn = true ∧ c.task.rcd.sysprog = false) →
             c.stop = .trap .priv))))) ∧
  (∀ (s : State) (c : Ctx) tr q, s.train? c.w c.t = some tr → tr.split? c.p = some q →
       ∃ tr' n, (s.retire c).train? c.w c.t = some tr' ∧ (s.retire c).mem = s.mem ∧ (s.retire c).wgs = s.wgs ∧
         (s.retire c).tasks = s.tasks ∧ tr'.k = tr.k ∧ tr'.v = tr.v ∧ tr'.p = tr.p ∧ tr'.sb = tr.sb ∧
         tr'.issues = tr.issues + 1 ∧ (s.retire c).clock = s.clock + c.cycles ∧
         tr'.split? c.p = some { q with pc := c.next, dix := if c.tr.hmode then q.dix else q.dix + 1
                                        pfx := none, done := 0, wait := .ready, part := none, rel := none, last := n }) ∧
  (∀ (s : State) c ps g task, s.wg? c.w = some g → s.taskOf? g = some task →
       (task.rcd.integ ≠ 3 → s.noteControl c ps = s) ∧
       (task.rcd.integ = 3 → s.noteControl c ps = s.updTrain c.w c.t fun tr =>
         { tr with cmp := tr.cmp ++ [⟨c.key, .control ps, none, s.clock⟩] }))

/-! ### Traps and the handler -/

/-- A trap of a train with nothing outstanding, and no write that its frame must follow, enters the handler (R241, R242): the frame at TFRAME in memory holds what R242
says, HMODE is set, the split goes to TVEC with its masks, TCAUSE takes the frame's first word, and no other byte of memory
and no register changes. TRAP and, outside the handler, SVC do so as their own effect with SKIP 1 (R388, R389), and every
instruction that fails the issue checks does so with SKIP 0 and nothing done. -/
def Obligations.TrapsEnterTheHandler : Prop :=
  ∀ s c pa b, MayTrap s c pa b →
    (Issues .trap s c → Entered s c (recordAt c .trap true true) pa (exec .trap s)) ∧
    (∀ k, Issues (.svc k) s c → Entered s c (recordAt c .svc true true) pa (exec (.svc k) s)) ∧
    (∀ i cause, (encode i).isSome = true → s.ctx? i = some c → c.stop = .trap cause →
      Entered s c (recordAt c cause (!isPerThread i) false) pa (exec i s))

/-- What ends the task instead of entering the handler (R238, R241, R244, R246): any cause in handler mode, the causes of
R238 without a handler, and any cause while TVEC is 0. The first cause stands. -/
def Obligations.SomeFaultsEndTheTask : Prop :=
  (∀ (s : State) (c : Ctx) (r : FaultRec) i, s.ctx? i = some c → (c.tr.hmode = true ∨ r.cause = .lease ∨ r.cause = .pullLost ∨ r.cause = .detConflict) →
    s.raise c r = s.endTask c.g.slot ⟨r.cause, r.pc, r.addr, r.j, c.g.wgid⟩) ∧
  (∀ (s : State) (c : Ctx) (r : FaultRec) i, s.ctx? i = some c → c.tr.hmode = false → c.tr.outst = [] → c.tr.tvec = 0 →
    ∃ t : State, s.raise c r = t.endTask c.g.slot ⟨r.cause, r.pc, r.addr, r.j, c.g.wgid⟩ ∧ t.mem = s.mem ∧ t.tasks = s.tasks) ∧
  (∀ (s : State) slot e t, s.task? slot = some t →
    (s.endTask slot e).task? slot = some { t with endInfo := some (t.endInfo.getD e) })

/-- RFT (R42, R243) of a train that keeps no instruction: k28 to k31 come from the frame, HMODE clears, and the split goes on
at RPC with SKIP 1, or at the reported instruction for the threads that DONE does not name. -/
def Obligations.RftReturnsToTheReportedInstruction : Prop :=
  ∀ s c pa uc, Issues .rft s c → c.g.mode = .primary → c.tr.outst = [] → c.tr.sb = [] →
    s.walkPull c.core c.task.rcd.tenant (c.g.frameVa c.task c.tr.trn).toNat = none →
    s.translate c.core c.task true (c.g.frameVa c.task c.tr.trn).toNat .load = .ok pa false uc →
    (c.g.frameVa c.task c.tr.trn).toNat % 128 = 0 → s.isLocal pa = true → s.pullLost pa = false → s.pullPending pa = false → s.anyPoison (offOf pa) 128 = false →
    (∀ n, frameWord s pa 0 / 2 ^ (17 + n) % 2 = 1 → 15 ≤ n) → (∀ n, 10 ≤ n → n < 16 → frameWord s pa n = 0) →
    ∃ (t : State) (tr : Train) (at' : List (W64 × Mask)) (n : Nat), exec .rft s = .next (t.noteControl c at').wake ∧ t.mem = s.mem ∧ t.train? c.w c.t = some tr ∧
      tr.hmode = false ∧ tr.v = c.tr.v ∧ tr.p = c.tr.p ∧ tr.outst = [] ∧
      (∀ r, tr.getK r = if 28 ≤ r ∧ r ≤ 31 then BitVec.ofNat 64 (frameWord s pa (r - 22)) else c.tr.getK r) ∧
      tr.split? c.p = some (if frameWord s pa 0 / 65536 % 2 = 1
        then { c.sp with pc := c.tr.trap.rpc, exm := c.tr.trap.exm &&& c.sp.member, dix := c.tr.trap.dix + 1
                         pfx := none, done := 0, wait := .ready, last := n }
        else { c.sp with pc := c.tr.trap.pc, exm := c.tr.trap.exm &&& c.sp.member
                         dix := if c.tr.trap.pfx then c.tr.trap.dix - 1 else c.tr.trap.dix
                         done := if c.tr.trap.uni then 0 else BitVec.ofNat 32 (frameWord s pa 3) &&& c.tr.trap.exm
                         pfx := none, wait := .ready, last := n })

/-- SVC in handler mode (R244, R389): the request goes to the supervisor, and the split waits for the answer. The
supervisor's answers: the result to k[K], or the end of the workgroup or the task. How many entries it grants is a free
value. -/
def Obligations.SvcAsksTheSupervisor : Prop :=
  (∀ k s c, Issues (.svc k) s c → c.tr.hmode = true → c.g.mode = .primary → c.task.rcd.integ ≠ 3 →
    Commands (.svc k) s c [c.k5 k] fun t => (t.updTrain c.w c.t fun tr => tr.updOutst c.tr.nextId fun x =>
      { x with waitsFor := some 1 }).updSp c fun q => { q with wait := .outst [c.tr.nextId] }) ∧
  (∀ (s : State) w t g tr o x, s.wg? w = some g → s.train? w t = some tr → tr.request? = some (o, x) →
    (x.toNat % 256 ≠ 1 → x.toNat % 256 ≠ 2 → x.toNat % 256 ≠ 3 →
      exec (.svcAnswer w t) s = .next (s.finishCommand w t o.id [0xFFFFFFFFFFFFFFFF]).wake) ∧
    (x.toNat % 256 = 2 → exec (.svcAnswer w t) s = .next (s.endWorkgroup w (tr.trap.endInfo g.wgid)).wake) ∧
    (x.toNat % 256 = 3 → exec (.svcAnswer w t) s = .next (s.endTask g.slot (tr.trap.endInfo g.wgid)).wake) ∧
    (∀ d, x.toNat % 256 = 1 → s.doms.look g.slot = some d → ∃ n, n ≤ x.toNat / 256 ∧ n ≤ 0xFFFFFF - d.lehr ∧
      exec (.svcAnswer w t) s = .next ((State.setDom { s with free := s.free + 1 } g.slot
        { d with lehr := d.lehr + n, free := d.free + n }).finishCommand w t o.id [BitVec.ofNat 64 n]).wake)) ∧
  (∀ (s : State) w t tr g x d o, s.train? w t = some tr → tr.outst? o = some x → s.wg? w = some g → x.insn = .svc d →
    ∃ t' tr', s.finishCommand w t o [0xFFFFFFFFFFFFFFFF] = t' ∧ t'.train? w t = some tr' ∧
      tr'.outst? o = some { x with waitsFor := none, writes := x.writes ++ [.k d.toNat 0xFFFFFFFFFFFFFFFF] })

/-! ### Ordering and memory -/

/-- ACQUIRE (R140): cluster scope and wider remove every global line from the core's L1; box scope starts a new guest
generation for the train. RELEASE (R140): at train scope the split's entries become visible to its train; at a wider one it
waits while an entry is in the store buffer, then sends a marker to a destination of USED and waits for it, and with nothing left to
fence it is done. FENCE (R139, R337): it waits for the
train's loads and atomics, and FULL for everything; then ACQ acquires, REL releases, AR and FULL do both, at the scope of
R144. -/
def Obligations.FencesAndScopesOrderTheTrain : Prop :=
  (∀ (s : State) w t g, s.wg? w = some g →
       (∀ sc, sc < 2 → s.acquire w t sc = s) ∧
       (∀ sc, (sc = 2 ∨ sc = 3) → s.acquire w t sc =
         s.setCore g.lastCore { s.core g.lastCore with l1 := (s.core g.lastCore).l1.filter fun x => x.priv, inbox := [] }) ∧
       (∀ tr, s.train? w t = some tr → ∃ u tr', s.acquire w t 4 = u ∧ u.bxgen = s.bxgen + 1 ∧ u.train? w t = some tr' ∧
         tr'.gg = s.bxgen + 1 ∧ (u.core g.lastCore).l1 = ((s.core g.lastCore).l1.filter fun x => x.priv) ∧ u.mem = s.mem)) ∧
  (∀ (s : State) w t p tr, s.train? w t = some tr →
       s.release w t p 0 = .done (s.setTrain w t { tr with
         sb := tr.sb.map fun e => if e.owners.contains p then { e with vis := true } else e }) ∧
       (∀ sc e, 0 < sc → (∀ q ∈ tr.splits, q.id = p → q.rel = none) → e ∈ tr.sb → e.stage = .held → e.owners ≠ [] →
         s.release w t p sc = .wait s) ∧
       (∀ sc, 0 < sc → (∀ q ∈ tr.splits, q.id = p → q.rel = none) → tr.sb = [] → tr.used = [] → tr.markers = [] →
         s.release w t p sc = .done (s.setTrain w t tr)) ∧
       (∀ d n, (d = .own ∨ d = .slice n) → (∀ q ∈ tr.splits, q.id = p → q.rel = none) → tr.sb = [] → tr.used = [d] → tr.markers = [] →
         ∃ tr', s.release w t p 3 = .wait (s.setTrain w t tr') ∧ tr'.markers = [⟨d, tr.nextId, false⟩] ∧ tr'.used = [d] ∧
           tr'.sb = [] ∧ tr'.k = tr.k ∧ tr'.v = tr.v ∧ tr'.p = tr.p)) ∧
  ((∀ sc kind s c, Issues (.fence sc kind) s c → c.fenceAwaits (kind == 3#2) = [] →
       (kind = 3#2 → s.engineBusy c.w c.t = false) →
       let n := if sc = 4#3 ∧ s.chipOnly c.task.rcd.tenant = true then 3 else sc.toNat
       let s0 := if sc = 4#3 ∧ s.chipOnly c.task.rcd.tenant = true then s.updTrain c.w c.t fun tr => { tr with demoted := true } else s
       (kind = 0#2 → exec (.fence sc kind) s = .next ((s0.acquire c.w c.t n).retire c)) ∧
       (∀ s1, kind = 1#2 → s0.release c.w c.t c.p n = .done s1 → exec (.fence sc kind) s = .next (s1.retire c)) ∧
       (∀ s1, kind = 2#2 ∨ kind = 3#2 → s0.release c.w c.t c.p n = .done s1 →
         exec (.fence sc kind) s = .next ((s1.acquire c.w c.t n).retire c))) ∧
     (∀ sc kind s c, Issues (.fence sc kind) s c → c.fenceAwaits (kind == 3#2) ≠ [] →
       exec (.fence sc kind) s = .next (s.stall c (.outst (c.fenceAwaits (kind == 3#2))))) ∧
     decode 0x9DA00000#32 = some (.fence 3 1) ∧ decode 0x9E600000#32 = some (.fence 4 3))

/-- LD, LD with sign extension and LDK (R352 to R354): the accesses are outstanding, in the order of the threads, at the
addresses k[K] + v[X] or k[K] + k[X]; no register and no byte of memory changes. -/
def Obligations.LoadsBecomeOutstanding : Prop :=
  (∀ d x k w l g, LoadsBegin (.ld d x k w l g) (widthBytes w.toNat) (widthAlign w.toNat)
    (fun c j => c.k5 k + BitVec.ofNat 64 (c.tr.getV j x.toNat).toNat) true fun c => c.threads) ∧
  (∀ d x k w l g, LoadsBegin (.ldS d x k w l g) (w.toNat + 1) (w.toNat + 1)
    (fun c j => c.k5 k + BitVec.ofNat 64 (c.tr.getV j x.toNat).toNat) true fun c => c.threads) ∧
  (∀ d x k w l, LoadsBegin (.ldk d x k w l) (widthBytes w.toNat) (widthAlign w.toNat)
    (fun c _ => c.k5 k + BitVec.ofNat 64 ((c.k5 x).toNat % 2 ^ 32)) false fun _ => [0]) ∧
  ([0, 1, 2, 3, 4, 5].map widthBytes = [1, 2, 4, 8, 16, 12]) ∧ ([0, 1, 2, 3, 4, 5].map widthAlign = [1, 2, 4, 8, 16, 4])

/-- LOAD_RETURN of an access homed here (R131): it is fixed to the bytes that memory holds, its registers take them with the
first byte lowest (R352, R354), and the thread is done. -/
def Obligations.LoadsReturnWhatMemoryHolds : Prop :=
  (∀ (s : State) w t o i g tr x l pa n d, s.wg? w = some g → s.train? w t = some tr → g.live = true → s.logFull g = false →
    tr.outst? o = some x → x.isLine = false → x.loads[i]? = some l → l.value = none → l.expired = false → l.fromLog = false →
    l.ctx = g.ctx → l.gen = g.ctxgen → l.j < 32 →
    l.locs = (List.range n).map (fun b => Loc.glob (pa + b)) → 0 < n → (∀ e ∈ s.trains, e.2.sb = []) → s.resp = [] →
    (∀ y ∈ tr.outst, y.id < o → y.loads = []) →
    (∀ b, b < n → s.isLocal (pa + b) = true ∧ s.pullPending (pa + b) = false ∧ s.pullLost (pa + b) = false ∧
      s.poisonAt (offOf (pa + b)) = false ∧ (s.core g.lastCore).sector? ((pa + b) / 32) = none) →
    let bs := (List.range n).map fun b => Memory.read s.mem (offOf (pa + b))
    ∃ t' tr', exec (.loadReturn w t o i d) s = .next t' ∧ t'.train? w t = some tr' ∧
      tr'.outst? o = some { x with
        loads := x.loads.set i { l with value := some bs, poison := false }
        writes := x.writes ++ loadRegs x.insn l.j bs, done := x.done ||| (1#32 <<< l.j) }) ∧
  (∀ d x k l g j b0 b1 b2 b3,
    loadRegs (.ld d x k 2 l g) j [b0, b1, b2, b3] = [.v j d.toNat (b3 ++ b2 ++ b1 ++ b0)] ∧
    loadRegs (.ld d x k 0 l g) j [b0] = [.v j d.toNat (b0.setWidth 32)] ∧
    loadRegs (.ldS d x k 0 l g) j [b0] = [.v j d.toNat (b0.signExtend 32)] ∧
    loadRegs (.ldk d x k 2 l) j [b0, b1, b2, b3] = [.k d.toNat ((b3 ++ b2 ++ b1 ++ b0).setWidth 64)])

/-- LONG_LATENCY_COMPLETE (R41) of an instruction that has its results and for which something waits: its registers are
written and it leaves; nothing else of the train changes but why its splits wait. -/
def Obligations.CompletionWritesTheRegisters : Prop :=
  ∀ (s : State) w t o g task tr x, s.wg? w = some g → s.train? w t = some tr → s.taskOf? g = some task → g.live = true →
    tr.outst? o = some x → x.kept = false → x.fault = none → x.waitsFor = none → x.atoms = [] → x.acq = none →
    (∀ l ∈ x.loads, l.value.isSome = true) → x.window = 0 → (∀ d h sc, x.insn ≠ .srej d h sc) →
    ∃ tr', exec (.longLatencyComplete w t o) s = .next (s.setTrain w t tr').wake ∧
      tr'.outst = tr.outst.filter (fun y => y.id != o) ∧ tr'.splits = tr.splits ∧ tr'.sb = tr.sb ∧ tr'.p = tr.p ∧
      (∀ j r y, x.writes = [.v j r y] → j < 32 → r < 64 → tr'.k = tr.k ∧
        ∀ j' r', j' < 32 → r' < 64 → tr'.getV j' r' = if r' = r ∧ j' = j then y else tr.getV j' r') ∧
      (∀ r y, x.writes = [.k r y] → tr'.v = tr.v ∧ ∀ r', tr'.getK r' = if r' = r then y else tr.getK r')

/-- ST of one acting thread and STK (R383 to R385) at plain memory, without a release: the bytes of the registers, the first
lowest, wait in the store buffer for the locations that the address names; memory is as it was. ST.E6 (R124): code e of a
packed row of 6-bit codes covers bits 6 × (e mod 16) on of the 12 bytes at k[K] + 12 × (e / 16), and writes no other bit.
Memory is a map of bytes (R3, R126): a read finds the last write, and a write leaves every other byte alone. -/
def Obligations.StoresWaitInTheBuffer : Prop :=
  ((∀ d x k w l g s c j locs, Issues (.st d x k w l g) s c → c.threads = [j] → w.toNat ≤ 5 →
       StoresAt s c j (widthBytes w.toNat) (widthAlign w.toNat) (c.k5 k + BitVec.ofNat 64 (c.tr.getV j x.toNat).toNat) true locs →
       StoreResult (.st d x k w l g) s c locs fun b =>
         BitVec.ofNat 8 ((c.tr.getV j (d.toNat + b / 4)).toNat / 256 ^ (b % 4))) ∧
     (∀ d x k w l s c locs, Issues (.stk d x k w l) s c →
       StoresAt s c 0 (widthBytes w.toNat) (widthAlign w.toNat) (c.k5 k + BitVec.ofNat 64 ((c.k5 x).toNat % 2 ^ 32)) false locs →
       StoreResult (.stk d x k w l) s c locs fun b =>
         BitVec.ofNat 8 ((c.tr.getK (d.toNat + b / 8)).toNat / 256 ^ (b % 8)))) ∧
  (∀ base e code, let (a, bs) := e6Bytes base e code
       a = BitVec.ofNat 64 (base + 12 * (e / 16) + 6 * (e % 16) / 8) ∧
       (bs.length = if 2 < 6 * (e % 16) % 8 then 2 else 1) ∧
       ∀ n, n < 8 * bs.length →
         let inside := decide (6 * (e % 16) % 8 ≤ n) && decide (n < 6 * (e % 16) % 8 + 6)
         ((bs.getD (n / 8) (0, 0)).1.getLsbD (n % 8) = inside) ∧
         (inside = true → (bs.getD (n / 8) (0, 0)).2.getLsbD (n % 8) = code.testBit (n - 6 * (e % 16) % 8))) ∧
  (∀ m a b x, Memory.read (Memory.write m a x) b = if b = a then x else Memory.read m b)

/-- The store buffer's way to memory (R15, R134, R145, R160): the oldest entry towards a home leaves the buffer, its home grants
it in the order in which its core's writes were sent, which changes exactly the bytes and bits it names, and its acknowledgement removes it. -/
def Obligations.StoresReachMemoryWhenGranted : Prop :=
  (∀ (s : State) w t e g tr x n, s.wg? w = some g → s.train? w t = some tr → g.live = true → tr.entry? e = some x →
    x.dest = .slice n → x.stage = .held → (∀ b ∈ x.bytes, ∃ pa, b.loc = .glob pa ∧ s.pullPending pa = false) →
    (∀ y ∈ tr.sb, y.inBuffer = true → y.dest = x.dest → x.id ≤ y.id) → (∀ y ∈ tr.outst, y.loads = []) →
    exec (.storeBufferDrain w t e) s = .next (State.updTrain { s with nextId := s.nextId + 1 } w t fun tr => tr.updEntry e fun y =>
      { y with stage := .sent, seq := s.nextId, core := g.lastCore }).wake) ∧
  (∀ (s : State) w t e g tr x n, s.wg? w = some g → s.train? w t = some tr → tr.entry? e = some x → x.dest = .slice n →
    x.stage = .sent → s.clocked = true →
    (∀ k ∈ s.trains, ∀ y ∈ k.2.sb, y.stage = .sent → y.core = x.core → y.dest = x.dest → x.seq ≤ y.seq) →
    (∀ b ∈ x.bytes, ∃ pa, b.loc = .glob pa ∧ s.pullPending pa = false ∧ s.pullLost pa = false) →
    (x.bytes.Pairwise fun a b => ∀ pa pb, a.loc = .glob pa → b.loc = .glob pb → offOf pa ≠ offOf pb) →
    ∃ u, exec (.homeWriteGrant w t e) s = .next u ∧
      (∀ b ∈ x.bytes, ∀ pa, b.loc = .glob pa → ∀ i, (Memory.read u.mem (offOf pa)).getLsbD i =
        if b.mask.getLsbD i then b.val.getLsbD i else (Memory.read s.mem (offOf pa)).getLsbD i) ∧
      (∀ a, (∀ b ∈ x.bytes, ∀ pa, b.loc = .glob pa → offOf pa ≠ a) → Memory.read u.mem a = Memory.read s.mem a)) ∧
  (∀ (s : State) w t e g tr x n, s.wg? w = some g → s.train? w t = some tr → tr.entry? e = some x → x.dest = .slice n →
    x.stage = .granted → (∀ k ∈ s.trains, ∀ y ∈ k.2.sb, y.stage = .granted → y.core = x.core → y.dest = x.dest → x.seq ≤ y.seq) →
    ∃ u tr', exec (.writeAck w t e) s = .next u ∧ u.mem = s.mem ∧ u.train? w t = some tr' ∧
      tr'.sb = tr.sb.filter fun y => y.id != e)

/-- An ATOM of one acting thread at a home of this chip (R293): one indivisible read and write of the target in memory, the
old value on its way to the destination, and every other byte of memory as it was. -/
def Obligations.AtomicsReadAndWriteAtOnce : Prop :=
  ∀ i op d x k s c j pa, atomParts i = some (op, d, x, k) → Issues i s c → c.threads = [j] →
    AtomAt s c j op (c.k5 k + BitVec.ofNat 64 (c.tr.getV j x.toNat).toNat) pa →
    let n := if op = .add64 ∨ op = .exch64 ∨ op = .cas64 then 8 else 4
    let old := littleEndian ((List.range n).map fun b => Memory.read s.mem (offOf pa + b))
    let (a, b) := atomArgs op c j d.toNat
    ∃ t tr o, exec i s = .next t ∧ t.train? c.w c.t = some tr ∧ tr.k = c.tr.k ∧ tr.v = c.tr.v ∧ tr.p = c.tr.p ∧
      tr.outst.getLast? = some o ∧ o.id = c.tr.nextId ∧ o.insn = i ∧
      o.writes = (if n = 8 then [.v j d.toNat (BitVec.ofNat 32 old), .v j (d.toNat + 1) (BitVec.ofNat 32 (old / 2 ^ 32))]
        else [.v j d.toNat (BitVec.ofNat 32 old)]) ∧
      (∀ m, Memory.read t.mem m = if offOf pa ≤ m ∧ m < offOf pa + n
        then BitVec.ofNat 8 ((atomNew op old a b).getD old / 256 ^ (m - offOf pa)) else Memory.read s.mem m)

/-! ### Barriers, engines and units -/

/-- BINI (R98, R303): the register is initialised, every train of the workgroup has seen its phase, and a cluster-scope one
becomes a leaf of its tree; a malformed operand raises ILLEGAL. BARV (R99, R300), BEXP (R301): the arrival, with its train's
bit, and the expected bytes; then the phase completes if it can. A register without INIT raises ILLEGAL; a train that has
arrived waits for the phase. A phase of a workgroup's register completes as soon as all have arrived and no byte is expected
(R98): PHASE flips, the counts clear, and the trains that wait on it go on. -/
def Obligations.BarriersCountAndComplete : Prop :=
  (∀ a n l s c, Issues (.bini a n l) s c →
       let x := (c.k5 a).toNat
       let b := c.g.bar n.toNat
       (x / 512 ≠ 0 ∨ x % 128 = 0 ∨ 65 < x % 128 → exec (.bini a n l) s = .next (s.raiseUniform c .illegal 0)) ∧
       (x / 512 = 0 → 0 < x % 128 → x % 128 ≤ 65 → b.scope = false → b.sent = false → s.root? c.g n.toNat = none →
         s.anyWaiter c.w n.toNat = false → ∃ u : State, exec (.bini a n l) s = .next (u.finishLater c []) ∧
           u = { s with
             wgs := s.wgs.set c.w (c.g.setBar n.toNat { b with
               expect := x % 128, strm := x / 128 % 2 == 1, scope := x / 256 % 2 == 1, init := true
               arrived := 0, pend := 0, err := 0, came := 0, sent := false })
             roots := if x / 256 % 2 = 1 then s.roots ++ [⟨c.g.slot, c.g.group, n.toNat + 16 * c.g.mode.num, [c.w], [], none, 0⟩]
               else s.roots
             trains := u.trains } ∧
           ∀ key, u.trains.look key = (s.trains.look key).map fun tr => if key / 64 = c.w
             then { tr with seen := ofBits 16 fun m => if m = n.toNat then b.phase else tr.seen.getLsbD m } else tr)) ∧
  ((∀ n l s c, Issues (.barv n l) s c → (c.g.bar n.toNat).init = true → (c.g.bar n.toNat).came.getLsbD c.tr.trn = false →
       (c.g.bar n.toNat).arrived < (c.g.bar n.toNat).expect → ∀ s1, s.release c.w c.t c.p (if (c.g.bar n.toNat).scope then 2 else 1) = .done s1 →
       exec (.barv n l) s = .next (((s1.finishLater c []).updWg c.w fun g => g.setBar n.toNat { g.bar n.toNat with
         arrived := (g.bar n.toNat).arrived + 1, came := (g.bar n.toNat).came ||| (1#64 <<< c.tr.trn) }).barSettle c.w n.toNat)) ∧
     (∀ n l s c, Issues (.barv n l) s c → (c.g.bar n.toNat).init = true →
       (c.g.bar n.toNat).came.getLsbD c.tr.trn = true ∨ (c.g.bar n.toNat).expect ≤ (c.g.bar n.toNat).arrived →
       exec (.barv n l) s = .next (s.stall c .retry)) ∧
     (∀ a n l s c, Issues (.bexp a n l) s c → (c.g.bar n.toNat).init = true →
       exec (.bexp a n l) s = .next (((s.finishLater c []).updWg c.w fun g => g.setBar n.toNat { g.bar n.toNat with
         pend := BitVec.ofNat 32 ((g.bar n.toNat).pend.toNat + (c.k5 a).toNat) }).barSettle c.w n.toNat)) ∧
     (∀ a n l i s c, (i = .barv n l ∨ i = .bexp a n l ∨ i = .btst a n l ∨ i = .bwait a n l) → Issues i s c →
       (c.g.bar n.toNat).init = false → exec i s = .next (s.raiseUniform c .illegal 0))) ∧
  (∀ (s : State) w b g, s.wg? w = some g → (g.bar b).scope = false →
       ((g.bar b).init = false ∨ (g.bar b).arrived ≠ (g.bar b).expect ∨ (g.bar b).pend ≠ 0 → s.barSettle w b = s) ∧
       ((g.bar b).init = true → (g.bar b).arrived = (g.bar b).expect → (g.bar b).pend = 0 →
         ∃ u, s.barSettle w b = u ∧ u.mem = s.mem ∧ u.wgs = s.wgs.set w (g.setBar b { g.bar b with
           phase := !(g.bar b).phase, lastErr := (g.bar b).err, lastVal := barValue (g.bar b)
           arrived := 0, pend := 0, err := 0, came := 0, since := none, held := 0, sent := false }) ∧
         ∀ key, u.trains.look key = (s.trains.look key).map fun tr => if key / 64 = w then { tr with
           splits := tr.splits.map fun q => match q.wait with
             | .barrier n ph => if n = b then { q with wait := .flipped ph } else q
             | _ => q } else tr))

/-- BTST (R299, R307) and BWAIT (R98, R308): BTST reads the register; both observe a completed phase once, with the acquire
of R148, or ENGINE for a phase that failed (R96). BWAIT waits while PHASE is the bit that it names. -/
def Obligations.BarrierTestsAndWaits : Prop :=
  (∀ a n l s c, Issues (.btst a n l) s c → (c.g.bar n.toNat).init = true →
    Observes (.btst a n l) s c n.toNat (c.g.bar n.toNat).phase [.k a.toNat (barValue (c.g.bar n.toNat))]) ∧
  (∀ a n l s c, Issues (.bwait a n l) s c → (c.g.bar n.toNat).init = true → (∀ ph, c.sp.wait ≠ .flipped ph) →
    ((c.g.bar n.toNat).phase = (c.k5 a).getLsbD 0 →
      exec (.bwait a n l) s = .next ((s.startWatch c n.toNat).stall c (.barrier n.toNat ((c.k5 a).getLsbD 0)))) ∧
    ((c.g.bar n.toNat).phase ≠ (c.k5 a).getLsbD 0 → Observes (.bwait a n l) s c n.toNat (c.g.bar n.toNat).phase []))

/-- CPY and CPYT (R94, R316, R317, R319): the streamer's queue takes the command behind those that are there, and the
instruction has completed its issue. CPYM (R95, R318) of a core that owns its accumulator store, or that takes it (R87). CLST
(R311, R312) of a tenant without CHIPONLY: the collective of its descriptor enters the streamer's queue. -/
def Obligations.CopiesEnterTheStreamerQueue : Prop :=
  ((∀ a b n v z l s c, CopyReady s c n v z →
       let dst := c.k5 a; let src := c.k5 b; let count := c.tr.getK (b.toNat + 1)
       dst.toNat % 16 = 0 → src.toNat % 16 = 0 → count.toNat % 16 = 0 → count.toNat ≤ 0x1000000 →
       (Issues (.cpyG2s a b n v z l) s c → isShare dst = true → isGlob src = true →
         Queued (.cpyG2s a b n v z l) s c (.linear true dst src count.toNat) n v z [dst, src, count]) ∧
       (Issues (.cpyS2g a b n v z l) s c → isGlob dst = true → isShare src = true →
         Queued (.cpyS2g a b n v z l) s c (.linear false dst src count.toNat) n v z [dst, src, count])) ∧
     (∀ a b n v z l s c s1 bs, CopyReady s c n v z →
       let scr := c.k5 a; let rcd := c.k5 b
       let ops := [scr, rcd, c.tr.getK (b.toNat + 1), c.tr.getK (b.toNat + 2), c.tr.getK (b.toNat + 3)]
       isGlob rcd = true → rcd.toNat % 64 = 0 → scr.toNat % 16 = 0 → isShare scr = true →
       (s.core c.core).recs = [] → s.issueRead c 33 recordPos (rcd.toNat % 2 ^ 48) 192 = .ok s1 bs false →
       (Issues (.cpytG2s a b n v z l) s c → (Shape.parse bs).malformed bs c.task.rcd false = false →
         Queued (.cpytG2s a b n v z l) s c (.box true scr (Shape.parse bs) (c.origin b)) n v z ops) ∧
       (Issues (.cpytS2g a b n v z l) s c → (Shape.parse bs).malformed bs c.task.rcd true = false →
         Queued (.cpytS2g a b n v z l) s c (.box false scr (Shape.parse bs) (c.origin b)) n v z ops))) ∧
  (∀ a b n v z l t s c s1 bs, CopyReady s c n v z → Issues (.cpym a b n v z l t) s c → OwnsStore s c →
       let desc := c.k5 a; let rcd := c.k5 b
       s.isFollower c.w c.g c.task.rcd = false → cpymBad desc c.task.rcd = false → isGlob rcd = true → rcd.toNat % 64 = 0 →
       (s.core c.core).recs = [] → s.issueRead c 33 recordPos (rcd.toNat % 2 ^ 48) 192 = .ok s1 bs false →
       (Shape.parse bs).malformed bs c.task.rcd false = false → (Shape.parse bs).tileBad c.task.rcd = false →
       TakesStore (.cpym a b n v z l t) s c ∧
         Queued (.cpym a b n v z l t) s c (.tile t.toNat (Shape.parse bs) (c.origin b) desc) n v z
           [desc, rcd, c.tr.getK (b.toNat + 1), c.tr.getK (b.toNat + 2), c.tr.getK (b.toNat + 3)]) ∧
  (∀ i fn a n f s c s1 bs, collectiveParts i = some (fn, a, n, f) → CopyReady s c n 1 0 → Issues i s c →
       isGlob (c.k5 a) = true → (c.k5 a).toNat % 64 = 0 → s.chipOnly c.task.rcd.tenant = false →
       s.issueRead c 33 recordPos (c.k5 a).toNat 64 = .ok s1 bs false →
       (CollDesc.parse bs).malformed bs s.chipId fn (collBytes (slotElem (c.task.rcd.slotW f.toNat))) = false →
       slotElem (c.task.rcd.slotW f.toNat) ∈ [0, 1, 2, 8] → slotScale (c.task.rcd.slotW f.toNat) = false →
       Queued i s c (.coll fn (CollDesc.parse bs) f.toNat) n 1 0
         [BitVec.ofNat 64 (CollDesc.parse bs).saddr, BitVec.ofNat 64 (CollDesc.parse bs).daddr,
          BitVec.ofNat 64 (fieldOfBytes bs 16 8), BitVec.ofNat 64 (CollDesc.parse bs).tag])

/-- The tile and matrix instructions: one that passes its checks enters its core's sequencer queue (R82, which holds 16), and is
outstanding until it completes there: TLD and TST (R392 to R394), TZR (R395), ASV and ARS (R292), LSTAT and its .N32 (R357), PLSW
(R370), HCVT (R339). The five forms that consult ACOWN (R87), AZR (R297), ARD (R291), AWR (R296), MSTR and its .N32 (R364): of a
context that owns the store, or takes it, the same; one that breaks its own checks raises ILLEGAL; another owner's store raises
ACC_OWNER. -/
def Obligations.MacroOperationsEnterTheSequencer : Prop :=
  (∀ s c, (s.sequencerOf c.core).length < 16 →
       (∀ t sl x i f l k, Issues (.tld t sl x i f l k) s c → sliceBad sl (c.task.rcd.slotW f.toNat) (c.index x i) = false →
         s.imageFault c (c.tr.getK k.toNat) (imageSize sl (c.task.rcd.slotW f.toNat)) (imageAlign sl (c.task.rcd.slotW f.toNat)) .load = none →
         Sequenced (.tld t sl x i f l k) s c (c.tr.getK k.toNat) (c.index x i) 0 false) ∧
       (∀ t sl x i f l k, Issues (.tst t sl x i f l k) s c → sliceBad sl (c.task.rcd.slotW f.toNat) (c.index x i) = false →
         s.imageFault c (c.tr.getK k.toNat) (imageSize sl (c.task.rcd.slotW f.toNat)) (imageAlign sl (c.task.rcd.slotW f.toNat)) .store = none →
         Sequenced (.tst t sl x i f l k) s c (c.tr.getK k.toNat) (c.index x i) 0 false) ∧
       (∀ t sl x i f l, Issues (.tzr t sl x i f l) s c → sliceBad sl (c.task.rcd.slotW f.toNat) (c.index x i) = false →
         slotElem (c.task.rcd.slotW f.toNat) ≠ 11 → Sequenced (.tzr t sl x i f l) s c 0 (c.index x i) 0 false) ∧
       (∀ a x i l, Issues (.asv a x i l) s c → c.index x i ≤ 255 → isGlob (c.k5 a) = true → (c.k5 a).toNat % 128 = 0 →
         s.pagesFault c ((c.k5 a).toNat % 2 ^ 48) 10240 .store = none → Sequenced (.asv a x i l) s c (c.k5 a) (c.index x i) 0 false) ∧
       (∀ a x i l, Issues (.ars a x i l) s c → c.index x i ≤ 255 → isGlob (c.k5 a) = true → (c.k5 a).toNat % 128 = 0 →
         s.pagesFault c ((c.k5 a).toNat % 2 ^ 48) 10240 .load = none → Sequenced (.ars a x i l) s c (c.k5 a) (c.index x i) 0 false) ∧
       (∀ t h f l, Issues (.lstat t h f l) s c → windowOk (c.task.rcd.slotW f.toNat) h.toNat = true →
         Sequenced (.lstat t h f l) s c 0 0 0 false) ∧
       (∀ t h f l, Issues (.lstatN32 t h f l) s c → windowOk (c.task.rcd.slotW f.toNat) h.toNat = true →
         Sequenced (.lstatN32 t h f l) s c 0 0 0 false) ∧
       (∀ l, Issues (.plsw l) s c → s.isFollower c.w c.g c.task.rcd = false → Sequenced (.plsw l) s c 0 0 0 false) ∧
       (∀ t sl x i f l w n, Issues (.hcvt t sl x i f l w n) s c → sliceBad sl (c.task.rcd.slotW f.toNat) (c.index x i) = false →
         slotElem (c.task.rcd.slotW f.toNat) ≠ 11 → hcvtTarget (slotFmt (c.task.rcd.slotW f.toNat)) (w == 0) = true →
         Sequenced (.hcvt t sl x i f l w n) s c 0 (c.index x i) (c.slotMode (c.task.rcd.slotW f.toNat)).1
           (c.slotMode (c.task.rcd.slotW f.toNat)).2)) ∧
  (∀ s c i, Issues i s c →
       (∀ idx mode sat, storeArgs s c i = some (idx, mode, sat) → (s.sequencerOf c.core).length < 16 →
         (OwnsStore s c → Sequenced i s c 0 idx mode sat ∧ TakesStore i s c) ∧
         (c.g.tileMark = none → (s.core c.core).valid = true → (s.core c.core).owner ≠ c.g.ctx → exec i s =
           .next (s.raiseUniform c .accOwner (BitVec.ofNat 64 (0x0000FFFFFFC00000 + 64 * c.g.ctx.toNat))))) ∧
       (∀ t h x m f l, (i = .azr x m l ∨ i = .ard t h x m f l ∨ i = .awr t h x m f l ∨ i = .mstr t h x m f l ∨ i = .mstrN32 t h x m f l) →
         storeArgs s c i = none → exec i s = .next (s.raiseUniform c .illegal 0)))

/-- The snapshot commands (R158, R376 to R380). SNAP, SACC, SREJ and SQRY of a task with a domain enter the domain's queue with their
operand, and are outstanding; SQRY's field value 0 names the domain as a whole. SNAP of a task without a domain takes no fault and has
the result 0 (R377); SACC, SREJ and SQRY raise ILLEGAL there, and where bits [63:7] of the handle are not zero. -/
def Obligations.SnapshotCommandsQueueAtTheirDomain : Prop :=
  (∀ s c, Simple s c →
    (∀ d a l dm, Issues (.snap d a l) s c → c.task.rcd.lehr ≠ 0 → isGlob (c.k5 a) = true → (c.k5 a).toNat % 8 = 0 →
      s.doms.look c.g.slot = some dm → Commands (.snap d a l) s c [c.k5 a] (queuedAt c dm (.snap d a l) (c.k5 a))) ∧
    (∀ d a l, Issues (.snap d a l) s c → c.task.rcd.lehr = 0 → s.doms.look c.g.slot = none →
      Commands (.snap d a l) s c [c.k5 a] fun t => t.finishCommand c.w c.t c.tr.nextId [0]) ∧
    (∀ h l dm, Issues (.sacc h l) s c → c.task.rcd.lehr ≠ 0 → (c.k5 h).toNat < 128 → s.doms.look c.g.slot = some dm →
      Commands (.sacc h l) s c [c.k5 h] (queuedAt c dm (.sacc h l) (c.k5 h))) ∧
    (∀ h l sc dm, Issues (.srej h l sc) s c → c.task.rcd.lehr ≠ 0 → (c.k5 h).toNat < 128 → s.doms.look c.g.slot = some dm →
      Commands (.srej h l sc) s c [c.k5 h] (queuedAt c dm (.srej h l sc) (c.k5 h))) ∧
    (∀ d h l dm, Issues (.sqry d h l) s c → c.task.rcd.lehr ≠ 0 → h ≠ 0 → (c.k5 h).toNat < 128 →
      s.doms.look c.g.slot = some dm → Commands (.sqry d h l) s c [c.k5 h] (queuedAt c dm (.sqry d h l) (c.k5 h))) ∧
    (∀ d l dm, Issues (.sqry d 0 l) s c → c.task.rcd.lehr ≠ 0 →
      s.doms.look c.g.slot = some dm → Commands (.sqry d 0 l) s c [0] (queuedAt c dm (.sqry d 0 l) 0))) ∧
  (∀ s c i d h l sc, (i = .sacc h l ∨ i = .srej h l sc ∨ i = .sqry d h l ∧ h ≠ 0) → Issues i s c →
    c.task.rcd.lehr = 0 ∨ 128 ≤ (c.k5 h).toNat → exec i s = .next (s.raiseUniform c .illegal 0)) ∧
  (∀ s c d l, Issues (.sqry d 0 l) s c → c.task.rcd.lehr = 0 → exec (.sqry d 0 l) s = .next (s.raiseUniform c .illegal 0))

/-- EVPST (R330) gives the post unit a record with its five operands, of type 2, or nothing where the task has no queue; its ELAPSED is a
free value (notes/assumptions/5.md). EVPOP (R328, R329) of an empty queue on this chip returns zeros; of another its oldest record, HEAD
counts one, with an acquire at chip scope. LNCH (R188) submits the record it has read; TREL (R189, R396) lets the task that it names go
on and returns 1, or 0. RFNC (R93, R373) is outstanding until the train's earlier writes are performed; its core's record cache is empty
then. AUDM (R220, R295) folds its operand into the digest of every thread of EXM, thread 0's in its place behind an unfinished TST's; no
other digest changes. DIGR (R220, R325) returns the train's digest, which folds every launched thread's in ascending order; one with an
unfinished TST waits (notes/assumptions/85.md). -/
def Obligations.UnitCommandsAnswer : Prop :=
  (∀ s c, Simple s c →
       (∀ a l, Issues (.evpst a l) s c →
         (c.task.rcd.evq ≠ 0 → Commands (.evpst a l) s c ((List.range 5).map fun n => c.tr.getK (a.toNat + n)) fun t =>
           { t with free := t.free + 1, posts := t.posts ++ [{
               slot := c.g.slot, sub := c.task.sub, type := 2, cause := 0, evq := c.task.rcd.evq, task := c.task.recAddr
               tenant := c.task.rcd.tenant, port := c.task.port
               elapsed := if c.task.dispatched then Config.elapsed t.free else 0
               payload := (List.range 40).map fun b => BitVec.ofNat 8 ((c.tr.getK (a.toNat + b / 8)).toNat / 256 ^ (b % 8))
               outst := some (c.w, c.t, c.tr.nextId) }] }) ∧
         (c.task.rcd.evq = 0 → Commands (.evpst a l) s c ((List.range 5).map fun n => c.tr.getK (a.toNat + n)) fun t =>
           t.finishCommand c.w c.t c.tr.nextId [])) ∧
       (∀ d b l off h, Issues (.evpop d b l) s c → isGlob (c.k5 b) = true → (c.k5 b).toNat % 64 = 0 → (s.core c.core).inbox = [] →
         s.findQueue c.core c.task c.tr.hmode (c.k5 b).toNat = .here off h false → h.bad = false → h.tail = h.head →
         Commands (.evpop d b l) s c [c.k5 b] fun t => t.finishCommand c.w c.t c.tr.nextId (List.replicate 8 0)) ∧
       (∀ d b l off h bs pa disc uc, Issues (.evpop d b l) s c → isGlob (c.k5 b) = true → (c.k5 b).toNat % 64 = 0 →
         (s.core c.core).inbox = [] →
         s.findQueue c.core c.task c.tr.hmode (c.k5 b).toNat = .here off h false → h.bad = false → h.tail ≠ h.head →
         s.reach c.core c.task c.tr.hmode (slotVa (c.k5 b).toNat h.cap h.head) .load = .ok pa disc uc →
         s.readLine c.w (slotVa (c.k5 b).toNat h.cap h.head) .load = .ready bs 0 →
         Commands (.evpop d b l) s c [c.k5 b] fun t =>
           (((t.l2Use (s.boxPa off) c.task.rcd.tenant).writeWord (off + 8) (h.head + 1)).acquire c.w c.t 3).finishCommand c.w c.t
             c.tr.nextId (recordWords ((bs.drop (64 * (slotVa (c.k5 b).toNat h.cap h.head % 128 / 64))).take 64))) ∧
       (∀ d b l s1 s2 bs, Issues (.lnch d b l) s c → isGlob (c.k5 b) = true → (c.k5 b).toNat % 64 = 0 →
         s.release c.w c.t c.p 3 = .done s1 → s1.issueRead c 35 recordPos (c.k5 b).toNat 512 = .ok s2 bs false →
         (s2.launchBad c.task.rcd.tenant bs = false →
           CommandsFrom s2 (.lnch d b l) s c (c.k5 b :: 0 :: wordsOf 64 bs) fun t => t.launchStep c.w c.t c.tr.nextId) ∧
         (s2.launchBad c.task.rcd.tenant bs = true → exec (.lnch d b l) s = .next (s2.raiseLogged c .record (c.k5 b)))) ∧
       (∀ d b l, Issues (.trel d b l) s c → Commands (.trel d b l) s c [c.k5 b] fun t =>
         match s.tagged (c.k5 b) with
         | some (slot, task) => match task.released with
           | some task' => (t.setTask slot task').finishCommand c.w c.t c.tr.nextId [1]
           | none => t.finishCommand c.w c.t c.tr.nextId [0]
         | none => t.finishCommand c.w c.t c.tr.nextId [0])) ∧
  ((∀ (s : State) w t o g task tr x n bs addr, s.wg? w = some g → s.train? w t = some tr → s.taskOf? g = some task → tr.outst? o = some x →
       x.ops = addr :: 0 :: wordsOf 64 bs → bs.length = 512 →
       s.launchStep w t o = State.finishCommand (s.submitTask (.parse bs) addr none).2 w t o [(s.submitTask (.parse bs) addr none).1] ∧
       ((∀ k, k < n → (s.task? k).isSome = true) → n < Config.inFlight → s.task? n = none →
         (s.submitTask (.parse bs) addr none).1 = taskTag n s.subNext)) ∧
     (∀ l s c, Issues (.rfnc l) s c → Commands (.rfnc l) s c [] id) ∧
     (∀ (s : State) w t o g task tr x l n, s.wg? w = some g → s.train? w t = some tr → s.taskOf? g = some task → tr.outst? o = some x →
       x.insn = .rfnc l → x.waitsFor = some n → x.kept = false → s.atWork w = true → tr.sb = [] → s.resp = [] →
       Happens (.longLatencyComplete w t o) s ((s.setCore g.lastCore { s.core g.lastCore with recs := [] }).updTrain w t fun tr =>
         tr.updOutst o fun x => { x with waitsFor := none })) ∧
     (∀ a l s c, Issues (.audm a l) s c → ∃ u tr, exec (.audm a l) s = .next (u.finishLater c []) ∧
       u = s.setTrain c.w c.t tr ∧ tr.k = c.tr.k ∧ tr.v = c.tr.v ∧ tr.p = c.tr.p ∧ tr.sb = c.tr.sb ∧ tr.outst = c.tr.outst ∧
       tr.splits = c.tr.splits ∧
       (∀ j, j < 32 → j ≠ 0 ∨ c.tr.dq = [] → tr.digest j =
         if c.sp.exm.getLsbD j = true then fold (c.tr.digest j) 0x0002000000000000 (c.k5 a) else c.tr.digest j) ∧
       (c.tr.dq ≠ [] → tr.digest 0 = c.tr.digest 0 ∧ tr.dq = c.tr.dq ++
         if c.sp.exm.getLsbD 0 = true then [⟨0, true, [(0x0002000000000000, c.k5 a)]⟩] else [])) ∧
     (∀ a l s c, Issues (.digr a l) s c →
       (c.tr.tstRuns = false → exec (.digr a l) s = .next (s.finishLater c [.k a.toNat c.tr.tdNow])) ∧
       (c.tr.tstRuns = true → exec (.digr a l) s = .next (s.stall c .retry))) ∧
     (∀ tr : Train, tr.dq = [] → tr.tstRuns = false ∧ tr.tdNow =
       ((List.range 32).filter fun j => tr.launched.getLsbD j).foldl (fun d j => fold d (BitVec.ofNat 64 j) (tr.digest j))
         0x71C42A9E0D5B863F))

/-- HMAP (R114, R343, R344): a region without or with a mapping that lies in the task's leases is made with the lowest free handle, which
is the result; without room or a free handle it raises HANDLE, and with a mapping outside the leases LEASE. HGIV (R115, R345): a region
that its workgroup holds is offered to another workgroup of the cluster. HTAK (R346): the region offered to the workgroup is taken with
an acquire at cluster scope and the result 1; where none is offered the result is 0. HFLS (R340) of a region that its workgroup holds
and has not offered is outstanding, with where the region begins. -/
def Obligations.RegionsAreMadeGivenAndTaken : Prop :=
  ∀ s c, Simple s c →
    (∀ d o l, Issues (.hmap d o l) s c →
      let off := (c.k5 o).toNat; let len := (c.tr.getK (o.toNat + 1)).toNat; let mp := c.tr.getK (o.toNat + 2)
      let map := if mp = 0 then none else some mp.toNat
      off % 128 = 0 → len % 128 = 0 → mp.toNat % 128 = 0 → mp.toNat < 2 ^ 48 →
      (∀ h, s.mayMap c.w c.task.rcd.scratch off len map.isSome = true → s.freeHandle c.w c.g.slot c.g.group = some h →
        (mp = 0 ∨ c.task.leased mp.toNat len = true → Commands (.hmap d o l) s c [c.k5 o, c.tr.getK (o.toNat + 1), mp] fun t =>
          (State.finishCommand { t with regions := t.regions ++ [⟨c.g.slot, c.g.sub, c.g.group, h, c.w, c.w, none, off, len, map, []⟩] }
            c.w c.t c.tr.nextId [BitVec.ofNat 64 h])) ∧
        (mp ≠ 0 → c.task.leased mp.toNat len = false → exec (.hmap d o l) s = .next (s.raiseUniform c .lease mp))) ∧
      (s.mayMap c.w c.task.rcd.scratch off len map.isSome = false ∨ s.freeHandle c.w c.g.slot c.g.group = none →
        exec (.hmap d o l) s = .next (s.raiseUniform c .handle (c.k5 o)))) ∧
    (∀ h p l r v, Issues (.hgiv h p l) s c → (c.k5 h).toNat < 256 → (c.k5 p).toNat < 256 → c.k5 h ≠ 0 →
      s.peerWg? c.g (c.k5 p).toNat = some v → v ≠ c.w → v < 2 ^ 64 →
      s.region? c.w c.g.slot c.g.group (c.k5 h).toNat = some r → r.holder = c.w → r.offered = none →
      (∀ e ∈ s.trains, ∀ x ∈ e.2.outst, ∀ h' l', x.insn ≠ .hfls h' l') →
      Commands (.hgiv h p l) s c [c.k5 h, BitVec.ofNat 64 v] fun t =>
        (t.setRegion { r with offered := some v }).finishCommand c.w c.t c.tr.nextId []) ∧
    (∀ d h l, Issues (.htak d h l) s c → (c.k5 h).toNat < 256 →
      (∀ r, c.k5 h ≠ 0 → s.regions.find? (fun r => r.handle == (c.k5 h).toNat && r.offered == some c.w) = some r →
        Commands (.htak d h l) s c [c.k5 h] fun t =>
          ((t.setRegion { r with holder := c.w, offered := none }).acquire c.w c.t 2).finishCommand c.w c.t c.tr.nextId [1]) ∧
      (c.k5 h = 0 ∨ (∀ r ∈ s.regions, r.handle = (c.k5 h).toNat → r.offered ≠ some c.w) →
        Commands (.htak d h l) s c [c.k5 h] fun t => t.finishCommand c.w c.t c.tr.nextId [0])) ∧
    (∀ h l r, Issues (.hfls h l) s c → (c.k5 h).toNat < 256 → c.k5 h ≠ 0 →
      s.region? c.w c.g.slot c.g.group (c.k5 h).toNat = some r → r.holder = c.w → r.offered = none →
      ∃ t tr o m, exec (.hfls h l) s = .next t ∧ Beside c s t ∧ t.train? c.w c.t = some tr ∧ tr.k = c.tr.k ∧ tr.v = c.tr.v ∧
        tr.p = c.tr.p ∧ tr.outst.getLast? = some o ∧ tr.outst.length = c.tr.outst.length + 1 ∧ o.insn = .hfls h l ∧
        o.ops = [c.k5 h, BitVec.ofNat 64 r.creator, BitVec.ofNat 64 r.off, 0] ∧ o.waitsFor = some c.tr.nextId ∧
        tr.split? c.p = some (wentOn c m))

/-- XSHC (R35, R403): with EXM zero it has no effect and takes no cycle (R23); a train that names itself, or a name with bits above the
TRN, raises ILLEGAL. The first of two partners waits with its word. The second completes both: each acting thread of either train takes
the other train's register of the same thread, and both splits go on. -/
def Obligations.XshcMeetsItsPartner : Prop :=
  ∀ d r k g s c, Issues (.xshc d r k g) s c →
    (c.sp.exm = 0 → Passes (.xshc d r k g) s c ∧ c.cycles = 0) ∧
    (c.sp.exm ≠ 0 → 2 ^ 14 ≤ (c.k5 k).toNat ∨ xshcPartner (c.k5 k) = (c.g.lpid, c.tr.trn) →
      exec (.xshc d r k g) s = .next (s.raiseIssue c .illegal 0)) ∧
    (c.sp.exm ≠ 0 → c.g.mode = .primary → c.task.rcd.integ ≠ 3 → (c.k5 k).toNat < 2 ^ 14 →
      xshcPartner (c.k5 k) ≠ (c.g.lpid, c.tr.trn) →
      (s.xshcMeets c (c.k5 k) = none → exec (.xshc d r k g) s = .next (s.stall c (.xshc s.clock c.word))) ∧
      (∀ k' word c0 d' r' k2 g', s.xshcMeets c (c.k5 k) = some (k', word) → decode word = some (.xshc d' r' k2 g') →
        State.ctx? { s with cur := some k', fetched := word } (.xshc d' r' k2 g') = some c0 → 64 * c0.w + c0.t ≠ 64 * c.w + c.t →
        c.task.rcd.audk = 0 → c0.task.rcd.audk = 0 → c.task.rcd.integ = 0 → c0.task.rcd.integ = 0 → c0.g.mode = .primary →
        ∃ t tr tr' m m', exec (.xshc d r k g) s = .next t ∧ t.mem = s.mem ∧ t.train? c.w c.t = some tr ∧
          t.train? c0.w c0.t = some tr' ∧ tr.k = c.tr.k ∧ tr.p = c.tr.p ∧ tr'.k = c0.tr.k ∧ tr'.p = c0.tr.p ∧
          tr.split? c.p = some (wentOn c m) ∧ tr'.split? c0.p = some (wentOn c0 m') ∧
          (∀ j n, j < 32 → n < 64 → tr.getV j n = if n = d.toNat ∧ j ∈ c.threads then c0.tr.exchV j r'.toNat else c.tr.getV j n) ∧
          (∀ j n, j < 32 → n < 64 → tr'.getV j n = if n = d'.toNat ∧ j ∈ c0.threads then c.tr.exchV j r.toNat else c0.tr.getV j n) ∧
          ∀ key, key ≠ 64 * c.w + c.t → key ≠ 64 * c0.w + c0.t →
            (t.trains.look key).map Train.calm = (s.trains.look key).map Train.calm))

/-! ### The host and the outside -/

/-- WRITE and READ (R252, R126, R128) of sectors in main memory: WRITE leaves its bytes at their homes, poisoned where a
sector's check fails, with STATUS 2 then; READ answers with the bytes that memory holds, zeros with STATUS 6 for poison. No
other byte of memory changes. -/
def Obligations.HostReadsAndWritesMainMemory : Prop :=
  ∀ s f, f.addr.toNat % 32 = 0 → f.addr.toNat + f.len ≤ Config.metaBase → s.rangeWaits f.addr.toNat f.len = false →
    (Welcome s f 1 → ∃ u : State, exec (.write f) s = .next (answered u f 1 (if anyFails f then 2 else 0) f.addr []).wake ∧
      u.out = s.out ∧ (∀ i, i < f.len / 32 → u.poisonAt (f.addr.toNat + 32 * i) = sectorFails f i) ∧
      ∀ a, Memory.read u.mem a = if f.addr.toNat ≤ a ∧ a < f.addr.toNat + f.len then f.data.getD (a - f.addr.toNat) 0
        else Memory.read s.mem a) ∧
    (Welcome s f 2 → ∃ bs, exec (.read f) s =
        .next (answered s f 2 (if s.anyPoison f.addr.toNat f.len then 6 else 0) f.addr bs).wake ∧
      bs.length = f.len ∧ ∀ i, i < f.len → bs.getD i 0 =
        if s.poisonAt ((f.addr.toNat + i) / 32 * 32) then 0 else Memory.read s.mem (f.addr.toNat + i))

/-- SUBMIT (R252, R188), CANCEL and RETRY (R252, R246): a record of the frame's tenant takes the lowest free slot, with the
next number of submission; a task named by its tag ends with LEASE, or leaves Waiting or Held. What they refuse changes
nothing. -/
def Obligations.TheHostSubmitsCancelsAndRetries : Prop :=
  (∀ (s : State) f, Welcome s f 3 → let r := Record.parse f.data
    (r.tenant ≠ f.tenant → exec (.submit f) s = .next (answered s f 3 3 0 []).wake) ∧
    (r.tenant = f.tenant → s.recordBad f.data = true → exec (.submit f) s = .next (answered s f 3 1 0 []).wake) ∧
    (r.tenant = f.tenant → s.recordBad f.data = false → (∀ n, n < Config.inFlight → (s.task? n).isSome = true) →
      exec (.submit f) s = .next (answered s f 3 4 0 []).wake) ∧
    (∀ slot, r.tenant = f.tenant → s.recordBad f.data = false → slot < Config.inFlight → s.task? slot = none →
      (∀ n, n < slot → (s.task? n).isSome = true) →
      let edges := (s.tasks.filter fun e => e.2.st != .retired && r.dependsOn e.2.rcd).map fun e => e.2.sub
      exec (.submit f) s = .next (answered (State.setTask { s with subNext := s.subNext + 1 } slot
        (Task.fresh s.subNext r 0 (some f.port) edges)) f 3 0 (taskTag slot s.subNext) []).wake)) ∧
  (∀ (s : State) f, (Welcome s f 4 → s.tagged f.addr = none → Refused (.cancel f) s f 4 3) ∧
    (Welcome s f 5 → s.tagged f.addr = none → Refused (.retry f) s f 5 3)) ∧
  (∀ (s : State) f slot t, s.tagged f.addr = some (slot, t) →
    (Welcome s f 4 → (t.st = .retiring ∨ t.st = .retired) → Refused (.cancel f) s f 4 3) ∧
    (Welcome s f 4 → t.st ≠ .retiring → t.st ≠ .retired → ∃ u : State, Granted (.cancel f) s f 4 u ∧
      u = { s with tasks := u.tasks } ∧
      u.task? slot = some { t with endInfo := some (t.endInfo.getD ⟨.lease, 0, 0, 0, 0⟩), canceled := true } ∧
      ∀ n, n ≠ slot → u.task? n = s.task? n) ∧
    (Welcome s f 5 → t.endInfo = none → t.st = .waiting → Granted (.retry f) s f 5 (s.setTask slot { t with st := .resolving })) ∧
    (Welcome s f 5 → t.endInfo = none → t.st = .held → Granted (.retry f) s f 5 (s.setTask slot { t with
      st := if t.edges ≠ [] then .edged else if t.rcd.evgate then .gated else .resolving })) ∧
    (Welcome s f 5 → (t.endInfo.isSome = true ∨ t.st ≠ .waiting ∧ t.st ≠ .held) → Refused (.retry f) s f 5 3))

/-- CFGW (R254) of each class, with the rules of its register (R122, R123, R168, R193, R194, R225, R235, R240): the register
takes its value, or STATUS 3 says that it does not, and CFGR answers with what a register holds. The die temperature and the fine part of
a port's clock (R250) are free values (notes/assumptions/5.md). -/
def Obligations.ConfigurationRegistersHoldWhatIsWritten : Prop :=
  (∀ s f i j, Welcome s f 6 → selects f 1 i j → i ≤ 31 → j ≤ 15 → ∃ u : State, Granted (.cfgwWayMask f) s f 6 u ∧
    let m := s.wayMaskOf i j
    let ways := BitVec.ofNat 16 f.value64
    let gone := (m.removed ||| (m.ways &&& ~~~ways)) &&& ~~~ways
    (u.wayMaskOf i j).ways = ways ∧ u.mem = s.mem ∧ u.l2 = s.l2 ∧ (u.wayMaskOf i j).busy =
      (s.l2.any fun l => l.tenant == j && homeSlice (offOf (l.line * 128)) == i && gone.getLsbD l.way)) ∧
  (∀ s f i, Welcome s f 6 → selects f 2 i 0 → i ≤ 15 → let x := f.value64
    (x % 2 = 1 → x / 2 ^ 42 % 4 ≠ s.chipId → Refused (.cfgwTroot f) s f 6 3) ∧
    (x % 2 = 0 ∨ x / 2 ^ 42 % 4 = s.chipId → Granted (.cfgwTroot f) s f 6
      { s with troot := s.troot.store 0 i (BitVec.ofNat 64 (x % 2 + x / 2 ^ 12 % 2 ^ 32 * 2 ^ 12)) })) ∧
  (∀ s f i j p, Welcome s f 6 → selects f 3 i j → i ≤ 15 → j ≤ 1 →
    p = (if j = 0 then { s.partOf i with cores := BitVec.ofNat 64 f.value64 }
      else { s.partOf i with word1 := BitVec.ofNat 64 (f.value64 % 2 ^ 32) &&& ~~~0x80#64 }) →
    (s.partOk i p = false → Refused (.cfgwPartition f) s f 6 3) ∧
    (s.partOk i p = true → s.runsWhere (fun c => (s.removedCores f).getLsbD c) = [] →
      Granted (.cfgwPartition f) s f 6 { s with parts := s.parts.store ⟨0, 0⟩ i p })) ∧
  (∀ s f i, Welcome s f 6 → i ≤ 15 →
    (selects f 4 i 0 → Granted (.cfgw f) s f 6 { s with tenpol := s.tenpol.store 0 i (BitVec.ofNat 64 (f.value64 % 2)) }) ∧
    (selects f 8 i 0 → Granted (.cfgw f) s f 6 { s with redOwner := s.redOwner.store 0 i (BitVec.ofNat 16 (f.value64 % 32)) })) ∧
  (∀ s f i j (h' : HDesc), Welcome s f 6 → selects f 5 i j → i ≤ 15 → j ≤ 3 →
    let h := s.hdesc.val ⟨0, 0, 0, 0⟩ i
    let x := f.value64
    h' = (if j = 0 then { h with vec := BitVec.ofNat 64 x } else if j = 1 then { h with wbase := BitVec.ofNat 64 x }
      else if j = 2 then { h with wlen := BitVec.ofNat 64 (x % 2 ^ 40) } else { h with fslots := BitVec.ofNat 64 (x % 2 ^ 16) }) →
    (h'.wlen.toNat < 8192 * h'.fslots.toNat → Refused (.cfgwHandlerDesc f) s f 6 3) ∧
    ((j = 0 → x % 4 = 0 ∧ x < 2 ^ 48) → (j = 1 → x % 4096 = 0) → (j = 2 → x % 2 ^ 40 % 4096 = 0) →
      8192 * h'.fslots.toNat ≤ h'.wlen.toNat →
      Granted (.cfgwHandlerDesc f) s f 6 { s with hdesc := s.hdesc.store ⟨0, 0, 0, 0⟩ i h' })) ∧
  (∀ s f i, Welcome s f 6 → selects f 6 i 0 → i ≤ 80 → ∃ (u : State) (b : Bucket), Granted (.cfgwLeakyBucket f) s f 6 u ∧
    u = { s with buckets := s.buckets.store .reset i b } ∧ b.fill = (s.buckets.val .reset i).fill ∧
    b.mark = f.value64 / 2 ^ 16 % 2 ^ 16 ∧ b.leak = f.value64 / 2 ^ 32 % 2 ^ 16 ∧
    b.evt = ((s.buckets.val .reset i).evt && f.value64 / 2 ^ 48 % 2 == 0)) ∧
  (∀ s f, Welcome s f 6 → selects f 7 0 0 →
    let faulty := BitVec.ofNat 16 (f.value64 / 2 ^ 16 % 2 ^ 16)
    (f.value64 % 256 = s.paired.toNat → faulty &&& ~~~s.faulty = 0 →
      Granted (.cfgwPairctl f) s f 6 { s with faulty := faulty }) ∧
    (f.value64 % 256 ≠ s.paired.toNat ∨ faulty &&& ~~~s.faulty ≠ 0 → Refused (.cfgwPairctl f) s f 6 3)) ∧
  (∀ s f cls i j x, Welcome s f 7 → selects f cls i j → cls < 256 → registerValue s cls i j = some x →
    exec (.cfgr f) s = .next (answered s f 7 0 f.addr (wordSector x)).wake) ∧
  (∀ s f, Welcome s f 7 → selects f 9 0 0 → exec (.cfgr f) s =
    .next (answered { s with free := s.free + 1 } f 7 0 f.addr (wordSector (Config.dieTemp s.free).toNat)).wake) ∧
  (∀ s f i, Welcome s f 7 → i ≤ 1 → selects f 10 i 7 → exec (.cfgr f) s =
    .next (answered { s with free := s.free + 1 } f 7 0 f.addr (wordSector
      (BitVec.ofInt 64 (s.eth.getD i .reset).clock + Config.portTick s.free).toNat)).wake) ∧
  (∀ s f, Welcome s f 7 → f.addr.toNat % 256 = 0 → Refused (.cfgr f) s f 7 3)

/-- PAGE (R176, R180 to R182, R252) of one small page whose frames no lease pins: the leaf is cleared, takes the new rights
and POLICY, is marked DISC, or names the new frame; the translations of the page leave every core and the walk cache, no other byte of
memory changes, and a migration's frame waits for its lines. An operation that R252 does not name answers STATUS 1. SPLINTER (R180): a
large leaf gives way to a table whose 512 entries map the same frames one level lower, and whose frame comes from the pool; the command
that waits then goes on. With an empty pool it fails with STATUS 4. Where in its data a PAGE command holds its operation, its length and
its leaf is the model's choice (notes/assumptions/12.md). -/
def Obligations.PageCommandsKeepTheTables : Prop :=
  (∀ s f off e i op code, Welcome s f 8 →
       (i, op, code) ∈ [(Instr.pageUnmap f (f.num 4 4), PageOp.unmap, 0), (.pageProtect f (f.num 4 4) (f.num 8 8), .protect, 1),
         (.pageDiscard f (f.num 4 4), .discard, 2), (.pageMigrate f (f.num 4 4) (f.num 8 8), .migrate, 3)] →
       f.num 0 4 = code → f.num 4 4 = 4096 →
       let leaf := BitVec.ofNat 64 (f.num 8 8)
       let c : PageCmd := ⟨f, op, f.addr.toNat, 4096, leaf⟩
       f.addr.toNat % 4096 = 0 → f.addr.toNat + 4096 ≤ 2 ^ 48 → off % 8 = 0 →
       s.leafEntry f.tenant f.addr.toNat = some (off, 0, e) → s.pinsClear c = true →
       (op = .migrate → c.leafBad s.chipId = false ∧ c.toMetadata = false) →
       ∃ u : State, Granted i s f 8 u ∧
         u.homeWord off = (match op with
           | .unmap => 0
           | .protect => BitVec.ofNat 64 (e.toNat / 64 * 64 + leaf.toNat / 4 % 16 * 4 + e.toNat % 4)
           | .discard => e ||| 0x40#64
           | .migrate => BitVec.ofNat 64 (leafFrame leaf * 4096 + leaf.toNat % 64 + e.toNat / 64 % 2 * 64)) ∧
         (∀ a, a < off ∨ off + 8 ≤ a → Memory.read u.mem a = Memory.read s.mem a) ∧
         (∀ k, ∀ x ∈ (u.core k).tc, x.tenant = f.tenant → pageCovers x.page x.level f.addr.toNat = false) ∧
         (∀ x ∈ u.walks, x.tenant = f.tenant → pageCovers x.page x.level f.addr.toNat = false) ∧
         (op = .migrate → s.isLocal (leafFrame leaf * 4096) = true → leafDisc e = false →
           (u.attrOf (leafFrame leaf)).pull = true ∧ (u.attrOf (leafFrame leaf)).pulled = 0 ∧
           (u.attrOf (leafFrame leaf)).srcframe = leafFrame e)) ∧
  (∀ s f, Welcome s f 8 → 3 < f.num 0 4 → Refused (.pageUnmap f (f.num 4 4)) s f 8 1) ∧
  ((∀ (s : State) k q c s1, s.clocked = true → s.cmdReady = some k → s.hostQ[k]? = some q → q.pageCmd? = some c →
       s.refusal q.frame q.cmd = none → s.canSplit c = true → State.splitFor c (c.len / 4096 + 4) s = some s1 →
       exec .splinter s = .next s1.pump.wake) ∧
     (∀ (s : State) k q c, s.clocked = true → s.cmdReady = some k → s.hostQ[k]? = some q → q.pageCmd? = some c →
       s.refusal q.frame q.cmd = none → s.canSplit c = true → s.tablePool = [] →
       exec .splinter s = .next (State.pump (s.answer k q 4 q.frame.addr [])).wake) ∧
     (∀ (s : State) off lv e table i, off % 8 = 0 → i < 512 →
       off + 8 ≤ offOf (table * 4096) ∨ offOf (table * 4096) + 4096 ≤ off →
       (s.splitLeaf off lv e table).homeWord off = BitVec.ofNat 64 (1 + table * 4096) ∧
       (s.splitLeaf off lv e table).homeWord (offOf (table * 4096) + 8 * i) = e + BitVec.ofNat 64 (i * 512 ^ (lv - 1) * 4096)))

/-- PAIR and unpair (R233) of a pair on which nothing is resident and whose saved contexts have their writes acknowledged: the pair bit
changes and the pair's L1 caches are empty. POWER (R19, R258): RUN, RUN-LOW; HOLD, OFF and gating where nothing is resident on what they
stop; a busy checked pair refuses gating; codes above 5 answer STATUS 1. REPAIR (R234) keeps the row that it repairs, and refuses a
controller above 11; where its data hold bank and row, and that nothing else shows the repair, are the model's choices
(notes/assumptions/12.md, 90.md). ATTEST (R257) answers with the report and its signature (SM2 and SM3: notes/assumptions/41.md). Codes
that name no command (R252) answer STATUS 5. -/
def Obligations.PairPowerRepairAndAttest : Prop :=
  (∀ s f, Welcome s f 9 → f.addr.toNat ≤ 7 → s.runsWhere (inPair f.addr.toNat) = [] → s.pairReleased f.addr.toNat = true →
    (f.value64 = 1 → (∀ k, k / 2 = f.addr.toNat → s.gated.getLsbD k = false ∧ s.faulty.getLsbD k = false) →
      ∃ u : State, Granted (.pair f) s f 9 u ∧ u.paired = s.paired ||| (1#8 <<< f.addr.toNat) ∧
        ∀ k, k / 8 = f.addr.toNat → (u.core k).l1 = []) ∧
    (f.value64 = 0 → ∃ u : State, Granted (.unpair f) s f 9 u ∧ u.paired = s.paired &&& ~~~(1#8 <<< f.addr.toNat) ∧
        ∀ k, k / 8 = f.addr.toNat → (u.core k).l1 = [])) ∧
  (∀ s f, Welcome s f 10 → f.byte 1 = 0 → f.num 4 4 = 0 → let m := BitVec.ofNat 16 (f.num 2 2)
    (f.byte 0 = 0 → Granted (.powerRun f) s f 10 { s with power := .run }) ∧
    (f.byte 0 = 1 → Granted (.powerRunLow f) s f 10 { s with power := .runLow }) ∧
    (f.byte 0 = 2 → s.runsWhere (fun _ => true) = [] → Granted (.powerHold f) s f 10 { s with power := .hold }) ∧
    (f.byte 0 = 3 → s.runsWhere (fun _ => true) = [] → ∃ u : State, exec (.powerOff f) s = .next u.wake ∧ u.power = .off ∧
      Sends s u [⟨f.port, 0x8A, f.tenant, f.seq, f.addr, 0, [], 0⟩] ∧ u.mem = [] ∧ u.tasks = [] ∧ u.wgs = [] ∧ u.trains = []) ∧
    (f.byte 0 = 4 → s.pairBusy m = false → s.runsWhere (fun c => m.getLsbD (c / 4)) = [] →
      Granted (.powerGate f) s f 10 { s with gated := s.gated ||| m }) ∧
    (f.byte 0 = 4 → s.pairBusy m = true → Refused (.powerGate f) s f 10 3) ∧
    (f.byte 0 = 5 → Granted (.powerUngate f) s f 10 { s with gated := s.gated &&& ~~~m }) ∧
    (5 < f.byte 0 → Refused (.powerRun f) s f 10 1)) ∧
  (∀ s f, Welcome s f 11 →
    (f.addr.toNat ≤ 11 → f.num 4 4 = 0 → ∃ u : State, Granted (.repair f (f.byte 0) (f.num 1 3)) s f 11 u ∧ u = { s with repaired := u.repaired } ∧
      ∀ r, r ∈ u.repaired ↔ r = (f.addr.toNat, f.byte 0, f.num 1 3) ∨ r ∈ s.repaired) ∧
    (11 < f.addr.toNat ∨ f.num 4 4 ≠ 0 → Refused (.repair f (f.byte 0) (f.num 1 3)) s f 11 1)) ∧
  (∀ s f, Welcome s f 12 →
    let body := toBytes (1 + s.chipId % 4 * 2 ^ 16) 8 ++ f.data ++ sm3 Config.bootRom ++ sm3 Config.supImage ++
      (if s.mctl then sm3 Config.ctlImage ++ sm3 s.configImage else List.replicate 64 0) ++ sm2KeyBytes Config.deviceKey
    let bs := body ++ sm2Sign Config.deviceKey (Config.signNonce s.free) body ++ List.replicate 24 0
    exec (.attest f) s = .next (answered { s with free := s.free + 1 } f 12 0 f.addr bs).wake ∧ bs.length = 320) ∧
  (∀ (s : State) f cmd, s.power = .run → s.hostQ = [] → f.port ≤ 1 → f.ver = 1 → (cmd = 0 ∨ 12 < cmd) → cmd < 128 →
    Refused (.unknownCommand f cmd) s f cmd 5)

/-- Ethernet ports (R249, R250): a frame that is longer than 9,216 bytes or needs an option that the port lacks is counted; a time
message moves the port's clock, and the gate list advances by its entry's interval. Wituisk links (R255, R10): a link goes down, trains
on all its lanes or a half, never with a peer of the same identity; flits are received, retried 16 times and paused. A link that is lost
for good (R236) marks the chip at its end dead or unreachable, and ends the tasks that hold a page there with PULL_LOST at its address
(R237); a port report is kept. Bring-up (R257, R424): the chip takes its straps and runs with nothing in memory, no task and no train,
and sends its first record; with an image that fails its check it sends the record and stays down. The thermal trip (R259) sends its
frames, asserts its pin and loses everything. Nothing else of the state after reset is claimed: notes/assumptions/6.md. -/
def Obligations.PortsLinksAndBringUp : Prop :=
  ((∀ (s : State) n p, n ≤ 1 → s.eth[n]? = some p →
       (∀ f, f.port = n → f.dropped = true → Happens (.ethernetIngressDrop f) s { s with eth := s.eth.set n { p with drops := p.drops + 1 } }) ∧
       (∀ d, Happens (.timeSyncMessage n d) s { s with eth := s.eth.set n { p with clock := p.clock + d } }) ∧
       (∀ e g, p.gates[p.gatePos]? = some e → p.gates[(p.gatePos + 1) % p.gates.length]? = some g →
         Happens (.gateControlListAdvance n) s { s with eth := s.eth.set n { p with
           clock := p.clock + e.1, gatePos := (p.gatePos + 1) % p.gates.length, gateOpen := g.2 } })) ∧
     (∀ f : EthFrame, f.dropped = true ↔ 9216 < f.bytes ∨ ∃ o ∈ f.needs, o.absent = true) ∧
     (∀ (s : State) n l, n ≤ 2 → s.links[n]? = some l → let set := fun (l' : Link) => { s with links := s.links.set n l' }
       (∀ r, l.up = true → Happens (.linkDown n r) s (set { l with up := false, low := false, high := false, downAt := s.clock + s.supClock })) ∧
       (∀ lo hi, l.up = false →
         Happens (.linkRetrain n lo hi true) s (set { l with dup := true }) ∧
         ((lo || hi) = true → Happens (.linkRetrain n lo hi false) s (set { l with
           up := true, low := lo, high := hi, dup := false, lost := false, chans := l.chans.map fun c => { c with retries := 0 } }))) ∧
       (∀ ch, ch ≤ 3 → let c := l.chans.getD ch .reset
         let chan := fun (c' : Chan) => set { l with chans := l.chans.set ch c' }
         Happens (.pauseFlit n ch) s (chan { c with stopped := true }) ∧
         Happens (.resumeFlit n ch) s (chan { c with stopped := false }) ∧
         (l.up = true → Happens (.flitReceive n ch true) s (chan { c with
           level := min 64 (c.level + 1), paused := c.paused || decide (48 ≤ c.level + 1), retries := 0 })) ∧
         (l.up = true → c.retries + 1 < 16 → Happens (.flitReceive n ch false) s (chan { c with retries := c.retries + 1 })) ∧
         (l.up = true → 16 ≤ c.retries + 1 →
           Happens (.flitReceive n ch false) s (set { l with up := false, low := false, high := false, downAt := s.clock + s.supClock }))) ∧
       (s.supervised = true → l.up = false → l.lost = false → (∀ m k, m ≠ n → s.links[m]? = some k → k.lost = false) →
         ∃ u : State, Happens (.linkLoss n) s u ∧ u.links[n]? = some { l with lost := true } ∧
           (u.dead.getLsbD (s.peerOf n) = true ∨ u.unreach.getLsbD (s.peerOf n) = true) ∧ u.mem = s.mem ∧
           (s.dead.getLsbD (s.peerOf n) = false → s.unreach.getLsbD (s.peerOf n) = false → ∀ slot t va, s.task? slot = some t →
             s.lostVa t (s.peerOf n) = some va → ∃ t', u.task? slot = some t' ∧
               t'.endInfo = some (t.endInfo.getD ⟨.pullLost, 0, BitVec.ofNat 64 va, 0, 0⟩)))) ∧
     (∀ (s : State) chip up, chip ≤ 3 → (∀ k ∈ s.links, k.lost = false) →
       Happens (.portStatusReport chip up) s { s.takeFlit chip 3 with reports := s.reports.store 0 chip up })) ∧
  ((∀ (s : State) low high dup, s.supervised = false → let chip := s.pinChipId % 4
       let live := (low ||| high) &&& ~~~dup
       (∃ u : State, Happens (.bringUp true ⟨low, high⟩ dup) s u ∧ u.power = .run ∧ u.chipId = chip ∧ u.hostPort = s.pinHostPort ∧
         u.mem = [] ∧ u.tasks = [] ∧ u.wgs = [] ∧ u.trains = [] ∧ (∀ i, i < 3 → ∃ l, u.links[i]? = some l ∧ l.up = live.getLsbD i ∧
           l.low = (low &&& ~~~dup).getLsbD i ∧ l.high = (high &&& ~~~dup).getLsbD i) ∧
         Sends s u (([0, 1].filter fun n => s.pinHostPort.getLsbD n).map fun n =>
           eventFrame n 0 0 (deviceRecord 0x10 0 [chip + dup.toNat * 2 ^ 8 + live.toNat * 2 ^ 16]))) ∧
       (∃ u : State, Happens (.bringUp false ⟨low, high⟩ dup) s u ∧ u.power = .bootFailed ∧ u.tasks = [] ∧
         Sends s u ([0, 1].map fun n => eventFrame n 0 0 (deviceRecord 0x10 1 [chip])))) ∧
     (∀ s : State, s.power ≠ .off → s.power ≠ .stopped → ∃ u : State, Happens .thermalTrip s u ∧ u.power = .stopped ∧
       u.thermtrip = true ∧ u.mem = [] ∧ u.tasks = [] ∧ u.wgs = [] ∧ u.trains = [] ∧
       Sends s u [⟨0, 0x41, 0, 0, 0, 0, [], 0⟩, ⟨1, 0x41, 0, 0, 0, 0, [], 0⟩]))

/-- Corrected errors (R234, R235): a controller's classifier keeps the last 64 places, an entry expires after 2^32 cycles; a bucket
counts, sends one record as it passes its mark, and leaks. The L2 (R121 to R123): a fill for an access that requires the line (R129)
takes a way that its tenant may use, none for an uncached page, and what memory's own code could not correct is poison; a removed way
gives up a line. Requests of other chips at homes of this one (R17): a store changes the bits that its masks name (R124), an atomic
performs its operation on its target, a deferred addition is recorded (R215), and a load or a marker changes no byte. -/
def Obligations.ErrorsAndOtherChipsReachTheirHomes : Prop :=
  ((∀ (s : State) ctl bank row column, ctl ≤ 11 → s.supervised = true →
       ∃ u : State, Happens (.correctedError (.memory ctl bank row column)) s u ∧ u.mem = s.mem ∧
         u.classif.val [] ctl = (⟨bank, row, column, s.clock⟩ :: (s.classif.val [] ctl).filter fun e =>
           !(e.bank == bank && e.row == row && e.column == column)).take 64) ∧
     (∀ (s : State) i, i ≤ 80 → s.supervised = true → let b := s.buckets.val .reset i
       ∃ (u : State) (b' : Bucket), Happens (.correctedError (.bucket i)) s u ∧ u.buckets.val .reset i = b' ∧ u.mem = s.mem ∧
         b'.fill = min 0xFFFF (b.fill + 1) ∧ b'.mark = b.mark ∧ b'.leak = b.leak ∧
         (b'.evt = (b.evt || decide (b.fill < b.mark ∧ b.mark ≤ b'.fill))) ∧
         ((b.evt = true ∨ b.mark ≤ b.fill ∨ b'.fill < b.mark) → u.out = s.out) ∧
         (b.evt = false → b.fill < b.mark → b.mark ≤ b'.fill → Sends s u (([0, 1].filter fun n => s.hostPort.getLsbD n).map fun n =>
           eventFrame n 0 0 (deviceRecord 0x12 5 [i, 0, b'.fill])))) ∧
     (∀ (s : State) ctl n e, ctl ≤ 11 → s.clocked = true → (s.classif.val [] ctl)[n]? = some e →
       Happens (.classifierEntryExpiry ctl n) s { s with
         clock := max s.clock (e.since + 2 ^ 32), classif := s.classif.store [] ctl ((s.classif.val [] ctl).eraseIdx n) }) ∧
     (∀ (s : State) i, i ≤ 80 → s.clocked = true → let b := s.buckets.val .reset i
       b.leak ≠ 0 → b.fill ≠ 0 → let due := b.leaked + 65536 * b.leak
       Happens (.leakyBucketLeak i) s { s with
         clock := max s.clock due, buckets := s.buckets.store .reset i { b with fill := b.fill - 1, leaked := due } }) ∧
     (∀ (s : State) line tenant errs, tenant ≤ 15 → errs.length = 4 → s.clocked = true → line * 128 < Config.metaBase →
       s.holdsLine line = false → s.requires line tenant = true → let bl := s.boxPa (line * 128) / 128
       ∃ u : State, Happens (.l2Fill line tenant errs) s u ∧ u.mem = s.mem ∧
         (∀ i, errs[i]? = some .uncorrectable → u.poisonAt (128 * line + 32 * i) = true) ∧
         ((s.attrOf (s.boxPa (line * 128) / 4096)).policy = 1 ∨ s.pickWay bl tenant = none → u.l2 = s.l2) ∧
         (∀ w, (s.attrOf (s.boxPa (line * 128) / 4096)).policy ≠ 1 → s.pickWay bl tenant = some w →
           (s.wayMaskOf (homeSlice (offOf (bl * 128))) tenant).ways.getLsbD w = true ∧
           u.l2 = ⟨bl, w, tenant, 0xF, 0, none⟩ :: s.l2.filter fun l => l.line != bl && !(sameSet l.line bl && l.way == w))) ∧
     (∀ (s : State) slice tenant l ls, slice ≤ 31 → tenant ≤ 15 →
       s.linesIn slice tenant (s.wayMaskOf slice tenant).removed = l :: ls →
       ∃ u : State, Happens (.wayRemovalLine slice tenant) s u ∧ u.l2 = s.l2.filter (fun x => x.line != l.line) ∧ u.mem = s.mem)) ∧
  (∀ (s : State) chip, chip ≤ 3 → s.clocked = true →
       let atHand := fun (pa n : Nat) => ∀ i, i < n → s.pullPending (s.boxPa (pa + i)) = false ∧ s.pullLost (s.boxPa (pa + i)) = false
       Happens (.remoteRequest chip .marker) s (s.takeFlit chip 0) ∧
       (∀ pa n, (∀ i, i < n → s.pullPending (s.boxPa (pa + i)) = false) →
         Happens (.remoteRequest chip (.load pa n)) s (s.takeFlit chip 0)) ∧
       (∀ pa mask data chk poison, atHand pa data.length →
         ∃ u : State, Happens (.remoteRequest chip (.store pa mask data chk poison)) s u ∧ ∀ a i, i < 8 → (Memory.read u.mem a).getLsbD i =
           if pa ≤ a ∧ a < pa + data.length ∧ (mask.getD (a - pa) 0).getLsbD i = true then (data.getD (a - pa) 0).getLsbD i
           else (Memory.read s.mem a).getLsbD i) ∧
       (∀ pa op x y, let n := if op = .add64 ∨ op = .exch64 ∨ op = .cas64 then 8 else 4
         atHand pa n → s.anyPoison pa n = false → (op = .faddF32 ∨ op = .faddBf16x2 → s.flagged (s.boxPa pa) = false) →
         let old := littleEndian ((List.range n).map fun b => Memory.read s.mem (pa + b))
         let cut := fun (z : W64) => z.toNat % 256 ^ n
         ∃ u : State, Happens (.remoteRequest chip (.atomic pa op x y)) s u ∧ ∀ a, Memory.read u.mem a =
           if pa ≤ a ∧ a < pa + n then BitVec.ofNat 8 ((atomNew op old (cut x) (cut y)).getD old / 256 ^ (a - pa))
           else Memory.read s.mem a) ∧
       (∀ pa bf16 x k, atHand pa 4 → Happens (.remoteRequest chip (.defer pa bf16 x k)) s { s.takeFlit chip 0 with
         defer := s.defer ++ [⟨chip, k.slot, .glob (s.boxPa pa), bf16, x, k.wgid, k.trn, k.j, k.n⟩] }))

/-! ### Events of the chip -/

/-- What returns to a train: the acknowledgement of a fence's marker, behind every earlier write and atomic to its destination (R141);
the old value of an atomic at another chip (R207), in the order of the answers of its sector; and the end of the wait for a request of a
context that is not on its core any more, or was saved since (R206). Pages: a core learns the translation of a page that a candidate's
next instruction on it requires, with its lease rights (R129, R178); a discarded page of this chip reads as zero once revived (R181);
and a line of a migrated page that an access waits for arrives from its old frame (R182). -/
def Obligations.AnswersAndPagesArrive : Prop :=
  ((∀ (s : State) w t tr m d, s.train? w t = some tr → tr.marker? d = some m → m.acked = false → s.destDead d = false →
       (∀ e ∈ tr.sb, e.dest = d → m.upto ≤ e.id) → (∀ r ∈ s.resp, r.w = w → r.t = t → s.destOf r.pa = d → m.upto ≤ r.o) →
       Happens (.fenceMarkerAck w t d) s ((s.takeAnswer d).updTrain w t fun tr =>
         { tr with markers := tr.markers.map fun x => if x.dest = d then { x with acked := true } else x })) ∧
     (∀ (s : State) idx r g tr x task op d y k old, s.resp[idx]? = some r → r.ready = true → r.answer = none → s.isLocal r.pa = false →
       s.destDead (.chip (chipOf r.pa)) = false → s.wg? r.w = some g → g.live = true → s.ackDue g.lastCore (r.pa / 32) = false →
       (∀ q ∈ s.resp.take idx, q.pa / 32 ≠ r.pa / 32) → s.taskOf? g = some task →
       (task.rcd.det = false ∧ task.rcd.integ ≠ 2 ∨ op ≠ .faddF32 ∧ op ≠ .faddBf16x2) → s.train? r.w r.t = some tr → tr.outst? r.o = some x → atomParts x.insn = some (op, d, y, k) →
       ∃ (u : State) (tr' : Train), Happens (.atomicResponse idx old none) s u ∧ u.resp = s.resp.eraseIdx idx ∧ u.mem = s.mem ∧
         u.train? r.w r.t = some tr' ∧ tr'.k = tr.k ∧ tr'.v = tr.v ∧
         tr'.outst? r.o = some { x with
           atoms := x.atoms.filter fun a => a != r.id
           writes := x.writes ++ (if op = .add64 ∨ op = .exch64 ∨ op = .cas64
             then [.v r.j d.toNat (old.setWidth 32), .v r.j (d.toNat + 1) (BitVec.ofNat 32 (old.toNat / 2 ^ 32))]
             else [.v r.j d.toNat (old.setWidth 32)])
           done := x.done ||| (1#32 <<< r.j) }) ∧
     (∀ (s : State) w t o n g tr x l, s.wg? w = some g → s.train? w t = some tr → tr.outst? o = some x →
       x.loads[n]? = some l → l.value = none → l.expired = false → g.live = false ∨ l.gen ≠ g.ctxgen →
       Happens (.requestReturnExpiry w t o n) s (State.updTrain { s with clock := max s.clock (l.since + 65536) } w t fun tr =>
         tr.updOutst o fun x => { x with loads := x.loads.modify n fun l => { l with expired := true } }))) ∧
  ((∀ (s : State) core tenant vpage w g t p e lv, core ≤ 63 → tenant ≤ 15 → s.clocked = true →
       s.wg? w = some g → g.core? = some core → s.taskOf? g = some t → t.rcd.tenant = tenant →
       (∀ w' g', s.wg? w' = some g' → g'.core? = some core → w' = w) →
       (∃ va ∈ s.wgVas w core t, va / 4096 = vpage) → s.walkPull core tenant (vpage * 4096) = none →
       s.tcLookup core tenant (vpage * 4096) = none → s.walk tenant (vpage * 4096) = .leaf lv e → t.pinFor (vpage * 4096) = some p →
       e ||| 0x40#64 = p.leaf ||| 0x40#64 → lv = p.level →
       ∃ ws, Happens (.translationWalk core tenant vpage) s (State.setCore { s with walks := ws } core { s.core core with
         tc := (⟨tenant, vpage / 512 ^ lv * 512 ^ lv, lv, e,
           if t.windowCovers (vpage * 4096) then (true, true, true) else t.leaseRights (vpage * 4096)⟩ :: (s.core core).tc).take 2048 })) ∧
     (∀ (s : State) tenant vpage off e, tenant ≤ 15 → s.clocked = true → (tenant, vpage) ∈ s.revivals →
       s.pullOnWalk tenant (vpage * 4096) 4 (bitsAt (s.troot.val 0 tenant).toNat 12 32) = none →
       s.leafEntry tenant (vpage * 4096) = some (off, 0, e) → leafDisc e = true → s.isLocal (leafFrame e * 4096) = true →
       let f := offOf (leafFrame e * 4096)
       off + 8 ≤ f ∨ f + 4096 ≤ off →
       ∃ u : State, Happens (.pageRevival tenant vpage) s u ∧ (tenant, vpage) ∉ u.revivals ∧
         u.homeWord off = e &&& ~~~0x40#64 ∧ ∀ a, a < off ∨ off + 8 ≤ a →
           Memory.read u.mem a = if f ≤ a ∧ a < f + 4096 then 0 else Memory.read s.mem a) ∧
     (∀ (s : State) frame line d tags, line ≤ 31 → d.length = 128 → s.clocked = true → 32 * frame + line ∈ s.pulls →
       let a := s.attrOf frame
       a.pull = true → a.lost = false → a.pulled.getLsbD line = false → s.isLocal (frame * 4096) = true →
       let dst := offOf (frame * 4096) + 128 * line
       let src := offOf (a.srcframe * 4096) + 128 * line
       ∃ u : State, Happens (.linePull frame line d tags) s u ∧ 32 * frame + line ∉ u.pulls ∧
         u.attrOf frame = { a with pulled := a.pulled ||| (1#32 <<< line), pull := a.pulled ||| (1#32 <<< line) != BitVec.allOnes 32 } ∧
         ∀ b, Memory.read u.mem b = if dst ≤ b ∧ b < dst + 128
           then (if s.isLocal (a.srcframe * 4096) = true then Memory.read s.mem (src + (b - dst)) else d.getD (b - dst) 0)
           else Memory.read s.mem b))

/-- A trap that waits for its train to be quiet enters the handler then, if its frame can be written (R241): the frame is in
memory, HMODE is set, and the split that faulted stands at TVEC. A spilled split is read back from its entry into a free place
of the table; a reserved bit in it, or poison, ends the task with RECORD (R30, R31). A timer releases its split (R390); an XSHC
that has waited WDG cycles outside a handler raises XSHC_TIMEOUT (R35). Cluster trees (R100) and the watchdog (R101, R245): a
leaf whose own condition holds sends its arrival once, the root is emptied by its last member, a leaf that has sent its arrival
completes its phase once the root has forgotten it; a wait of WDG cycles ends the workgroup, and those of its task whose
watchdogs run out in that cycle, and posts a barrier diagnostic. -/
def Obligations.WaitsEndAndTreesComplete : Prop :=
  (∀ (s : State) w t g task tr r q pa uc b, s.wg? w = some g → s.taskOf? g = some task → s.train? w t = some tr → g.runs = true →
       tr.outst = [] → tr.pend = some r → tr.split? tr.hsplit = some q → tr.tvec ≠ 0 →
       s.budgetAt g.lastCore task true tr.tvec = .ok b → b ≤ task.rcd.budget → g.mode = .primary → task.rcd.integ ≠ 3 →
       s.walkPull g.lastCore task.rcd.tenant (g.frameVa task tr.trn).toNat = none →
       s.translate g.lastCore task true (g.frameVa task tr.trn).toNat .store = .ok pa false uc → s.isLocal pa = true →
       s.pullPending pa = false → s.pullLost pa = false → s.frameBehind tr pa = false →
       ∃ (u : State) (tr' : Train), Happens (.trapEntry w t) s u ∧ u.train? w t = some tr' ∧ tr'.hmode = true ∧
         tr'.hsplit = tr.hsplit ∧ tr'.pend = none ∧ tr'.trap = r ∧ tr'.k = tr.k ∧ tr'.v = tr.v ∧ tr'.p = tr.p ∧
         tr'.split? tr.hsplit = some { q with pc := tr.tvec, pfx := none, done := 0, wait := .ready, part := none, rel := none } ∧
         tr'.tcause.toNat = (frameWords r tr).getD 0 0 % 2 ^ 17 ∧
         ∀ a, Memory.read u.mem a = if offOf pa ≤ a ∧ a < offOf pa + 128
           then BitVec.ofNat 8 ((frameWords r tr).getD ((a - offOf pa) / 8) 0 / 256 ^ ((a - offOf pa) % 8)) else Memory.read s.mem a) ∧
  ((∀ (s : State) w t g tr q, s.wg? w = some g → g.live = true → s.train? w t = some tr → tr.earliestSpilled = some q →
       (tr.splits.map Split.id).Nodup → tr.inTable.length < Config.splitTable →
       let x := s.sectorSeen g.lastCore (tr.pb + 128 * tr.privb.toNat + 32 * q.row) true
       let n := littleEndian x.data
       let tr1 := tr.updSplit q.id fun y => { y with spilled := none }
       (x.poison = false → n / 2 ^ 225 % 2 ^ 31 = 0 → ∃ u : State, Happens (.splitReload w t) s u ∧
         u.train? w t = some (tr.updSplit q.id fun _ => { q with
           spilled := none, pc := BitVec.ofNat 64 n, rpc := BitVec.ofNat 64 (n / 2 ^ 64), member := BitVec.ofNat 32 (n / 2 ^ 128)
           exm := BitVec.ofNat 32 (n / 2 ^ 160) &&& BitVec.ofNat 32 (n / 2 ^ 128), dix := BitVec.ofNat 32 (n / 2 ^ 192)
           parked := n.testBit 224 })) ∧
       (x.poison = true ∨ n / 2 ^ 225 % 2 ^ 31 ≠ 0 → Happens (.splitReload w t) s
         ((s.setTrain w t tr1).endTask g.slot ⟨.record, q.pc, BitVec.ofNat 64 (x.sec * 32), 0, g.wgid⟩))) ∧
     (∀ (s : State) w t tr p q due, s.train? w t = some tr → tr.split? p = some q → q.wait = .timer due →
       Happens (.waitExpiry w t p) s (State.setTrain { s with clock := max s.clock due } w t
         (tr.updSplit p fun x => { x with wait := .ready }))) ∧
     (∀ (s : State) w t tr p q g c since word d src k gg, s.train? w t = some tr → s.wg? w = some g → tr.split? p = some q →
       q.wait = .xshc since word → decode word = some (.xshc d src k gg) → g.wdg ≠ 0 → g.runs = true → tr.hmode = false →
       State.ctx? { s with clock := max s.clock (since + g.wdg.toNat), cur := some ⟨w, t, p⟩, fetched := word } (.xshc d src k gg) = some c →
       Happens (.xshcTimeout w t p) s ((State.updTrain { s with clock := max s.clock (since + g.wdg.toNat) } w t fun tr =>
         tr.updSplit p fun x => { x with wait := .ready }).raise c { recordAt c .xshcTimeout true false with addr := c.k5 k }))) ∧
  ((∀ (s : State) w b g r, s.wg? w = some g → let x := g.bar b
       x.scope = true → x.init = true → x.arrived = x.expect → x.pend = 0 → x.sent = false → s.root? g b = some r →
       Happens (.clusterBarrierArrival w b) s { s with
         wgs := s.wgs.set w (g.setBar b { x with sent := true })
         roots := s.roots.map fun r => if r.isFor g b then
           (if r.members ≠ [] ∧ ∀ m ∈ r.members, m ∈ r.arrived ++ [w] then { r with arrived := [], since := none, held := 0 }
            else { r with arrived := r.arrived ++ [w] }) else r }) ∧
     (∀ (s : State) w b g r, s.wg? w = some g → let x := g.bar b
       x.sent = true → s.root? g b = some r → w ∈ r.members → w ∉ r.arrived →
       ∃ u : State, Happens (.clusterBarrierBroadcast w b) s u ∧ u.mem = s.mem ∧ u.roots = s.roots ∧
         u.wgs = s.wgs.set w (g.setBar b { x with phase := !x.phase, lastErr := x.err, lastVal := barValue x
                                                  arrived := 0, pend := 0, err := 0, came := 0, since := none, held := 0, sent := false })) ∧
     (∀ (s : State) w b g task due, s.wg? w = some g → s.watchDue w b = some due → s.taskOf? g = some task → g.mode = .primary →
       ∃ (u : State) (g' : Wg) (task' : Task), Happens (.barrierTimeout w b) s u ∧ u.clock = max s.clock due ∧
         u.wg? w = some g' ∧ g'.place = .ended ∧ u.task? g.slot = some task' ∧
         (let e : EndInfo := ⟨.barrierTimeout, s.waitPc w b, BitVec.ofNat 64 b, 0, g.wgid⟩
          s.expiring g.slot w due = [] → task'.firstEnd = match task.firstEnd with
            | none => some e
            | some x => if task.firstAt = u.clock ∧ g.wgid < x.wgid then some e else some x) ∧
         (∀ v ∈ s.expiring g.slot w due, ∃ gv : Wg, u.wg? v.1 = some gv ∧ gv.place = .ended) ∧
         (∃ p ∈ u.posts, p.type = 3 ∧ p.cause = 0x0E ∧ p.slot = g.slot ∧ p.evq = task.rcd.evq) ∧
         ∀ e ∈ u.trains, e.1 / 64 = w → e.2.ended = true))

/-- The streamer (R94, R95): its commands start in order once the train's earlier writes are performed; a unit that is written
counts at its barrier at once, one whose writes are on their way counts once they are performed; a unit that fails ends its command,
counts what is left and records why (R96); a unit that meets a cause ends the task, and so does a lost participant (R237). A unit of
CPY.G2S takes its bytes from global memory to the scratchpad, up to the end of a line. Once everything has moved a command
completes, its arrival made; a CPYM sends its MSTR first. Collectives (R312, R313): another participant's part joins
the first collective of its tag that lacks it, and its word that it has read this chip's part is kept. -/
def Obligations.TheStreamerMovesItsCommands : Prop :=
  ((∀ (s : State) n q, s.strCmd? n = some q → q.started = false → q.ready = true → s.atWork q.w = true →
       (∀ x ∈ s.strQ, x.id < q.id → s.coreOf x.w = s.coreOf q.w → x.started = true) → s.forkClear q.w q.t q.fence = true →
       (∀ t x o m, q.kind = .tile t x o m → ∀ y ∈ s.seqQ, y.w = q.w → y.id < q.id → t ∉ tilesOf y.insn) →
       Happens (.streamerCommandStart n) s (s.updStr n fun x => { x with started := true })) ∧
     (∀ (s : State) n q g task d tr, s.strCmd? n = some q → s.wg? q.w = some g → s.taskOf? g = some task →
       s.train? q.w q.t = some tr → q.started = true → s.atWork q.w = true → s.collLost q g task.rcd = false →
       (q.sent = none → s.strMoved q = false → (∀ x ∈ s.strBefore q, s.strMoved x = true) →
         (∀ (v : State) pos counted tr', s.strUnit q g task d = .ok v pos counted → v.train? q.w q.t = some tr' →
           ((∃ e ∈ tr'.sb, tr.nextId ≤ e.id) → Happens (.streamerWrite n d) s
             (v.updStr q.id fun x => { x with pos := pos, sent := some (tr.nextId, tr'.nextId, counted) })) ∧
           ((∀ e ∈ tr'.sb, e.id < tr.nextId) → Happens (.streamerWrite n d) s (match q.bar with
             | some b => (v.updStr q.id fun x => { x with pos := pos }).barBytes q.w b counted
             | none => v.updStr q.id fun x => { x with pos := pos }))) ∧
         (∀ err, s.strUnit q g task d = .fail err → (∀ fn x f, q.kind ≠ .coll fn x f) →
           Happens (.streamerWrite n d) s (match q.bar with
             | some b => ((s.updStr q.id fun x => { x with failed := true }).barErr q.w b err).barBytes q.w b (q.left task.rcd)
             | none => s.updStr q.id fun x => { x with failed := true })) ∧
         (∀ cause addr, s.strUnit q g task d = .ends cause addr → Happens (.streamerWrite n d) s
           (s.endTask g.slot ⟨cause, q.origin.pc, BitVec.ofNat 64 addr, 0, g.wgid⟩))) ∧
       (∀ lo hi k, q.sent = some (lo, hi, k) → (∀ e ∈ tr.sb, lo ≤ e.id → e.id < hi → e.stage = .granted) →
         Happens (.streamerWrite n d) s (match q.bar with
           | some b => (s.updStr n fun x => { x with sent := none }).barBytes q.w b k
           | none => s.updStr n fun x => { x with sent := none }))) ∧
     (∀ (s : State) n q g task d, s.strCmd? n = some q → s.wg? q.w = some g → s.taskOf? g = some task → q.started = true →
       s.atWork q.w = true → s.collLost q g task.rcd = true → Happens (.streamerWrite n d) s
         (s.endTask g.slot ⟨.pullLost, q.origin.pc, q.origin.ops.headD 0, 0, g.wgid⟩)) ∧
     (∀ (s : State) q g task tr d dst src count xs o off, s.wg? q.w = some g → s.taskOf? g = some task → s.train? q.w q.t = some tr →
       g.mode = .primary → task.rcd.integ < 2 →
       let from' := (src + BitVec.ofNat 64 q.pos).toNat
       let n := min (128 - (dst.toNat + q.pos) % 128) (count - q.pos)
       0 < n → q.pos < 2 ^ 24 → from' + n ≤ 2 ^ 48 → s.engBytes g task q.hand d 0 ((List.range n).map fun i => from' + i) = .ok xs →
       (∀ x ∈ xs, x.2 = false) → s.engLocs q.w (dst + BitVec.ofNat 64 q.pos) n = .ok ((List.range n).map fun i => .share o (off + i)) →
       s.absentLines (partLines ((List.range n).map fun i => Loc.share o (off + i))) = [] → (s.wg? o).isSome = true →
       q.kind = .linear true dst src count → ∃ v : State, s.strUnit q g task d = .ok v (q.pos + n) n ∧ v.mem = s.mem ∧
         v.trains = s.trains ∧ ∀ i, i < n → v.shareAt o (off + i) = (xs.getD i (0, false)).1) ∧
     (∀ (s : State) n q, s.strCmd? n = some q → q.started = true → s.strMoved q = true → s.atWork q.w = true →
       s.engineQuiet q.w q.t = true → (q.arv = true → ∀ b, q.bar = some b → s.barRoom q.w b = true) →
       (∀ t x o m, q.kind = .tile t x o m → (q.mstrId = none ∧ q.failed = true) ∨ ∃ m, q.mstrId = some m ∧ s.seqCmd? m = none ∧
         ∀ tr, s.train? q.w q.t = some tr → tr.outst? q.origin.id = none) →
       (∀ fn c f, q.kind = .coll fn c f → q.failed = true ∨
         ∃ g task, s.wg? q.w = some g ∧ s.taskOf? g = some task ∧ s.allRead q task.rcd = true) →
       ∃ v : State, v.strQ = s.strQ.filter (fun x => x.id != q.id) ∧ v.mem = s.mem ∧ v.wgs = s.wgs ∧
         Happens (.streamerCommandComplete n) s (match q.arv, q.bar with
           | true, some b => v.barArrive q.w b
           | _, _ => v)) ∧
     (∀ (s : State) n q t x o m, s.strCmd? n = some q → q.kind = .tile t x o m → q.mstrId = none → q.failed = false →
       q.started = true → s.strMoved q = true → s.atWork q.w = true →
       ∃ (u : State) (k : SeqCmd), Happens (.streamerCommandComplete n) s u ∧ u.seqQ = s.seqQ ++ [k] ∧ k.id = s.nextId ∧ k.w = q.w ∧
         k.cpym = some q.id ∧ isMstr k.insn = true ∧ u.strCmd? n = some { q with mstrId := some s.nextId })) ∧
  (∀ (s : State) n chip c k, chip ≤ 3 → s.colls.find? (fun x => x.id == n) = some k → chip ≠ s.chipId →
       ((s.takeFlit chip 2).collNext k chip c.readBack = true →
         (k.parts.look chip = none → Happens (.collectiveContribution n chip c) s { s.takeFlit chip 2 with
           colls := s.colls.map fun x => if x.id = k.id then { x with parts := x.parts.put chip c } else x }) ∧
         (∀ p, k.parts.look chip = some p → Happens (.collectiveContribution n chip c) s { s.takeFlit chip 2 with
           colls := s.colls.map fun x => if x.id = k.id
             then { x with parts := x.parts.put chip { p with readBack := p.readBack || c.readBack } } else x })) ∧
       ((s.takeFlit chip 2).collNext k chip c.readBack = false →
         Happens (.collectiveContribution n chip c) s (s.takeFlit chip 2)))

/-- The sequencer (R66, R68, R80 to R83, R87, R88): an instruction whose turn it is and whose resources are free starts, an MSTR
taking the stores that its results go to or faulting on a plane that does not pair; a started one moves a unit, or meets a fault or a
cause. A row of TLD takes its bytes from global memory; a row of ARD rounds an accumulator row into a tile register, a row of AWR the
other way. One chunk pass of an unfused MSTR adds its chunk to every element of its tiles and touches no other tile. What has finished
leaves the queue, and its instruction may complete, or faults. -/
def Obligations.TheSequencerRunsItsQueue : Prop :=
  (∀ (s : State) n q g task d, s.seqCmd? n = some q → s.wg? q.w = some g → s.taskOf? g = some task → s.seqTurn q = true →
    (q.started = false → s.seqReady q g task.rcd = true →
      (isMstr q.insn = false → Happens (.sequencerStart n d.bytes ⟨d.poison, d.chk⟩) s (s.updSeq n fun x => { x with started := true })) ∧
      (∀ t h f n32, mstrOperands q.insn = some (t, h, f, n32) →
        let sums := s.mstrSums q.w g task.rcd
        let refused := fun (v : Nat) => ∀ gv, s.wg? v = some gv → gv.active.refuses task.rcd (task.rcd.slotW f) n32 = true
        ((∀ e ∈ sums, ∀ p ∈ e.2, ¬refused p.2) → Happens (.sequencerStart n d.bytes ⟨d.poison, d.chk⟩) s
          ((sums.foldl (fun (s : State) e => s.ownStore e.1) s).updSeq n fun x => { x with started := true })) ∧
        ((∃ e ∈ sums, ∃ p ∈ e.2, refused p.2) → Happens (.sequencerStart n d.bytes ⟨d.poison, d.chk⟩) s
          (s.updSeq n fun x => { x with started := true, fault := some (.illegal, 0) })))) ∧
    (q.started = true → q.fault = none → isMstr q.insn = false → q.pos < s.seqUnits q g task.rcd →
      (∀ v : State, s.seqUnit q g task.rcd d = .ok v →
        Happens (.sequencerStart n d.bytes ⟨d.poison, d.chk⟩) s (v.updSeq n fun x => { x with pos := x.pos + 1 })) ∧
      (∀ cause a, s.seqUnit q g task.rcd d = .fault cause a →
        Happens (.sequencerStart n d.bytes ⟨d.poison, d.chk⟩) s (s.updSeq n fun x => { x with fault := some (cause, a) })) ∧
      (∀ cause a tr o, s.seqUnit q g task.rcd d = .ends cause a → s.train? q.w q.t = some tr → tr.outst? q.outst = some o →
        Happens (.sequencerStart n d.bytes ⟨d.poison, d.chk⟩) s (s.endTask g.slot ⟨cause, o.pc, a, 0, g.wgid⟩)))) ∧
  ((∀ (s : State) q g task tr d t sl x i f l k va xs, s.wg? q.w = some g → s.taskOf? g = some task → s.train? q.w q.t = some tr →
      q.insn = .tld t sl x i f l k → sl ≠ 2#2 → q.pos < 32 → g.mode = .primary → task.rcd.integ < 2 → spaceOf q.addr = .glob va →
      s.engBytes g task q.hand d 0 ((List.range 128).map fun b => va + 128 * q.pos + b) = .ok xs →
      ((∃ y ∈ xs, y.2 = true) → s.seqUnit q g task.rcd d = .fault .poison (q.addr + BitVec.ofNat 64 (128 * q.pos))) ∧
      ((∀ y ∈ xs, y.2 = false) → ∃ (v : State) (g' : Wg), s.seqUnit q g task.rcd d = .ok v ∧ v.mem = s.mem ∧ v.wg? q.w = some g' ∧
        g'.tileRow t.toNat (if sl = 0#2 then q.pos else q.idx) = littleEndian (xs.map fun y => y.1))) ∧
   (∀ (s : State) q g (r : Record) d t h x i f l, s.wg? q.w = some g → q.insn = .ard t h x i f l → q.pos < 32 →
      let fm := slotFmt (r.slotW f.toNat)
      32 * h.toNat + 32 ≤ perRow fm →
      ∃ (v : State) (g' : Wg), s.seqUnit q g r d = .ok v ∧ v.mem = s.mem ∧ v.cores = s.cores ∧ v.wg? q.w = some g' ∧
        (∀ n, n < 32 → rowElem fm (g'.tileRow t.toNat q.pos) (32 * h.toNat + n) =
          Fp.round fm (Fp.decode .acc80 ((s.core g.lastCore).accElem q.idx q.pos n))
            (Fp.Rnd.at (Fp.Mode.ofCode q.mode) q.sat r.seed.toNat q.dix.toNat 0 (32 * q.pos + n)) % 2 ^ fm.width) ∧
        (∀ n, n < perRow fm → (n < 32 * h.toNat ∨ 32 * h.toNat + 32 ≤ n) →
          rowElem fm (g'.tileRow t.toNat q.pos) n = rowElem fm (g.tileRow t.toNat q.pos) n) ∧
        ∀ u m, m < 32 → (u ≠ t.toNat ∨ m ≠ q.pos) → g'.tileRow u m = g.tileRow u m) ∧
   (∀ (s : State) q g (r : Record) d t h x i f l, s.wg? q.w = some g → q.insn = .awr t h x i f l → q.pos < 32 →
      let fm := slotFmt (r.slotW f.toNat)
      ∃ v : State, s.seqUnit q g r d = .ok v ∧ v.mem = s.mem ∧ v.wgs = s.wgs ∧ (v.core g.lastCore).live = (s.core g.lastCore).live ∧
        ∀ e, (v.core g.lastCore).acc.val 0 e =
          if 1024 * q.idx + 32 * q.pos ≤ e ∧ e < 1024 * q.idx + 32 * q.pos + 32
          then BitVec.ofNat 80 (Fp.round .acc80 (Fp.decode fm (rowElem fm (g.tileRow t.toNat q.pos) (32 * h.toNat + e % 32))) .rne)
          else (s.core g.lastCore).acc.val 0 e)) ∧
  (∀ (s : State) n q g task t h f n32, s.seqCmd? n = some q → s.wg? q.w = some g → s.taskOf? g = some task → s.seqTurn q = true →
    mstrOperands q.insn = some (t, h, f, n32) → s.mstrSums q.w g task.rcd = [(q.w, [(q.w, q.w)])] → q.started = true →
    q.fault = none → let per := depthOf (slotFmt (task.rcd.slotW f)) / chunkTerms (slotFmt (task.rcd.slotW f))
    q.pos < per → q.idx + (if n32 then 1 else 2) ≤ 256 →
    ∃ u : State, Happens (.mstrChunkPass n) s u ∧ u.mem = s.mem ∧ u.wgs = s.wgs ∧ (u.seqCmd? n).map SeqCmd.pos = some (q.pos + 1) ∧
      (∀ a m j, a < (if n32 then 1 else 2) → m < 32 → j < 32 →
        (u.core g.lastCore).accElem (q.idx + a) m j = chunkElem ((s.core g.lastCore).accElem (q.idx + a) m j)
          (task.rcd.slotW f) h (g.tileRow t m) (task.rcd.slotW g.active.slot) g.active.h (g.active.row (32 * a + j)) q.pos % 2 ^ 80) ∧
      (∀ a m j, a < 256 → (a < q.idx ∨ q.idx + (if n32 then 1 else 2) ≤ a) → m < 32 → j < 32 →
        (u.core g.lastCore).accElem a m j = (s.core g.lastCore).accElem a m j)) ∧
  (∀ (s : State) n q g task, s.seqCmd? n = some q → s.wg? q.w = some g → s.taskOf? g = some task → s.seqDone q g task.rcd = true →
    q.cpym = none → q.outst ≠ 0 →
    (q.fault = none → ∃ v : State, v.seqQ = s.seqQ.filter (fun x => x.id != n) ∧ v.mem = s.mem ∧ v.wgs = s.wgs ∧
      Happens (.sequencerComplete n) s (v.updTrain q.w q.t fun tr => tr.updOutst q.outst fun o => { o with waitsFor := none })) ∧
    (∀ cause a, q.fault = some (cause, a) → Happens (.sequencerComplete n) s
      ((State.faultOutst { s with seqQ := s.seqQ.filter fun x => x.id != n } q.w q.t q.outst cause a 0).updTrain q.w q.t fun tr =>
        tr.updOutst q.outst fun o => { o with waitsFor := none })))

/-- The snapshot unit (R158 to R163) works off the head of its queue: SNAP opens a level over its list's ranges and answers its
handle, 0 at the limit of four, or ends the task at a range outside its leases; SQRY reports; a stale handle raises ILLEGAL; SACC of the
innermost level drops it and changes no byte of memory; SREJ of the innermost level puts back every line that it holds an entry for, and
stays at the head while a marker of its release is on its way. Event queues (R102, R103, R423): a record stands in the slot that TAIL
names and TAIL advances, its port receiving it then; a full queue counts a lost program record and keeps any other; a record of a task
without a queue goes to the host's ports, and so does one whose header is malformed, with STATUS 3. -/
def Obligations.SnapshotsAndRecordsReachTheirPlace : Prop :=
  (∀ (s : State) slot d q rest g task tr, s.doms.look slot = some d → d.queue = q :: rest → s.wg? q.w = some g → s.clocked = true →
       s.taskOf? g = some task → s.train? q.w q.t = some tr → s.forkClear q.w q.t q.fence = true →
       let go := Happens (.snapshotCommandStart (slot + 1)) s
       let popped := s.setDom slot { d with queue := rest }
       let vas := (List.range 136).map fun i => q.op.toNat + i
       (∀ k a l xs rs, q.insn = .snap k a l → s.missing g task tr.hmode vas = none → (s.core g.lastCore).inbox = [] →
         s.engBytes g task tr.hmode (s.fromCore g task tr.hmode vas) 0 vas = .ok xs → (∀ x ∈ xs, x.2 = false) →
         rangeList (xs.map fun x => x.1) = some rs →
         (∀ r, rs.find? (fun r => !task.leased r.1 r.2) = some r →
           go (s.endTask slot ⟨.lease, ((tr.outst? q.id).map Outst.pc).getD 0, BitVec.ofNat 64 r.1, 0, g.wgid⟩)) ∧
         ((∀ r ∈ rs, task.leased r.1 r.2 = true) →
          let live := (d.levels.filter fun l => l.n != 0).length
          (4 ≤ live → go (popped.finishCommand q.w q.t q.id [0])) ∧
          (live < 4 → go ((popped.setDom slot { d with queue := rest, levels := ⟨live + 1, d.freeGen, rs, false⟩ :: d.levels }).finishCommand
            q.w q.t q.id [BitVec.ofNat 64 (d.freeGen + 16 * (live + 1))])))) ∧
       (∀ k l, q.insn = .sqry k 0 l → go (popped.finishCommand q.w q.t q.id [d.report none])) ∧
       (∀ k h l v, q.insn = .sqry k h l → h ≠ 0 → d.named q.op = some v → go (popped.finishCommand q.w q.t q.id [d.report (some v)])) ∧
       (∀ i k h l sc, (i = .sacc h l ∨ (i = .sqry k h l ∧ h ≠ 0) ∨ (i = .srej h l sc ∧ q.released = false)) → q.insn = i → d.named q.op = none →
         go (popped.faultCommand q.w q.t q.id .illegal 0)) ∧
       (∀ h l v below, q.insn = .sacc h l → d.levels = v :: below → d.named q.op = some v → v.broken = false →
         (∀ x ∈ below, x.n < v.n) → ∃ (u : State) (d' : Domain), go u ∧ u.mem = s.mem ∧ u.doms.look slot = some d' ∧
           d'.levels = below ∧ d'.queue = rest) ∧
       (∀ h l sc v below, q.insn = .srej h l sc → q.released = false → d.levels = v :: below → d.named q.op = some v →
         v.broken = false → (∀ x ∈ below, x.n < v.n) →
         ((d.entries.filter fun e => e.level == v.n).Pairwise fun a b => a.line ≠ b.line) → (∀ e ∈ d.entries, e.data.length = 128) →
         let sc' := s.runScope task.rcd.tenant sc.toNat
         ∃ (u : State) (d' : Domain), go u ∧ u.doms.look slot = some d' ∧ d'.levels = below ∧
           (sc' = 0 ∨ tr.used = [] → d'.queue = rest) ∧
           (sc' ≠ 0 → (∃ x ∈ tr.used, markerInScope sc' x = true ∧ tr.marker? x = none ∧ s.destDead x = false) →
             d'.queue = { q with released := true } :: rest) ∧
           d'.entries = d.entries.filter (fun e => e.level != v.n) ∧
           (∀ e ∈ d.entries, e.level = v.n → ∀ i, i < 128 → Memory.read u.mem (128 * e.line + i) = e.data.getD i 0) ∧
           (∀ a, (∀ e ∈ d.entries, e.level = v.n → a / 128 ≠ e.line) → Memory.read u.mem a = Memory.read s.mem a))) ∧
  (∀ (s : State) i p task d, s.posts[i]? = some p → s.task? p.slot = some task → s.clocked = true →
       (∀ off h va pa uc, p.evq ≠ 0 → s.findQueue 0 task false p.evq.toNat = .here off h false →
         h.bad = false → (h.tail + 2 ^ 64 - h.head) % 2 ^ 64 ≠ h.cap → s.postBehind i p = false → 0 < h.cap →
         va = p.evq.toNat + 64 + 64 * (h.tail % h.cap) → s.walkPull 0 p.tenant va = none → s.reach 0 task false va .store = .ok pa false uc →
         s.pullLost pa = false → s.pullPending pa = false → s.isLocal pa = true → (offOf pa + 64 ≤ off ∨ off + 64 ≤ offOf pa) →
         ∃ u : State, Happens (.completionRecordPost ⟨i, d⟩) s u ∧ u.posts = s.posts.eraseIdx i ∧
           Sends s u (match p.port with
             | some n => if p.type = 2 then [] else [eventFrame n p.tenant 0 (p.bytes h.tail)]
             | none => []) ∧
           (∀ n, n < 64 → Memory.read u.mem (offOf pa + n) = (p.bytes h.tail).getD n 0) ∧
           u.homeWord (off + 0x10) = BitVec.ofNat 64 (h.tail + 1) ∧
           ∀ a, (a < offOf pa ∨ offOf pa + 64 ≤ a) → (a < off + 0x10 ∨ off + 0x18 ≤ a) → Memory.read u.mem a = Memory.read s.mem a) ∧
       (∀ off h, p.evq ≠ 0 → s.findQueue 0 task false p.evq.toNat = .here off h false → h.bad = false →
         (h.tail + 2 ^ 64 - h.head) % 2 ^ 64 = h.cap → (p.type ≠ 2 → Happens (.completionRecordPost ⟨i, d⟩) s s) ∧
         (p.type = 2 → ∃ u : State, Happens (.completionRecordPost ⟨i, d⟩) s u ∧ u.posts = s.posts.eraseIdx i ∧
           u.homeWord (off + 0x18) = BitVec.ofNat 64 (h.lost + 1))) ∧
       (∀ off h poison, p.evq ≠ 0 → p.outst = none → s.findQueue 0 task false p.evq.toNat = .here off h poison →
         (poison = true ∨ h.bad = true) → ∃ u : State, Happens (.completionRecordPost ⟨i, d⟩) s u ∧ u.posts = s.posts.eraseIdx i ∧
           u.mem = s.mem ∧ Sends s u (([0, 1].filter fun n => (s.hostPort.getLsbD n) || p.port == some n).map fun n =>
             eventFrame n p.tenant 3 (p.bytes (Config.seqUnposted s.free).toNat))) ∧
       (p.evq = 0 → p.type = 2 → ∃ u : State, Happens (.completionRecordPost ⟨i, d⟩) s u ∧ u.posts = s.posts.eraseIdx i ∧ u.mem = s.mem ∧
         u.out = s.out) ∧
       (p.evq = 0 → p.type ≠ 2 → ∃ u : State, Happens (.completionRecordPost ⟨i, d⟩) s u ∧ u.posts = s.posts.eraseIdx i ∧ u.mem = s.mem ∧
         Sends s u (([0, 1].filter fun n => (s.hostPort.getLsbD n) || p.port == some n).map fun n =>
           eventFrame n p.tenant 0 (p.bytes (Config.seqUnposted s.free).toNat))))

/-- Pre-emption (R199, R203 to R205, R208, R268): a request is delivered no earlier than the context's 512th cycle; the core halts where
no prefix has issued whose word is about to, and otherwise goes on; the context is saved with every register as it was; a workgroup whose
slice is over is asked to leave and yields. Placement (R193 to R197, R424): the selection places a Ready task of one train on its
partition's first core, its split at ENTRY, every register at the value that the model names (notes/assumptions/6.md), its private window
where the model finds room (notes/assumptions/7.md). A saved workgroup resumes on a core where the selection places it there (R196,
R209): where it is all that waits, on its partition's first core, if that has room, with its registers. -/
def Obligations.WorkIsPlacedPreemptedAndResumed : Prop :=
  (∀ (s : State) w g, s.wg? w = some g → s.partner? w g = none →
       (∀ c n, g.place = .resident c n → g.asked = true → Happens (.preemptRequest w) s { s with
         clock := max s.clock (g.placedAt + 512)
         wgs := s.wgs.set w { g with place := .halting c n, asked := false, ctxgen := g.ctxgen + 1
                                     lehrStop := g.lehrStop || (s.trainsOf w).any fun e => e.2.splits.any fun q => q.wait == .lehr } }) ∧
       (s.atBoundary w = false → Happens (.coreHalt w) s s) ∧
       (∀ c n, g.place = .halting c n → s.atBoundary w = true → ∃ (u : State) (g' : Wg), Happens (.coreHalt w) s u ∧
         u.wg? w = some g' ∧ g' = { g with place := .halted c n, bars := g'.bars } ∧ u.mem = s.mem ∧ u.tasks = s.tasks ∧
         ∀ t, (u.train? w t).map Train.k = (s.train? w t).map Train.k ∧ (u.train? w t).map Train.v = (s.train? w t).map Train.v ∧
           (u.train? w t).map (fun tr => tr.splits.map fun q => { q with last := 0 }) =
             (s.train? w t).map fun tr => tr.splits.map fun q => { q with last := 0 }) ∧
       (∀ c n task, g.place = .halted c n → s.taskOf? g = some task → ∃ u : State, Happens (.contextSave w) s u ∧
         u.wg? w = some { g with place := .saved c } ∧ u.trains = s.trains) ∧
       (∀ due, s.clocked = true → s.sliceDue w = some due → s.withUnit w = [w] → ∃ (u : State) (g' : Wg) (y : Yield), Happens (.timeSliceExpiry w) s u ∧
         u.clock = max s.clock due ∧ u.wg? w = some g' ∧ g'.asked = true ∧ g'.yielded = some y ∧ g'.place = g.place ∧ u.mem = s.mem)) ∧
  ((∀ (s : State) slot t core cs off, s.clocked = true → s.tasks = [(slot, t)] → s.wgs = [] → s.trains = [] → t.st = .ready →
       t.endInfo = none → s.partFits t.rcd = true → t.rcd.integ = 0 → t.rcd.coop = false → t.rcd.det = false → t.rcd.matrix = false →
       t.rcd.wgcount = 1 → t.rcd.ntrn = 1 → t.rcd.wgthr ≤ 32 → t.nextWg = 0 → t.ahead = [] → t.redo = [] → t.draining = false →
       t.dispatched = false → s.partCores t.rcd.part = core :: cs → s.roomOn slot t core = true →
       (s.hdesc.val ⟨0, 0, 0, 0⟩ t.rcd.tenant).vec = 0 → s.allocPriv t.rcd.privSize = some off → t.rcd.prio ≤ 7 →
       t.site = none → t.serial = false →
       ∃ (u : State) (g : Wg) (tr : Train) (q : Split), Happens .dispatchSelection s u ∧ u.wgs = [g] ∧ g.slot = slot ∧ g.wgid = 0 ∧
         g.mode = .primary ∧ g.place = .resident core 0 ∧ u.train? 0 0 = some tr ∧ tr.trn = 0 ∧ tr.splits = [q] ∧ q.pc = t.rcd.entry ∧
         q.exm = BitVec.ofNat 32 (2 ^ t.rcd.wgthr - 1) ∧ q.member = q.exm ∧ tr.hmode = false ∧ tr.k = [] ∧ tr.v = [] ∧ tr.p = [] ∧
         tr.pb = s.boxPa off ∧ ∃ t', u.task? slot = some t' ∧ t'.st = .running ∧ t'.nextWg = 1) ∧
     (∀ (s : State) w g g' core, s.clocked = true → core ≤ 63 → s.wg? w = some g → g.isSaved = true → s.select.wg? w = some g' →
       (g'.core? = some core → Happens (.contextResume w core) s s.select) ∧
       (g'.core? ≠ some core → Happens (.contextResume w core) s s)) ∧
     (∀ (s : State) slot t g core cs, s.clocked = true → core ≤ 63 → s.tasks = [(slot, t)] → s.wgs = [g] → g.slot = slot → g.sub = t.sub →
       g.isSaved = true → g.mode = .primary → g.yielded = none → (t.st = .ready ∨ t.st = .running) → t.endInfo = none → t.site = none →
       s.partFits t.rcd = true → t.rcd.integ = 0 → t.rcd.coop = false → t.rcd.matrix = false → t.rcd.wgcount ≤ t.nextWg → t.rcd.prio ≤ 7 →
       s.partCores t.rcd.part = core :: cs → s.canResume false slot t [0] [core] = true →
       ∃ (u : State) (g' : Wg), Happens (.contextResume 0 core) s u ∧ u.wg? 0 = some g' ∧ g'.place = .resident core 0 ∧
         g'.bars = g.bars ∧ g'.tiles = g.tiles ∧ g'.share = g.share ∧
         ∀ n, (u.train? 0 n).map Train.k = (s.train? 0 n).map Train.k ∧ (u.train? 0 n).map Train.v = (s.train? 0 n).map Train.v ∧
           (u.train? 0 n).map Train.p = (s.train? 0 n).map Train.p))

/-- Leases (R155, R173 to R176, R191): a task all of whose pages resolve, and for which nothing waits, holds their pins and
is Ready; one that would take a PINS past 255 stays (notes/assumptions/89.md); one with a page that does not resolve waits and says so,
and so does a task with a domain that leases one frame at two pages, while one that leases a frame of another domain stays; one with a
page on a lost chip ends with PULL_LOST, whatever else fails. The end of workgroups and tasks (R27, R191, R192, R246): a workgroup of an
unchecked task all of whose trains have ended, and that created no region, leaves its core; a task then retires step by step: it begins,
waits until its writes are performed, its record is put in line, and once that is posted its slot is free. Checkpoints, comparison, replay
and recovery (R221, R227 to R231): placement stops when CKPTN workgroups have completed; an interval without a disagreement closes; a
request of a checked pair without its counterpart is kept, an equal control transfer goes on, and an unequal one, or one that waits 4,096
cycles, ends a task without a lehr with MISMATCH; a level-1 replay is placed on another core, unless its log ran over; an exhausted
lehr is rolled back, and ends the task if its interval already ran one workgroup at a time for that reason, or has no lehr. -/
def Obligations.TasksHoldLeasesRetireAndAreChecked : Prop :=
  (∀ (s : State) slot t, s.task? slot = some t → s.clocked = true → t.st = .resolving → t.endInfo = none →
       let holds := t.rcd.holds (s.windowOf t.rcd.tenant)
       let waits := fun (code page frame idx : Nat) => ∃ u : State, Happens (.leaseResolve slot) s u ∧
         u.task? slot = some { t with st := .waiting } ∧ u.mem = s.mem ∧
         Sends s u (([0, 1].filter fun k => (s.hostPort.getLsbD k) || t.port == some k).map fun k =>
           eventFrame k t.rcd.tenant 0 (waitingRecord slot t code page frame idx))
       let lost := fun (page : Nat) => Happens (.leaseResolve slot) s
         (s.setTask slot { t with endInfo := some ⟨.pullLost, 0, BitVec.ofNat 64 (page * 4096), 0, 0⟩ })
       (∀ ps, s.resolveHolds t.rcd.tenant holds = .ok ps → t.rcd.lehr = 0 → s.behindCommand ps = false →
         ((∀ f, (s.attrOf f).pins.toNat + (ps.filter fun p => p.frame == f).length ≤ 255) →
          ∃ u : State, Happens (.leaseResolve slot) s u ∧ u.mem = s.mem ∧ u.task? slot = some { t with
           st := .ready, pins := pinsOf ps, window := s.windowOf t.rcd.tenant } ∧
          ∀ f, (u.attrOf f).pins.toNat = (s.attrOf f).pins.toNat + (ps.filter fun p => p.frame == f).length) ∧
         ((∃ f, 255 < (s.attrOf f).pins.toNat + (ps.filter fun p => p.frame == f).length) → Happens (.leaseResolve slot) s s)) ∧
       (∀ ps, s.resolveHolds t.rcd.tenant holds = .ok ps → t.rcd.lehr ≠ 0 →
         (∀ p, twoPages [] ps = some p → waits 5 p.page p.frame p.idx) ∧
         (twoPages [] ps = none → (∃ p ∈ ps, p.window = false ∧ (s.attrOf p.frame).domain ≠ 0) → Happens (.leaseResolve slot) s s)) ∧
       (∀ n page frame idx, s.resolveHolds t.rcd.tenant holds = .error (.code n page frame idx) →
         (s.lostHold t.rcd.tenant holds = none → waits n page frame idx) ∧
         ∀ p, s.lostHold t.rcd.tenant holds = some p → lost p) ∧
       (∀ page, s.resolveHolds t.rcd.tenant holds = .error (.lost page) → lost page)) ∧
  ((∀ (s : State) w g task, s.wg? w = some g → s.clocked = true → s.taskOf? g = some task → g.mode = .primary → g.place ≠ .ended →
       g.normal = false → task.rcd.integ = 0 → task.rcd.audk = 0 → task.rcd.matrix = false → task.endInfo = none → s.runDone w = true →
       s.partner? w g = none → (∀ r ∈ s.regions, r.creator ≠ w) →
       ∃ (u : State) (g' : Wg) (task' : Task), Happens (.workgroupEnd w) s u ∧ u.wg? w = some g' ∧ g'.place = .ended ∧ g'.normal = true ∧
         u.task? g.slot = some task' ∧ task'.interval = task.interval ++ [g.wgid] ∧ u.mem = s.mem) ∧
     (∀ (s : State) slot t, s.task? slot = some t → s.clocked = true →
       (∀ e, t.retireStep = 0 → t.endInfo = some e → ∃ (u : State) (t' : Task), Happens (.taskRetire slot) s u ∧
         u.task? slot = some t' ∧ t'.st = .retiring ∧ t'.retireStep = 1 ∧ t'.endInfo = some e) ∧
       (t.retireStep = 0 → t.endInfo = none → s.allEnded slot t = true → t.firstEnd = none → t.rcd.integ = 0 → t.disagree = none →
         ∃ (u : State) (t' : Task), Happens (.taskRetire slot) s u ∧
           u.task? slot = some t' ∧ t'.st = .retiring ∧ t'.retireStep = 1 ∧ t'.endInfo = none) ∧
       (t.retireStep = 2 → s.released slot t.rcd.tenant = false → Happens (.taskRetire slot) s s) ∧
       (t.retireStep = 3 → ∃ (u : State) (p : Post), Happens (.taskRetire slot) s u ∧ u.posts = s.posts ++ [p] ∧ p.slot = slot ∧
         p.sub = t.sub ∧ p.evq = t.rcd.evq ∧ p.type = (if t.endInfo.isSome then 4 else 1) ∧
         p.cause = (match t.endInfo with
           | some e => e.cause.code
           | none => 0) ∧ u.mem = s.mem) ∧
       (t.retireStep = 4 → s.posting slot t.sub = true → Happens (.taskRetire slot) s s) ∧
       (t.retireStep = 4 → s.posting slot t.sub = false → ∃ u : State, Happens (.taskRetire slot) s u ∧ u.task? slot = none ∧
         u.mem = s.mem ∧ ∀ n, n ≠ slot → u.task? n = (s.task? n).map fun x => x.clearEdge t.sub t.endInfo.isSome))) ∧
  ((∀ (s : State) slot t, s.task? slot = some t → s.clocked = true → t.st = .running → 2 ≤ t.rcd.integ → t.rcd.lehr ≠ 0 →
       t.endInfo = none → t.firstEnd = none →
       (t.draining = false → t.ckpt ≤ t.interval.length → t.nextWg < t.rcd.wgcount →
         Happens (.checkpointClose slot) s (s.setTask slot { t with draining := true })) ∧
       (t.draining = true → s.drained slot t = true → t.disagree = none → ∃ (u : State) (t' : Task),
         Happens (.checkpointClose slot) s u ∧ u.task? slot = some t' ∧ t'.closed = t.closed + t.interval.length ∧ t'.interval = [] ∧
         t'.mark = (t.nextWg, t.ahead) ∧ t'.draining = false ∧ t'.kept = t.kept ++ t.keptNow ∧
         (∀ d ∈ u.defer, d.chip = s.chipId → d.slot ≠ slot))) ∧
     (∀ (s : State) w t g tr r rest mine other, s.wg? w = some g → s.train? w t = some tr → tr.cmp = r :: rest → g.core?.isSome = true →
       s.cmpKey w t g = some (mine, other) →
       ((∀ x ∈ s.cmps.val [] other, x.key ≠ r.key) → s.pairLoad g.lastCore < 256 → Happens (.comparatorRequest w t) s
         { s.setTrain w t { tr with cmp := rest } with cmps := s.cmps.store [] mine (s.cmps.val [] mine ++ [{ r with since := s.clock }]) }) ∧
       (∀ x task, (s.cmps.val [] other).find? (fun x => x.key == r.key) = some x → x.item ≠ r.item → s.taskOf? g = some task →
         task.endInfo = none → task.rcd.lehr = 0 → Happens (.comparatorRequest w t) s
           (s.setTask g.slot { task with endInfo := some ⟨.mismatch, 0, 0, 0, g.wgid⟩ })) ∧
       (∀ x ps, (s.cmps.val [] other).find? (fun x => x.key == r.key) = some x → x.item = r.item → r.item = .control ps →
         ∃ u : State, Happens (.comparatorRequest w t) s u ∧ u.train? w t = some { tr with cmp := rest } ∧
           u.cmps = s.cmps.store [] other (dropFirst (fun y => y.key == r.key) (s.cmps.val [] other)) ∧ u.tasks = s.tasks)) ∧
     (∀ (s : State) w t g due task, s.wg? w = some g → s.compareDue w t = some due → s.taskOf? g = some task → task.endInfo = none →
       task.rcd.lehr = 0 → Happens (.comparatorTimeout w t) s (State.setTask { s with clock := max s.clock due } g.slot
         { task with endInfo := some ⟨.mismatch, 0, 0, 0, g.wgid⟩ })) ∧
     (∀ (s : State) slot wgid core t d u0, core ≤ 63 → s.clocked = true → s.task? slot = some t → t.rcd.integ = 1 → t.endInfo = none →
       t.fuse = 1 → s.partFits t.rcd = true → s.unaudited slot t wgid = some d → core ∈ s.logicalCores t → d.core ≠ core →
       core ∉ s.reserved →
       (4096 < d.logged → Happens (.auditReplay slot wgid core) s (s.setTask slot { t with audited := wgid :: t.audited })) ∧
       (d.logged ≤ 4096 → s.roomOn slot t core = true →
         s.placeRun false slot t wgid (s.lpidOf slot t wgid) core .replay = some u0 → Happens (.auditReplay slot wgid core) s u0)) ∧
     (∀ (s : State) slot t, s.task? slot = some t → t.st = .running → 2 ≤ t.rcd.integ → t.endInfo = none →
       s.allWaitLehr slot t = true →
       ((t.one = true ∨ t.rcd.lehr = 0) →
         ∃ n, Happens (.lehrExhaustion slot) s (s.setTask slot { t with endInfo := some ⟨.logOverflow, 0, 0, 0, n⟩ })) ∧
       (∀ u0, t.one = false → t.rcd.lehr ≠ 0 → s.rollback slot = (u0, false) → Happens (.lehrExhaustion slot) s
         (u0.updTask slot fun x => { x with
           serial := true, one := true, digests := x.digests.filter fun d => d.attempt != x.attempts }))))

/-! ### Steps -/

/-- A STEP RUNS THE DECODED INSTRUCTION. The split that issues next fetches the word at its PC (R260): the step is the
instruction's `exec` with that word fetched, and then the frame engine goes on, which does nothing while no frame waits. A
word that decodes to no instruction raises ILLEGAL, a fetch that fails raises its cause, one that another chip or a pull must serve
first asks for it, and an event of the agenda happens. The word is the four bytes at the PC, the first lowest, as the core holds their
sector, or else as memory does; a discarded page reads as zero (R181). -/
def Obligations.StepRunsTheDecodedInstruction : Prop :=
  (∀ s s0 r c, IssuesNext s s0 r → let s1 := { s0 with cur := some ⟨r.w, r.t, r.p⟩ }
    let pc := c.sp.pc.toNat
    s1.ctx? (.nop 0) = some c →
    (∀ x, s1.fetchAt c.core c.task c.tr.hmode pc = .word x →
      let s2 := { s1.noteFetch c.core c.task c.tr.hmode pc with fetched := x }
      (∀ i, decode x = some i → step s = afterMove (exec i s2) State.pump) ∧
      (decode x = none → ∃ c', s2.ctx? (.nop 0) = some c' ∧
        step s = .next (s2.raiseIssue { c' with word := x } .illegal 0).pump)) ∧
    (∀ cause, s1.fetchAt c.core c.task c.tr.hmode pc = .fault cause → step s =
      .next (State.pump (State.raiseUniform { s1 with fetched := 0 } { c with word := 0 } cause c.sp.pc))) ∧
    (∀ pa, s1.fetchAt c.core c.task c.tr.hmode pc = .remote pa → step s = .next (State.pump (s1.askLine c pa)))) ∧
  (∀ (s : State) i rest, s.agenda = .event i :: rest → step s = afterMove (exec i { s with agenda := rest }) State.pump) ∧
  (∀ s : State, s.hostQ = [] → s.pump = s) ∧
  (∀ (s : State) core t h va pa uc disc, s.walkPull core t.rcd.tenant va = none →
    s.translate core t h va .fetch = .ok pa disc uc →
    (disc = true → s.fetchAt core t h va = .word 0) ∧
    (disc = false → pa % 4 = 0 → s.pullLost pa = false → s.pullPending pa = false →
      (∀ x, (s.core core).fetchSector? uc pa = some x → x.poison = false →
        s.fetchAt core t h va = .word (BitVec.ofNat 32 (littleEndian ((x.data.drop (pa % 32)).take 4)))) ∧
      ((s.core core).fetchSector? uc pa = none → s.isLocal pa = true → s.poisonAt (offOf pa) = false →
        s.fetchAt core t h va = .word (BitVec.ofNat 32 (littleEndian ((List.range 4).map fun b => Memory.read s.mem (offOf pa + b)))))))

/-- One word of each form of R263, its fields written out from bit 31 down, decodes to the instruction it stands for; a major
that R265 to R275 do not use, and a reserved field that is not zero (R264), decode to none. -/
def Obligations.WordsDecodeAsTheFormsSay : Prop :=
  decode (0x01#6 ++ 5#6 ++ 6#6 ++ 7#6 ++ 0#5 ++ 3#3) = some (.add 5 6 7 3) ∧
  decode (0x18#6 ++ 5#6 ++ 6#6 ++ 7#6 ++ 0#5 ++ 7#3) = some (.addK 5 6 7) ∧
  decode (0x07#6 ++ 8#6 ++ 9#6 ++ 10#6 ++ 11#4 ++ 0#1 ++ 2#3) = some (.divS 8 9 10 11 2) ∧
  decode (0x0C#6 ++ 12#6 ++ 13#6 ++ 0#6 ++ 14#4 ++ 0#1 ++ 1#3) = some (.fsqrt 12 13 14 1) ∧
  decode (0x10#6 ++ 20#6 ++ 21#6 ++ 0x7FF#11 ++ 7#3) = some (.addImm 20 21 0x7FF 7) ∧
  decode (0x16#6 ++ 22#6 ++ 0xABCD#16 ++ 1#1 ++ 4#3) = some (.moviHi 22 0xABCD 4) ∧
  decode (0x1B#6 ++ 23#6 ++ 0x1234#16 ++ 2#2 ++ 0#2) = some (.moviK 23 0x1234 2) ∧
  decode (0x0F#6 ++ 24#6 ++ 25#6 ++ 1#4 ++ 2#4 ++ 3#3 ++ 7#3) = some (.cvt 24 25 1 2 3 7) ∧
  decode (0x20#6 ++ 26#6 ++ 27#5 ++ 28#5 ++ 2#3 ++ 9#4 ++ 6#3) = some (.ld 26 27 28 2 9 6) ∧
  decode (0x25#6 ++ 29#6 ++ 30#5 ++ 31#5 ++ 3#3 ++ 1#4 ++ 5#3) = some (.atomXor 29 30 31 1 5) ∧
  decode (0x27#6 ++ 3#3 ++ 1#2 ++ 0#21) = some (.fence 3 1) ∧
  decode (0x39#6 ++ 1#3 ++ 0#2 ++ 0#5 ++ 0#5 ++ 4#3 ++ 5#4 ++ 6#4) = some (.tld 1 0 0 0 4 5 6) ∧
  decode (0x28#6 ++ 8#5 ++ 12#5 ++ 3#4 ++ 4#5 ++ 2#4 ++ 7#3) = some (.cpym 8 12 3 0 0 2 7) ∧
  decode (0x2C#6 ++ 9#5 ++ 10#5 ++ 0#4 ++ 0#5 ++ 3#4 ++ 0#3) = some (.snap 9 10 3) ∧
  decode (0x3E#6 ++ 0#2 ++ 0xABCDEF#24) = some (.immx 0xABCDEF) ∧
  decode (0x3F#6 ++ 6#6 ++ 0#5 ++ 0x10#10 ++ 0#2 ++ 7#3) = some (.csrr 6 0x10 7) ∧
  decode (0x30#6 ++ 7#6 ++ 8#6 ++ 9#5 ++ 2#6 ++ 0#3) = some (.xchXor 7 8 9 0) ∧
  decode (0x34#6 ++ 10#5 ++ 2#2 ++ 0x7FFFF#19) = some (.bra 10 2 0x7FFFF) ∧
  decode (0x35#6 ++ 3#3 ++ 1#1 ++ 0x3FFFFE#22) = some (.brd 3 1 0x3FFFFE) ∧
  decode (0x36#6 ++ 0x3FFFFFF#26) = some (.call 0x3FFFFFF) ∧
  decode (0x37#6 ++ 11#6 ++ 0#17 ++ 7#3) = some (.calli 11 7) ∧
  decode (0x17#6 ++ 0#26) = none ∧
  decode (0x01#6 ++ 5#6 ++ 6#6 ++ 7#6 ++ 11#5 ++ 7#3) = none ∧ decode (0x37#6 ++ 11#6 ++ 1#17 ++ 7#3) = none

/-- For every well-formed instruction, decoding its word gives it back, every operand at every value its field admits (R260
to R276). -/
def Obligations.DecodingGivesBackWhatWasEncoded : Prop :=
  ∀ i, Laws.RoundTrip.Statement i

/-- A word that decodes to an instruction is the word that the instruction is encoded by: no word has two meanings, no two
words share one, and a reserved bit that is not zero decodes to nothing (R272). -/
def Obligations.EveryInstructionHasOneWord : Prop :=
  ∀ w i, decode w = some i → encode i = some w

/-- The invariant that every step keeps: main memory stands in its canonical form. -/
def Obligations.StepsKeepMemoryCanonical : Prop :=
  ∀ s t, s.Inv → step s = .next t → t.Inv

/-- A step stops neither with a fault nor with a refusal, as long as the agenda's events name parts of the chip. -/
def Obligations.StepsNeverStop : Prop :=
  ∀ s : State, (∀ m ∈ s.agenda, m.sound) → ∃ t, step s = .next t

/-- Right after reset memory is in its canonical form, and the host's registers hold their reset values (R122, R168, R193,
R225, R235, R240, R86): every way permitted, no table, no core in a partition, no pair, no handler, no owner of a store.
The model's choices are that memory reads zero before bring-up, that no reduction context has an owner and that no drop is
counted (notes/assumptions/1.md, 6.md, 9.md). -/
def Obligations.ResetHoldsItsValues : Prop :=
  State.reset.Inv ∧ State.reset.power = .inReset ∧ State.reset.tasks = [] ∧ State.reset.trains = [] ∧
  (∀ a, Memory.read State.reset.mem a = 0) ∧
  (∀ i j, i ≤ 31 → j ≤ 15 → registerValue State.reset 1 i j = some 0xFFFF) ∧
  (∀ i, i ≤ 15 → registerValue State.reset 2 i 0 = some 0 ∧ registerValue State.reset 4 i 0 = some 0 ∧
    registerValue State.reset 8 i 0 = some 0) ∧
  (∀ i j, i ≤ 15 → j ≤ 1 → registerValue State.reset 3 i j = some 0) ∧
  (∀ i j, i ≤ 15 → j ≤ 3 → registerValue State.reset 5 i j = some 0) ∧
  (∀ i, i ≤ 80 → registerValue State.reset 6 i 0 = some (0x10 * 2 ^ 16 + 0x100 * 2 ^ 32)) ∧
  registerValue State.reset 7 0 0 = some 0 ∧ (∀ i, i ≤ 1 → registerValue State.reset 10 i 0 = some 0) ∧
  (∀ n, (State.reset.core n).valid = false ∧ (State.reset.core n).owner = 0)
end

