-- ==== Sys2Proof/Laws/Cells.lean ====
section
/-! SUPPORT. Sparse maps and main memory: what a read after a write gives, and that every operation keeps the canonical
form. -/

namespace Sys2Proof.Machine

/-! ### Look-up -/

@[simp] theorem Cells.look_nil {α : Type} (k : Nat) : Cells.look ([] : Cells α) k = none := rfl

theorem Cells.look_put {α : Type} (m : Cells α) (k j : Nat) (x : α) :
    (m.put k x).look j = if j = k then some x else m.look j := by
  induction m with
  | nil => simp [Cells.put, Cells.look, eq_comm]
  | cons e m ih =>
    obtain ⟨a, y⟩ := e
    simp only [Cells.put]
    split
    · simp [Cells.look, eq_comm]
    · split
      · rename_i h
        subst h
        by_cases hj : j = k
        · simp [Cells.look, hj]
        · simp [Cells.look, hj, Ne.symm hj]
      · by_cases ha : a = j
        · subst ha
          rename_i h
          simp [Cells.look, Ne.symm h]
        · simp [Cells.look, ha, ih]

@[simp] theorem Cells.look_put_self {α : Type} (m : Cells α) (k : Nat) (x : α) : (m.put k x).look k = some x := by
  simp [Cells.look_put]

theorem Cells.look_put_ne {α : Type} (m : Cells α) {k j : Nat} (x : α) (h : j ≠ k) : (m.put k x).look j = m.look j := by
  simp [Cells.look_put, h]

theorem Cells.look_del {α : Type} (m : Cells α) (k j : Nat) : (m.del k).look j = if j = k then none else m.look j := by
  induction m with
  | nil => simp [Cells.del]
  | cons e m ih =>
    obtain ⟨a, y⟩ := e
    simp only [Cells.del]
    split
    · rename_i h
      subst h
      rw [ih]
      by_cases hj : j = k
      · simp [hj]
      · simp [hj, Cells.look, Ne.symm hj]
    · rename_i h
      by_cases ha : a = j
      · subst ha
        simp [Cells.look, Ne.symm h]
      · simp [Cells.look, ha, ih]

/-- A read after a write: the value at the key written, what it was elsewhere. -/
theorem Cells.val_store {α : Type} [DecidableEq α] (m : Cells α) (d : α) (k j : Nat) (x : α) :
    (m.store d k x).val d j = if j = k then x else m.val d j := by
  unfold Cells.store Cells.val
  split
  · rename_i h
    subst h
    simp only [Cells.look_del]
    split <;> rfl
  · simp only [Cells.look_put]
    split <;> rfl

@[simp] theorem Cells.val_store_self {α : Type} [DecidableEq α] (m : Cells α) (d : α) (k : Nat) (x : α) :
    (m.store d k x).val d k = x := by simp [Cells.val_store]

theorem Cells.val_store_ne {α : Type} [DecidableEq α] (m : Cells α) (d : α) {k j : Nat} (x : α) (h : j ≠ k) :
    (m.store d k x).val d j = m.val d j := by simp [Cells.val_store, h]

theorem Cells.look_mapVals {α : Type} (f : α → α) (m : Cells α) (k : Nat) :
    (Cells.mapVals f m).look k = (m.look k).map f := by
  induction m with
  | nil => rfl
  | cons e m ih =>
    obtain ⟨a, y⟩ := e
    by_cases h : a = k
    · simp [Cells.mapVals, Cells.look, h]
    · simp only [Cells.mapVals, List.map_cons, Cells.look, h, if_false] at ih ⊢
      exact ih

/-! ### Canonical form -/

theorem Cells.above_put {α : Type} (m : Cells α) {b k : Nat} (x : α) (hk : b < k) (h : Cells.above b m = true) :
    Cells.above b (m.put k x) = true := by
  induction m with
  | nil => simp [Cells.put, Cells.above, hk]
  | cons e m ih =>
    obtain ⟨a, y⟩ := e
    simp only [Cells.above, List.all_cons, Bool.and_eq_true, decide_eq_true_eq] at h ih
    simp only [Cells.put]
    split
    · simp [Cells.above, hk, h.1, h.2]
    · split
      · simp [Cells.above, hk, h.2]
      · simp only [Cells.above, List.all_cons, Bool.and_eq_true, decide_eq_true_eq]
        exact ⟨h.1, ih h.2⟩

theorem Cells.above_mono {α : Type} (m : Cells α) {a b : Nat} (hab : a < b) (h : Cells.above b m = true) :
    Cells.above a m = true := by
  simp only [Cells.above, List.all_eq_true, decide_eq_true_eq] at h ⊢
  exact fun e he => Nat.lt_trans hab (h e he)

theorem Cells.rising_put {α : Type} (m : Cells α) (k : Nat) (x : α) (h : m.rising = true) : (m.put k x).rising = true := by
  induction m with
  | nil => simp [Cells.put, Cells.rising, Cells.above]
  | cons e m ih =>
    obtain ⟨a, y⟩ := e
    simp only [Cells.rising, Bool.and_eq_true] at h
    simp only [Cells.put]
    split
    · rename_i hk
      simp only [Cells.rising, Bool.and_eq_true]
      refine ⟨?_, h.1, h.2⟩
      simp only [Cells.above, List.all_cons, Bool.and_eq_true, decide_eq_true_eq]
      exact ⟨hk, Cells.above_mono m hk h.1⟩
    · split
      · rename_i hk
        subst hk
        simp only [Cells.rising, Bool.and_eq_true]
        exact h
      · simp only [Cells.rising, Bool.and_eq_true]
        exact ⟨Cells.above_put m x (by omega) h.1, ih h.2⟩

theorem Cells.above_del {α : Type} (m : Cells α) {b : Nat} (k : Nat) (h : Cells.above b m = true) :
    Cells.above b (m.del k) = true := by
  induction m with
  | nil => rfl
  | cons e m ih =>
    obtain ⟨a, y⟩ := e
    simp only [Cells.above, List.all_cons, Bool.and_eq_true, decide_eq_true_eq] at h ih
    simp only [Cells.del]
    split
    · exact ih h.2
    · simp only [Cells.above, List.all_cons, Bool.and_eq_true, decide_eq_true_eq]
      exact ⟨h.1, ih h.2⟩

theorem Cells.rising_del {α : Type} (m : Cells α) (k : Nat) (h : m.rising = true) : (m.del k).rising = true := by
  induction m with
  | nil => rfl
  | cons e m ih =>
    obtain ⟨a, y⟩ := e
    simp only [Cells.rising, Bool.and_eq_true] at h
    simp only [Cells.del]
    split
    · exact ih h.2
    · simp only [Cells.rising, Bool.and_eq_true]
      exact ⟨Cells.above_del m k h.1, ih h.2⟩

theorem Cells.mem_put {α : Type} (m : Cells α) (k : Nat) (x : α) (e : Nat × α) (h : e ∈ m.put k x) :
    e = (k, x) ∨ e ∈ m := by
  induction m with
  | nil => simpa [Cells.put] using h
  | cons f m ih =>
    obtain ⟨a, y⟩ := f
    simp only [Cells.put] at h
    split at h
    · simpa using h
    · split at h
      · simp only [List.mem_cons] at h ⊢
        exact h.elim .inl fun h => .inr (.inr h)
      · simp only [List.mem_cons] at h ⊢
        rcases h with h | h
        · exact .inr (.inl h)
        · rcases ih h with h | h
          · exact .inl h
          · exact .inr (.inr h)

theorem Cells.mem_del {α : Type} (m : Cells α) (k : Nat) (e : Nat × α) (h : e ∈ m.del k) : e ∈ m := by
  induction m with
  | nil => simp [Cells.del] at h
  | cons f m ih =>
    obtain ⟨a, y⟩ := f
    simp only [Cells.del] at h
    split at h
    · exact List.mem_cons_of_mem _ (ih h)
    · simp only [List.mem_cons] at h ⊢
      rcases h with h | h
      · exact .inl h
      · exact .inr (ih h)

/-- A write keeps the canonical form. -/
theorem Cells.wf_store {α : Type} [DecidableEq α] (m : Cells α) (d : α) (k : Nat) (x : α) (h : Cells.wf d m = true) :
    Cells.wf d (m.store d k x) = true := by
  simp only [Cells.wf, Bool.and_eq_true, List.all_eq_true, decide_eq_true_eq] at h ⊢
  unfold Cells.store
  split
  · exact ⟨Cells.rising_del m k h.1, fun e he => h.2 e (Cells.mem_del m k e he)⟩
  · rename_i hx
    refine ⟨Cells.rising_put m k x h.1, fun e he => ?_⟩
    rcases Cells.mem_put m k x e he with rfl | he
    · exact hx
    · exact h.2 e he

/-- Two maps in canonical form that read alike are equal. -/
theorem Cells.look_above {α : Type} (m : Cells α) (k : Nat) (h : Cells.above k m = true) : m.look k = none := by
  induction m with
  | nil => rfl
  | cons e m ih =>
    obtain ⟨a, y⟩ := e
    simp only [Cells.above, List.all_cons, Bool.and_eq_true, decide_eq_true_eq] at h ih
    have : a ≠ k := by omega
    simp [Cells.look, this, ih h.2]

/-! ### Main memory -/

theorem Memory.read_write (m : List Host.Cell) (a b : Nat) (x : Byte) :
    Memory.read (Memory.write m a x) b = if b = a then x else Memory.read m b := Cells.val_store m memDefault a b x

theorem Memory.wf_write (m : List Host.Cell) (a : Nat) (x : Byte) (h : Memory.wf m = true) :
    Memory.wf (Memory.write m a x) = true := Cells.wf_store m memDefault a x h

theorem Memory.wf_writeN (bs : List Byte) : ∀ (m : List Host.Cell) (a : Nat), Memory.wf m = true →
    Memory.wf (Memory.writeN m a bs) = true := by
  induction bs with
  | nil => exact fun _ _ h => h
  | cons b bs ih => exact fun m a h => ih _ _ (Memory.wf_write m a b h)

theorem Memory.wf_merge (bs : List HomeByte) : ∀ m : List Host.Cell, Memory.wf m = true →
    Memory.wf (Memory.merge m bs) = true := by
  induction bs with
  | nil => exact fun _ h => h
  | cons b bs ih => exact fun m h => ih _ (Memory.wf_write m _ _ h)

/-- Bytes outside a write of consecutive bytes keep their value. -/
theorem Memory.read_writeN_ne (bs : List Byte) : ∀ (m : List Host.Cell) (a b : Nat), (b < a ∨ a + bs.length ≤ b) →
    Memory.read (Memory.writeN m a bs) b = Memory.read m b := by
  induction bs with
  | nil => exact fun _ _ _ _ => rfl
  | cons x bs ih =>
    intro m a b h
    simp only [List.length_cons] at h
    have h1 : b < a + 1 ∨ a + 1 + bs.length ≤ b := by omega
    have h2 : b ≠ a := by omega
    simp only [Memory.writeN]
    rw [ih _ _ _ h1, Memory.read_write, if_neg h2]

/-- Bytes inside a write of consecutive bytes read as written. -/
theorem Memory.read_writeN (bs : List Byte) : ∀ (m : List Host.Cell) (a i : Nat), i < bs.length →
    Memory.read (Memory.writeN m a bs) (a + i) = bs.getD i 0 := by
  induction bs with
  | nil => intro m a i h; simp at h
  | cons x bs ih =>
    intro m a i h
    simp only [Memory.writeN]
    cases i with
    | zero =>
      simp only [Nat.add_zero]
      rw [Memory.read_writeN_ne bs _ _ _ (by omega), Memory.read_write, if_pos rfl]
      rfl
    | succ i =>
      simp only [List.length_cons] at h
      have := ih (Memory.write m a x) (a + 1) i (by omega)
      rw [show a + (i + 1) = a + 1 + i by omega, this]
      rfl

/-- Bytes that no masked byte names keep their value. -/
theorem Memory.read_merge_ne (bs : List HomeByte) : ∀ (m : List Host.Cell) (b : Nat), (∀ x ∈ bs, x.off ≠ b) →
    Memory.read (Memory.merge m bs) b = Memory.read m b := by
  induction bs with
  | nil => exact fun _ _ _ => rfl
  | cons x bs ih =>
    intro m b h
    simp only [Memory.merge]
    rw [ih _ _ fun y hy => h y (List.mem_cons_of_mem _ hy), Memory.read_write, if_neg (Ne.symm (h x (by simp)))]

end Sys2Proof.Machine
end

