-- ==== Sys2Proof/Laws/Check.lean ====
section
/-! SUPPORT. The check value of a sector is the one that R125 computes bit by bit. -/

namespace Sys2Proof.Machine

/-- One bit into the CRC of R125. -/
def crcBit (r : Nat) (b : Bool) : Nat :=
  let x := r.testBit 13 != b
  let r := (r <<< 1) % 16384
  if x then r ^^^ 0x202D else r

/-- Bits 0 to 7 of a byte, one after the other. -/
def crcBits (r : Nat) (b : Byte) : Nat :=
  (List.range 8).foldl (fun r i => crcBit r (b.getLsbD i)) r

theorem crcBit_xor (r s : Nat) (a b : Bool) : crcBit (r ^^^ s) (a != b) = crcBit r a ^^^ crcBit s b := by
  unfold crcBit
  simp only [Nat.testBit_xor, Nat.shiftLeft_xor_distrib, show 16384 = 2 ^ 14 from rfl, Nat.xor_mod_two_pow]
  generalize r <<< 1 % 2 ^ 14 = x
  generalize s <<< 1 % 2 ^ 14 = y
  generalize r.testBit 13 = p
  generalize s.testBit 13 = q
  cases p <;> cases q <;> cases a <;> cases b <;> simp [Nat.xor_assoc, Nat.xor_comm, Nat.xor_left_comm]

theorem crcBits_xor (r s : Nat) (a b : Byte) : crcBits (r ^^^ s) (a ^^^ b) = crcBits r a ^^^ crcBits s b := by
  unfold crcBits
  generalize List.range 8 = l
  induction l generalizing r s with
  | nil => rfl
  | cons i l ih => rw [List.foldl_cons, List.foldl_cons, List.foldl_cons, ← ih, ← crcBit_xor]; simp [BitVec.getLsbD_xor]

theorem crcFeed_xor (u v k : Nat) : crcFeed (u ^^^ v) k = crcFeed u k ^^^ crcFeed v k := by
  unfold crcFeed
  rw [Nat.shiftRight_xor_distrib, Nat.xor_assoc, Nat.xor_assoc]; congr 1
  rw [← Nat.xor_assoc, Nat.xor_comm v, Nat.xor_assoc]

theorem xor_swap (a b c d : Nat) : (a ^^^ b) ^^^ (c ^^^ d) = (a ^^^ c) ^^^ (b ^^^ d) := by
  rw [Nat.xor_assoc, Nat.xor_assoc, ← Nat.xor_assoc b, Nat.xor_comm b, Nat.xor_assoc c]

theorem crcByte_xor (r s : Nat) (b : Byte) : crcByte (r ^^^ s) b = crcByte r b ^^^ crcByte s 0 := by
  have e : ((r ^^^ s) >>> 6) ^^^ reverse8 b.toNat = ((r >>> 6) ^^^ reverse8 b.toNat) ^^^ ((s >>> 6) ^^^ reverse8 (0#8).toNat) := by
    rw [show reverse8 (0#8).toNat = 0 from rfl, Nat.xor_zero, Nat.shiftRight_xor_distrib, Nat.xor_assoc, Nat.xor_assoc, Nat.xor_comm (s >>> 6)]
  have sw (a a' b b' c c' d d' e e' f f' : Nat) : (a ^^^ a') ^^^ (b ^^^ b') ^^^ (c ^^^ c') ^^^ (d ^^^ d') ^^^ (e ^^^ e') ^^^ (f ^^^ f') =
      (a ^^^ b ^^^ c ^^^ d ^^^ e ^^^ f) ^^^ (a' ^^^ b' ^^^ c' ^^^ d' ^^^ e' ^^^ f') := by
    rw [xor_swap a a' b b', xor_swap (a ^^^ b) _ c c', xor_swap (a ^^^ b ^^^ c) _ d d', xor_swap (a ^^^ b ^^^ c ^^^ d) _ e e',
      xor_swap (a ^^^ b ^^^ c ^^^ d ^^^ e) _ f f']
  simp only [crcByte, e, crcFeed_xor, Nat.shiftLeft_xor_distrib, ← Nat.xor_mod_two_pow]
  rw [sw]; rfl

/-- The low and the high half of the register, and the byte, each alone. -/
theorem crcBits_low (x : BitVec 7) : crcBits x.toNat 0 = crcByte x.toNat 0 := by revert x; decide +kernel
theorem crcBits_high (x : BitVec 7) : crcBits (x.toNat <<< 7) 0 = crcByte (x.toNat <<< 7) 0 := by revert x; decide +kernel
theorem crcBits_byte (b : Byte) : crcBits 0 b = crcByte 0 b := by revert b; decide +kernel

theorem crcByte_eq (r : Nat) (h : r < 2 ^ 14) (b : Byte) : crcByte r b = crcBits r b := by
  have e : r = (0 ^^^ ((BitVec.ofNat 7 (r >>> 7)).toNat <<< 7)) ^^^ (BitVec.ofNat 7 r).toNat := by
    rw [Nat.zero_xor, BitVec.toNat_ofNat, BitVec.toNat_ofNat]
    apply Nat.eq_of_testBit_eq
    intro i
    rw [Nat.testBit_xor, Nat.testBit_shiftLeft, Nat.testBit_mod_two_pow, Nat.testBit_mod_two_pow, Nat.testBit_shiftRight]
    by_cases h1 : i < 7
    · simp [h1, show ¬ 7 ≤ i by omega]
    · by_cases h2 : i < 14
      · simp [h1, show 7 ≤ i by omega, show i - 7 < 7 by omega, show 7 + (i - 7) = i by omega]
      · simp [h1, show ¬ i - 7 < 7 by omega, Nat.testBit_lt_two_pow (Nat.lt_of_lt_of_le h (Nat.pow_le_pow_right (by decide) (by omega : 14 ≤ i)))]
  have e2 : b = (b ^^^ 0) ^^^ 0 := by simp
  conv_rhs => rw [e, e2, crcBits_xor, crcBits_xor]
  conv_lhs => rw [e, crcByte_xor, crcByte_xor]
  rw [crcBits_low, crcBits_high, crcBits_byte]
/-- The register stays 14 bits wide. -/
theorem crcByte_lt (r : Nat) (b : Byte) : crcByte r b < 2 ^ 14 := Nat.mod_lt _ (by decide)

/-- R125: the check value of a sector is the register after all its bits. -/
theorem checkValue_eq (bs : List Byte) : checkValue bs = BitVec.ofNat 14 (bs.foldl crcBits 0x3FFF) := by
  unfold checkValue
  congr 1
  suffices h : ∀ r, r < 2 ^ 14 → bs.foldl crcByte r = bs.foldl crcBits r from h _ (by decide)
  induction bs with
  | nil => intro r _; rfl
  | cons b bs ih => intro r h; rw [List.foldl_cons, List.foldl_cons, ← crcByte_eq r h]; exact ih _ (crcByte_lt _ _)

end Sys2Proof.Machine
end

