-- ==== Sys2Proof/Laws/Mem.lean ====
section
/-! SUPPORT. What the operations that write main memory do: which fields each may change, what memory then reads as, and
that each keeps the canonical form. -/

namespace Sys2Proof.Machine

/-! ### Writes at the home -/

/-- A copy (R160) changes the domains, the lines' check values and tags, and whether a task must close a checkpoint. -/
theorem State.copyOnWrite_frame (s : State) (off : Nat) (src : WriteSrc) :
    ∃ d l t, s.copyOnWrite off src = { s with doms := d, lineInfo := l, tasks := t } := by
  unfold State.copyOnWrite
  split
  · exact ⟨_, _, _, rfl⟩
  · split
    · exact ⟨_, _, _, rfl⟩
    · dsimp only
      split
      · split <;> exact ⟨_, _, _, rfl⟩
      · split
        · split <;> exact ⟨_, _, _, rfl⟩
        · split
          · unfold State.forceCheckpoint State.updTask
            split <;> exact ⟨_, _, _, rfl⟩
          · exact ⟨_, _, _, rfl⟩

/-- A write at the home changes memory by its bytes, and beside memory no more than a copy and the line's place in L2. -/
theorem State.writeHome_frame (s : State) (bs : List HomeByte) (src : WriteSrc) (p : Bool) :
    ∃ d l t c, s.writeHome bs src p =
      { s with mem := Memory.merge s.mem bs, doms := d, lineInfo := l, tasks := t, l2 := c } := by
  have lines : ∀ (ls : List Nat) (s : State), ∃ d l t c,
      ls.foldl (fun s l => (s.copyOnWrite (l * 128) src).touchL2 (s.boxPa (l * 128) / 128) (sectorMask bs l)) s =
        { s with doms := d, lineInfo := l, tasks := t, l2 := c } := by
    intro ls
    induction ls with
    | nil => exact fun s => ⟨_, _, _, _, rfl⟩
    | cons x ls ih =>
      intro s
      obtain ⟨d, l, t, h⟩ := s.copyOnWrite_frame (x * 128) src
      obtain ⟨d', l', t', c', h'⟩ := ih ((s.copyOnWrite (x * 128) src).touchL2 (s.boxPa (x * 128) / 128) (sectorMask bs x))
      refine ⟨d', l', t', c', ?_⟩
      rw [List.foldl_cons, h', h]
      rfl
  have sectors : ∀ (f : State → Nat → Bool) (ls : List Nat) (s : State), ∃ l,
      ls.foldl (fun s sec => s.remakeSector sec (f s sec)) s = { s with lineInfo := l } := by
    intro f ls
    induction ls with
    | nil => exact fun s => ⟨_, rfl⟩
    | cons x ls ih =>
      intro s
      obtain ⟨l, h⟩ := ih (s.remakeSector x (f s x))
      exact ⟨l, by rw [List.foldl_cons, h]; rfl⟩
  unfold State.writeHome
  obtain ⟨d, l, t, c, h⟩ := lines (linesOf bs) s
  dsimp only
  rw [h]
  obtain ⟨l', h'⟩ := sectors (fun _ sec => (s.poisonAt (sec * 32) && !coversSector bs sec) || p) (sectorsOf bs)
    { s with mem := Memory.merge s.mem bs, doms := d, lineInfo := l, tasks := t, l2 := c }
  exact ⟨d, l', t, c, h'⟩

theorem State.writeHome_mem (s : State) (bs : List HomeByte) (src : WriteSrc) (p : Bool) :
    (s.writeHome bs src p).mem = Memory.merge s.mem bs := by
  obtain ⟨d, l, t, c, h⟩ := s.writeHome_frame bs src p
  rw [h]

/-- A byte that the write does not name reads as before. -/
theorem State.writeHome_read_ne (s : State) (bs : List HomeByte) (src : WriteSrc) (p : Bool) (b : Nat)
    (h : ∀ x ∈ bs, x.off ≠ b) : Memory.read (s.writeHome bs src p).mem b = Memory.read s.mem b := by
  rw [s.writeHome_mem, Memory.read_merge_ne bs s.mem b h]

theorem State.writeHome_wf (s : State) (bs : List HomeByte) (src : WriteSrc) (p : Bool) (h : Memory.wf s.mem = true) :
    Memory.wf (s.writeHome bs src p).mem = true := by
  rw [s.writeHome_mem]
  exact Memory.wf_merge bs _ h

theorem State.writeEntry_wf (s : State) (off : Nat) (e : W64) (h : Memory.wf s.mem = true) :
    Memory.wf (s.writeEntry off e).mem = true := s.writeHome_wf _ _ _ h

theorem State.writeWord_wf (s : State) (off x : Nat) (h : Memory.wf s.mem = true) :
    Memory.wf (s.writeWord off x).mem = true := s.writeHome_wf _ _ _ h

/-! ### Fills and zeroed ranges -/

/-- A fill changes memory by its bytes, and beside it the check values of the line. -/
theorem State.fillHome_frame (s : State) (off : Nat) (bs : List Byte) (p : BitVec 4) :
    ∃ l, s.fillHome off bs p = { s with mem := Memory.writeN s.mem off bs, lineInfo := l } := by
  unfold State.fillHome
  suffices h : ∀ (ls : List Nat) (s : State), ∃ l,
      ls.foldl (fun (s : State) i => s.remakeSector (off / 32 + i) (p.getLsbD i)) s = { s with lineInfo := l } from
    h (List.range 4) { s with mem := Memory.writeN s.mem off bs }
  intro ls
  induction ls with
  | nil => exact fun s => ⟨_, rfl⟩
  | cons x ls ih =>
    intro s
    obtain ⟨l, h⟩ := ih (s.remakeSector (off / 32 + x) (p.getLsbD x))
    exact ⟨l, by rw [List.foldl_cons, h]; rfl⟩

theorem State.fillHome_wf (s : State) (off : Nat) (bs : List Byte) (p : BitVec 4) (h : Memory.wf s.mem = true) :
    Memory.wf (s.fillHome off bs p).mem = true := by
  obtain ⟨l, e⟩ := s.fillHome_frame off bs p
  rw [e]
  exact Memory.wf_writeN bs _ off h

theorem Cells.rising_filter {α : Type} (p : Nat × α → Bool) (m : Cells α) (h : m.rising = true) :
    Cells.rising (m.filter p) = true := by
  induction m with
  | nil => rfl
  | cons e m ih =>
    obtain ⟨a, x⟩ := e
    simp only [Cells.rising, Bool.and_eq_true] at h
    simp only [List.filter_cons]
    split
    · simp only [Cells.rising, Bool.and_eq_true, ih h.2, and_true]
      simp only [Cells.above, List.all_eq_true, decide_eq_true_eq] at h ⊢
      exact fun f hf => h.1 f ((List.mem_filter.1 hf).1)
    · exact ih h.2

theorem State.zeroRange_wf (s : State) (off n : Nat) (h : Memory.wf s.mem = true) :
    Memory.wf (s.zeroRange off n).mem = true := by
  unfold State.zeroRange Memory.wf Cells.wf at *
  simp only [Bool.and_eq_true, List.all_eq_true, decide_eq_true_eq] at h ⊢
  exact ⟨Cells.rising_filter _ _ h.1, fun e he => h.2 e ((List.mem_filter.1 he).1)⟩

/-! ### Tables -/

theorem State.splitLeaf_tablePool (s : State) (off lv : Nat) (e : W64) (table : Nat) :
    (s.splitLeaf off lv e table).tablePool = s.tablePool := by
  unfold State.splitLeaf State.writeEntry
  dsimp only
  obtain ⟨_, _, _, _, h⟩ := s.writeHome_frame (homeBytesAt (offOf (table * 4096))
    ((List.range 512).flatMap fun i => toBytes (splitEntry e lv i).toNat 8)) .other false
  rw [h]
  obtain ⟨_, _, _, _, h'⟩ := State.writeHome_frame _ (homeBytesAt off (toBytes (BitVec.ofNat 64 (1 + table * 4096)).toNat 8)) .other false
  rw [h']

theorem State.splitLeaf_wf (s : State) (off lv : Nat) (e : W64) (table : Nat) (h : Memory.wf s.mem = true) :
    Memory.wf (s.splitLeaf off lv e table).mem = true :=
  State.writeEntry_wf _ _ _ (s.writeHome_wf _ _ _ h)

/-- A pool with a frame for every split is enough (R180). -/
theorem State.splitFor_enough (c : PageCmd) : ∀ (n : Nat) (s : State), n ≤ s.tablePool.length → ∃ t, State.splitFor c n s = some t
  | 0, s, _ => ⟨s, rfl⟩
  | n + 1, s, h => by
    unfold State.splitFor
    split
    · exact ⟨s, rfl⟩
    · split
      · rename_i hp; rw [hp] at h; simp at h
      · rename_i f fs hp
        rw [hp] at h
        exact State.splitFor_enough c n _ (by rw [State.splitLeaf_tablePool]; simpa using h)

end Sys2Proof.Machine
end

