-- ==== Sys2Proof/Laws/State.lean ====
section
/-! SUPPORT. What each update of State and of a train leaves of every field: one lemma per field and update. -/

namespace Sys2Proof.Machine

@[simp] theorem State.setWg_power (s : State) (w : Nat) (g : Wg) : (s.setWg w g).power = s.power := rfl
@[simp] theorem State.setWg_pinChipId (s : State) (w : Nat) (g : Wg) : (s.setWg w g).pinChipId = s.pinChipId := rfl
@[simp] theorem State.setWg_pinHostPort (s : State) (w : Nat) (g : Wg) : (s.setWg w g).pinHostPort = s.pinHostPort := rfl
@[simp] theorem State.setWg_chipId (s : State) (w : Nat) (g : Wg) : (s.setWg w g).chipId = s.chipId := rfl
@[simp] theorem State.setWg_hostPort (s : State) (w : Nat) (g : Wg) : (s.setWg w g).hostPort = s.hostPort := rfl
@[simp] theorem State.setWg_gated (s : State) (w : Nat) (g : Wg) : (s.setWg w g).gated = s.gated := rfl
@[simp] theorem State.setWg_clock (s : State) (w : Nat) (g : Wg) : (s.setWg w g).clock = s.clock := rfl
@[simp] theorem State.setWg_supClock (s : State) (w : Nat) (g : Wg) : (s.setWg w g).supClock = s.supClock := rfl
@[simp] theorem State.setWg_agenda (s : State) (w : Nat) (g : Wg) : (s.setWg w g).agenda = s.agenda := rfl
@[simp] theorem State.setWg_free (s : State) (w : Nat) (g : Wg) : (s.setWg w g).free = s.free := rfl
@[simp] theorem State.setWg_nextId (s : State) (w : Nat) (g : Wg) : (s.setWg w g).nextId = s.nextId := rfl
@[simp] theorem State.setWg_cur (s : State) (w : Nat) (g : Wg) : (s.setWg w g).cur = s.cur := rfl
@[simp] theorem State.setWg_fetched (s : State) (w : Nat) (g : Wg) : (s.setWg w g).fetched = s.fetched := rfl
@[simp] theorem State.setWg_out (s : State) (w : Nat) (g : Wg) : (s.setWg w g).out = s.out := rfl
@[simp] theorem State.setWg_hostQ (s : State) (w : Nat) (g : Wg) : (s.setWg w g).hostQ = s.hostQ := rfl
@[simp] theorem State.setWg_mctl (s : State) (w : Nat) (g : Wg) : (s.setWg w g).mctl = s.mctl := rfl
@[simp] theorem State.setWg_thermtrip (s : State) (w : Nat) (g : Wg) : (s.setWg w g).thermtrip = s.thermtrip := rfl
@[simp] theorem State.setWg_ctl (s : State) (w : Nat) (g : Wg) : (s.setWg w g).ctl = s.ctl := rfl
@[simp] theorem State.setWg_walks (s : State) (w : Nat) (g : Wg) : (s.setWg w g).walks = s.walks := rfl
@[simp] theorem State.setWg_pulls (s : State) (w : Nat) (g : Wg) : (s.setWg w g).pulls = s.pulls := rfl
@[simp] theorem State.setWg_reserved (s : State) (w : Nat) (g : Wg) : (s.setWg w g).reserved = s.reserved := rfl
@[simp] theorem State.setWg_repaired (s : State) (w : Nat) (g : Wg) : (s.setWg w g).repaired = s.repaired := rfl
@[simp] theorem State.setWg_mem (s : State) (w : Nat) (g : Wg) : (s.setWg w g).mem = s.mem := rfl
@[simp] theorem State.setWg_lineInfo (s : State) (w : Nat) (g : Wg) : (s.setWg w g).lineInfo = s.lineInfo := rfl
@[simp] theorem State.setWg_attrs (s : State) (w : Nat) (g : Wg) : (s.setWg w g).attrs = s.attrs := rfl
@[simp] theorem State.setWg_l2 (s : State) (w : Nat) (g : Wg) : (s.setWg w g).l2 = s.l2 := rfl
@[simp] theorem State.setWg_wayMask (s : State) (w : Nat) (g : Wg) : (s.setWg w g).wayMask = s.wayMask := rfl
@[simp] theorem State.setWg_bxgen (s : State) (w : Nat) (g : Wg) : (s.setWg w g).bxgen = s.bxgen := rfl
@[simp] theorem State.setWg_tablePool (s : State) (w : Nat) (g : Wg) : (s.setWg w g).tablePool = s.tablePool := rfl
@[simp] theorem State.setWg_revivals (s : State) (w : Nat) (g : Wg) : (s.setWg w g).revivals = s.revivals := rfl
@[simp] theorem State.setWg_cores (s : State) (w : Nat) (g : Wg) : (s.setWg w g).cores = s.cores := rfl
@[simp] theorem State.setWg_trains (s : State) (w : Nat) (g : Wg) : (s.setWg w g).trains = s.trains := rfl
@[simp] theorem State.setWg_strQ (s : State) (w : Nat) (g : Wg) : (s.setWg w g).strQ = s.strQ := rfl
@[simp] theorem State.setWg_seqQ (s : State) (w : Nat) (g : Wg) : (s.setWg w g).seqQ = s.seqQ := rfl
@[simp] theorem State.setWg_regions (s : State) (w : Nat) (g : Wg) : (s.setWg w g).regions = s.regions := rfl
@[simp] theorem State.setWg_roots (s : State) (w : Nat) (g : Wg) : (s.setWg w g).roots = s.roots := rfl
@[simp] theorem State.setWg_tasks (s : State) (w : Nat) (g : Wg) : (s.setWg w g).tasks = s.tasks := rfl
@[simp] theorem State.setWg_subNext (s : State) (w : Nat) (g : Wg) : (s.setWg w g).subNext = s.subNext := rfl
@[simp] theorem State.setWg_posts (s : State) (w : Nat) (g : Wg) : (s.setWg w g).posts = s.posts := rfl
@[simp] theorem State.setWg_doms (s : State) (w : Nat) (g : Wg) : (s.setWg w g).doms = s.doms := rfl
@[simp] theorem State.setWg_defer (s : State) (w : Nat) (g : Wg) : (s.setWg w g).defer = s.defer := rfl
@[simp] theorem State.setWg_resp (s : State) (w : Nat) (g : Wg) : (s.setWg w g).resp = s.resp := rfl
@[simp] theorem State.setWg_troot (s : State) (w : Nat) (g : Wg) : (s.setWg w g).troot = s.troot := rfl
@[simp] theorem State.setWg_parts (s : State) (w : Nat) (g : Wg) : (s.setWg w g).parts = s.parts := rfl
@[simp] theorem State.setWg_tenpol (s : State) (w : Nat) (g : Wg) : (s.setWg w g).tenpol = s.tenpol := rfl
@[simp] theorem State.setWg_hdesc (s : State) (w : Nat) (g : Wg) : (s.setWg w g).hdesc = s.hdesc := rfl
@[simp] theorem State.setWg_buckets (s : State) (w : Nat) (g : Wg) : (s.setWg w g).buckets = s.buckets := rfl
@[simp] theorem State.setWg_paired (s : State) (w : Nat) (g : Wg) : (s.setWg w g).paired = s.paired := rfl
@[simp] theorem State.setWg_faulty (s : State) (w : Nat) (g : Wg) : (s.setWg w g).faulty = s.faulty := rfl
@[simp] theorem State.setWg_redOwner (s : State) (w : Nat) (g : Wg) : (s.setWg w g).redOwner = s.redOwner := rfl
@[simp] theorem State.setWg_eth (s : State) (w : Nat) (g : Wg) : (s.setWg w g).eth = s.eth := rfl
@[simp] theorem State.setWg_links (s : State) (w : Nat) (g : Wg) : (s.setWg w g).links = s.links := rfl
@[simp] theorem State.setWg_dead (s : State) (w : Nat) (g : Wg) : (s.setWg w g).dead = s.dead := rfl
@[simp] theorem State.setWg_unreach (s : State) (w : Nat) (g : Wg) : (s.setWg w g).unreach = s.unreach := rfl
@[simp] theorem State.setWg_reports (s : State) (w : Nat) (g : Wg) : (s.setWg w g).reports = s.reports := rfl
@[simp] theorem State.setWg_colls (s : State) (w : Nat) (g : Wg) : (s.setWg w g).colls = s.colls := rfl
@[simp] theorem State.setWg_classif (s : State) (w : Nat) (g : Wg) : (s.setWg w g).classif = s.classif := rfl
@[simp] theorem State.setWg_cmps (s : State) (w : Nat) (g : Wg) : (s.setWg w g).cmps = s.cmps := rfl

@[simp] theorem State.setTrain_power (s : State) (w t : Nat) (tr : Train) : (s.setTrain w t tr).power = s.power := rfl
@[simp] theorem State.setTrain_pinChipId (s : State) (w t : Nat) (tr : Train) : (s.setTrain w t tr).pinChipId = s.pinChipId := rfl
@[simp] theorem State.setTrain_pinHostPort (s : State) (w t : Nat) (tr : Train) : (s.setTrain w t tr).pinHostPort = s.pinHostPort := rfl
@[simp] theorem State.setTrain_chipId (s : State) (w t : Nat) (tr : Train) : (s.setTrain w t tr).chipId = s.chipId := rfl
@[simp] theorem State.setTrain_hostPort (s : State) (w t : Nat) (tr : Train) : (s.setTrain w t tr).hostPort = s.hostPort := rfl
@[simp] theorem State.setTrain_gated (s : State) (w t : Nat) (tr : Train) : (s.setTrain w t tr).gated = s.gated := rfl
@[simp] theorem State.setTrain_clock (s : State) (w t : Nat) (tr : Train) : (s.setTrain w t tr).clock = s.clock := rfl
@[simp] theorem State.setTrain_supClock (s : State) (w t : Nat) (tr : Train) : (s.setTrain w t tr).supClock = s.supClock := rfl
@[simp] theorem State.setTrain_agenda (s : State) (w t : Nat) (tr : Train) : (s.setTrain w t tr).agenda = s.agenda := rfl
@[simp] theorem State.setTrain_free (s : State) (w t : Nat) (tr : Train) : (s.setTrain w t tr).free = s.free := rfl
@[simp] theorem State.setTrain_nextId (s : State) (w t : Nat) (tr : Train) : (s.setTrain w t tr).nextId = s.nextId := rfl
@[simp] theorem State.setTrain_cur (s : State) (w t : Nat) (tr : Train) : (s.setTrain w t tr).cur = s.cur := rfl
@[simp] theorem State.setTrain_fetched (s : State) (w t : Nat) (tr : Train) : (s.setTrain w t tr).fetched = s.fetched := rfl
@[simp] theorem State.setTrain_out (s : State) (w t : Nat) (tr : Train) : (s.setTrain w t tr).out = s.out := rfl
@[simp] theorem State.setTrain_hostQ (s : State) (w t : Nat) (tr : Train) : (s.setTrain w t tr).hostQ = s.hostQ := rfl
@[simp] theorem State.setTrain_mctl (s : State) (w t : Nat) (tr : Train) : (s.setTrain w t tr).mctl = s.mctl := rfl
@[simp] theorem State.setTrain_thermtrip (s : State) (w t : Nat) (tr : Train) : (s.setTrain w t tr).thermtrip = s.thermtrip := rfl
@[simp] theorem State.setTrain_ctl (s : State) (w t : Nat) (tr : Train) : (s.setTrain w t tr).ctl = s.ctl := rfl
@[simp] theorem State.setTrain_walks (s : State) (w t : Nat) (tr : Train) : (s.setTrain w t tr).walks = s.walks := rfl
@[simp] theorem State.setTrain_pulls (s : State) (w t : Nat) (tr : Train) : (s.setTrain w t tr).pulls = s.pulls := rfl
@[simp] theorem State.setTrain_reserved (s : State) (w t : Nat) (tr : Train) : (s.setTrain w t tr).reserved = s.reserved := rfl
@[simp] theorem State.setTrain_repaired (s : State) (w t : Nat) (tr : Train) : (s.setTrain w t tr).repaired = s.repaired := rfl
@[simp] theorem State.setTrain_mem (s : State) (w t : Nat) (tr : Train) : (s.setTrain w t tr).mem = s.mem := rfl
@[simp] theorem State.setTrain_lineInfo (s : State) (w t : Nat) (tr : Train) : (s.setTrain w t tr).lineInfo = s.lineInfo := rfl
@[simp] theorem State.setTrain_attrs (s : State) (w t : Nat) (tr : Train) : (s.setTrain w t tr).attrs = s.attrs := rfl
@[simp] theorem State.setTrain_l2 (s : State) (w t : Nat) (tr : Train) : (s.setTrain w t tr).l2 = s.l2 := rfl
@[simp] theorem State.setTrain_wayMask (s : State) (w t : Nat) (tr : Train) : (s.setTrain w t tr).wayMask = s.wayMask := rfl
@[simp] theorem State.setTrain_bxgen (s : State) (w t : Nat) (tr : Train) : (s.setTrain w t tr).bxgen = s.bxgen := rfl
@[simp] theorem State.setTrain_tablePool (s : State) (w t : Nat) (tr : Train) : (s.setTrain w t tr).tablePool = s.tablePool := rfl
@[simp] theorem State.setTrain_revivals (s : State) (w t : Nat) (tr : Train) : (s.setTrain w t tr).revivals = s.revivals := rfl
@[simp] theorem State.setTrain_cores (s : State) (w t : Nat) (tr : Train) : (s.setTrain w t tr).cores = s.cores := rfl
@[simp] theorem State.setTrain_wgs (s : State) (w t : Nat) (tr : Train) : (s.setTrain w t tr).wgs = s.wgs := rfl
@[simp] theorem State.setTrain_strQ (s : State) (w t : Nat) (tr : Train) : (s.setTrain w t tr).strQ = s.strQ := rfl
@[simp] theorem State.setTrain_seqQ (s : State) (w t : Nat) (tr : Train) : (s.setTrain w t tr).seqQ = s.seqQ := rfl
@[simp] theorem State.setTrain_regions (s : State) (w t : Nat) (tr : Train) : (s.setTrain w t tr).regions = s.regions := rfl
@[simp] theorem State.setTrain_roots (s : State) (w t : Nat) (tr : Train) : (s.setTrain w t tr).roots = s.roots := rfl
@[simp] theorem State.setTrain_tasks (s : State) (w t : Nat) (tr : Train) : (s.setTrain w t tr).tasks = s.tasks := rfl
@[simp] theorem State.setTrain_subNext (s : State) (w t : Nat) (tr : Train) : (s.setTrain w t tr).subNext = s.subNext := rfl
@[simp] theorem State.setTrain_posts (s : State) (w t : Nat) (tr : Train) : (s.setTrain w t tr).posts = s.posts := rfl
@[simp] theorem State.setTrain_doms (s : State) (w t : Nat) (tr : Train) : (s.setTrain w t tr).doms = s.doms := rfl
@[simp] theorem State.setTrain_defer (s : State) (w t : Nat) (tr : Train) : (s.setTrain w t tr).defer = s.defer := rfl
@[simp] theorem State.setTrain_resp (s : State) (w t : Nat) (tr : Train) : (s.setTrain w t tr).resp = s.resp := rfl
@[simp] theorem State.setTrain_troot (s : State) (w t : Nat) (tr : Train) : (s.setTrain w t tr).troot = s.troot := rfl
@[simp] theorem State.setTrain_parts (s : State) (w t : Nat) (tr : Train) : (s.setTrain w t tr).parts = s.parts := rfl
@[simp] theorem State.setTrain_tenpol (s : State) (w t : Nat) (tr : Train) : (s.setTrain w t tr).tenpol = s.tenpol := rfl
@[simp] theorem State.setTrain_hdesc (s : State) (w t : Nat) (tr : Train) : (s.setTrain w t tr).hdesc = s.hdesc := rfl
@[simp] theorem State.setTrain_buckets (s : State) (w t : Nat) (tr : Train) : (s.setTrain w t tr).buckets = s.buckets := rfl
@[simp] theorem State.setTrain_paired (s : State) (w t : Nat) (tr : Train) : (s.setTrain w t tr).paired = s.paired := rfl
@[simp] theorem State.setTrain_faulty (s : State) (w t : Nat) (tr : Train) : (s.setTrain w t tr).faulty = s.faulty := rfl
@[simp] theorem State.setTrain_redOwner (s : State) (w t : Nat) (tr : Train) : (s.setTrain w t tr).redOwner = s.redOwner := rfl
@[simp] theorem State.setTrain_eth (s : State) (w t : Nat) (tr : Train) : (s.setTrain w t tr).eth = s.eth := rfl
@[simp] theorem State.setTrain_links (s : State) (w t : Nat) (tr : Train) : (s.setTrain w t tr).links = s.links := rfl
@[simp] theorem State.setTrain_dead (s : State) (w t : Nat) (tr : Train) : (s.setTrain w t tr).dead = s.dead := rfl
@[simp] theorem State.setTrain_unreach (s : State) (w t : Nat) (tr : Train) : (s.setTrain w t tr).unreach = s.unreach := rfl
@[simp] theorem State.setTrain_reports (s : State) (w t : Nat) (tr : Train) : (s.setTrain w t tr).reports = s.reports := rfl
@[simp] theorem State.setTrain_colls (s : State) (w t : Nat) (tr : Train) : (s.setTrain w t tr).colls = s.colls := rfl
@[simp] theorem State.setTrain_classif (s : State) (w t : Nat) (tr : Train) : (s.setTrain w t tr).classif = s.classif := rfl
@[simp] theorem State.setTrain_cmps (s : State) (w t : Nat) (tr : Train) : (s.setTrain w t tr).cmps = s.cmps := rfl

@[simp] theorem State.setCore_power (s : State) (n : Nat) (c : Core) : (s.setCore n c).power = s.power := rfl
@[simp] theorem State.setCore_pinChipId (s : State) (n : Nat) (c : Core) : (s.setCore n c).pinChipId = s.pinChipId := rfl
@[simp] theorem State.setCore_pinHostPort (s : State) (n : Nat) (c : Core) : (s.setCore n c).pinHostPort = s.pinHostPort := rfl
@[simp] theorem State.setCore_chipId (s : State) (n : Nat) (c : Core) : (s.setCore n c).chipId = s.chipId := rfl
@[simp] theorem State.setCore_hostPort (s : State) (n : Nat) (c : Core) : (s.setCore n c).hostPort = s.hostPort := rfl
@[simp] theorem State.setCore_gated (s : State) (n : Nat) (c : Core) : (s.setCore n c).gated = s.gated := rfl
@[simp] theorem State.setCore_clock (s : State) (n : Nat) (c : Core) : (s.setCore n c).clock = s.clock := rfl
@[simp] theorem State.setCore_supClock (s : State) (n : Nat) (c : Core) : (s.setCore n c).supClock = s.supClock := rfl
@[simp] theorem State.setCore_agenda (s : State) (n : Nat) (c : Core) : (s.setCore n c).agenda = s.agenda := rfl
@[simp] theorem State.setCore_free (s : State) (n : Nat) (c : Core) : (s.setCore n c).free = s.free := rfl
@[simp] theorem State.setCore_nextId (s : State) (n : Nat) (c : Core) : (s.setCore n c).nextId = s.nextId := rfl
@[simp] theorem State.setCore_cur (s : State) (n : Nat) (c : Core) : (s.setCore n c).cur = s.cur := rfl
@[simp] theorem State.setCore_fetched (s : State) (n : Nat) (c : Core) : (s.setCore n c).fetched = s.fetched := rfl
@[simp] theorem State.setCore_out (s : State) (n : Nat) (c : Core) : (s.setCore n c).out = s.out := rfl
@[simp] theorem State.setCore_hostQ (s : State) (n : Nat) (c : Core) : (s.setCore n c).hostQ = s.hostQ := rfl
@[simp] theorem State.setCore_mctl (s : State) (n : Nat) (c : Core) : (s.setCore n c).mctl = s.mctl := rfl
@[simp] theorem State.setCore_thermtrip (s : State) (n : Nat) (c : Core) : (s.setCore n c).thermtrip = s.thermtrip := rfl
@[simp] theorem State.setCore_ctl (s : State) (n : Nat) (c : Core) : (s.setCore n c).ctl = s.ctl := rfl
@[simp] theorem State.setCore_walks (s : State) (n : Nat) (c : Core) : (s.setCore n c).walks = s.walks := rfl
@[simp] theorem State.setCore_pulls (s : State) (n : Nat) (c : Core) : (s.setCore n c).pulls = s.pulls := rfl
@[simp] theorem State.setCore_reserved (s : State) (n : Nat) (c : Core) : (s.setCore n c).reserved = s.reserved := rfl
@[simp] theorem State.setCore_repaired (s : State) (n : Nat) (c : Core) : (s.setCore n c).repaired = s.repaired := rfl
@[simp] theorem State.setCore_mem (s : State) (n : Nat) (c : Core) : (s.setCore n c).mem = s.mem := rfl
@[simp] theorem State.setCore_lineInfo (s : State) (n : Nat) (c : Core) : (s.setCore n c).lineInfo = s.lineInfo := rfl
@[simp] theorem State.setCore_attrs (s : State) (n : Nat) (c : Core) : (s.setCore n c).attrs = s.attrs := rfl
@[simp] theorem State.setCore_l2 (s : State) (n : Nat) (c : Core) : (s.setCore n c).l2 = s.l2 := rfl
@[simp] theorem State.setCore_wayMask (s : State) (n : Nat) (c : Core) : (s.setCore n c).wayMask = s.wayMask := rfl
@[simp] theorem State.setCore_bxgen (s : State) (n : Nat) (c : Core) : (s.setCore n c).bxgen = s.bxgen := rfl
@[simp] theorem State.setCore_tablePool (s : State) (n : Nat) (c : Core) : (s.setCore n c).tablePool = s.tablePool := rfl
@[simp] theorem State.setCore_revivals (s : State) (n : Nat) (c : Core) : (s.setCore n c).revivals = s.revivals := rfl
@[simp] theorem State.setCore_wgs (s : State) (n : Nat) (c : Core) : (s.setCore n c).wgs = s.wgs := rfl
@[simp] theorem State.setCore_trains (s : State) (n : Nat) (c : Core) : (s.setCore n c).trains = s.trains := rfl
@[simp] theorem State.setCore_strQ (s : State) (n : Nat) (c : Core) : (s.setCore n c).strQ = s.strQ := rfl
@[simp] theorem State.setCore_seqQ (s : State) (n : Nat) (c : Core) : (s.setCore n c).seqQ = s.seqQ := rfl
@[simp] theorem State.setCore_regions (s : State) (n : Nat) (c : Core) : (s.setCore n c).regions = s.regions := rfl
@[simp] theorem State.setCore_roots (s : State) (n : Nat) (c : Core) : (s.setCore n c).roots = s.roots := rfl
@[simp] theorem State.setCore_tasks (s : State) (n : Nat) (c : Core) : (s.setCore n c).tasks = s.tasks := rfl
@[simp] theorem State.setCore_subNext (s : State) (n : Nat) (c : Core) : (s.setCore n c).subNext = s.subNext := rfl
@[simp] theorem State.setCore_posts (s : State) (n : Nat) (c : Core) : (s.setCore n c).posts = s.posts := rfl
@[simp] theorem State.setCore_doms (s : State) (n : Nat) (c : Core) : (s.setCore n c).doms = s.doms := rfl
@[simp] theorem State.setCore_defer (s : State) (n : Nat) (c : Core) : (s.setCore n c).defer = s.defer := rfl
@[simp] theorem State.setCore_resp (s : State) (n : Nat) (c : Core) : (s.setCore n c).resp = s.resp := rfl
@[simp] theorem State.setCore_troot (s : State) (n : Nat) (c : Core) : (s.setCore n c).troot = s.troot := rfl
@[simp] theorem State.setCore_parts (s : State) (n : Nat) (c : Core) : (s.setCore n c).parts = s.parts := rfl
@[simp] theorem State.setCore_tenpol (s : State) (n : Nat) (c : Core) : (s.setCore n c).tenpol = s.tenpol := rfl
@[simp] theorem State.setCore_hdesc (s : State) (n : Nat) (c : Core) : (s.setCore n c).hdesc = s.hdesc := rfl
@[simp] theorem State.setCore_buckets (s : State) (n : Nat) (c : Core) : (s.setCore n c).buckets = s.buckets := rfl
@[simp] theorem State.setCore_paired (s : State) (n : Nat) (c : Core) : (s.setCore n c).paired = s.paired := rfl
@[simp] theorem State.setCore_faulty (s : State) (n : Nat) (c : Core) : (s.setCore n c).faulty = s.faulty := rfl
@[simp] theorem State.setCore_redOwner (s : State) (n : Nat) (c : Core) : (s.setCore n c).redOwner = s.redOwner := rfl
@[simp] theorem State.setCore_eth (s : State) (n : Nat) (c : Core) : (s.setCore n c).eth = s.eth := rfl
@[simp] theorem State.setCore_links (s : State) (n : Nat) (c : Core) : (s.setCore n c).links = s.links := rfl
@[simp] theorem State.setCore_dead (s : State) (n : Nat) (c : Core) : (s.setCore n c).dead = s.dead := rfl
@[simp] theorem State.setCore_unreach (s : State) (n : Nat) (c : Core) : (s.setCore n c).unreach = s.unreach := rfl
@[simp] theorem State.setCore_reports (s : State) (n : Nat) (c : Core) : (s.setCore n c).reports = s.reports := rfl
@[simp] theorem State.setCore_colls (s : State) (n : Nat) (c : Core) : (s.setCore n c).colls = s.colls := rfl
@[simp] theorem State.setCore_classif (s : State) (n : Nat) (c : Core) : (s.setCore n c).classif = s.classif := rfl
@[simp] theorem State.setCore_cmps (s : State) (n : Nat) (c : Core) : (s.setCore n c).cmps = s.cmps := rfl

@[simp] theorem State.setTask_power (s : State) (n : Nat) (t : Task) : (s.setTask n t).power = s.power := rfl
@[simp] theorem State.setTask_pinChipId (s : State) (n : Nat) (t : Task) : (s.setTask n t).pinChipId = s.pinChipId := rfl
@[simp] theorem State.setTask_pinHostPort (s : State) (n : Nat) (t : Task) : (s.setTask n t).pinHostPort = s.pinHostPort := rfl
@[simp] theorem State.setTask_chipId (s : State) (n : Nat) (t : Task) : (s.setTask n t).chipId = s.chipId := rfl
@[simp] theorem State.setTask_hostPort (s : State) (n : Nat) (t : Task) : (s.setTask n t).hostPort = s.hostPort := rfl
@[simp] theorem State.setTask_gated (s : State) (n : Nat) (t : Task) : (s.setTask n t).gated = s.gated := rfl
@[simp] theorem State.setTask_clock (s : State) (n : Nat) (t : Task) : (s.setTask n t).clock = s.clock := rfl
@[simp] theorem State.setTask_supClock (s : State) (n : Nat) (t : Task) : (s.setTask n t).supClock = s.supClock := rfl
@[simp] theorem State.setTask_agenda (s : State) (n : Nat) (t : Task) : (s.setTask n t).agenda = s.agenda := rfl
@[simp] theorem State.setTask_free (s : State) (n : Nat) (t : Task) : (s.setTask n t).free = s.free := rfl
@[simp] theorem State.setTask_nextId (s : State) (n : Nat) (t : Task) : (s.setTask n t).nextId = s.nextId := rfl
@[simp] theorem State.setTask_cur (s : State) (n : Nat) (t : Task) : (s.setTask n t).cur = s.cur := rfl
@[simp] theorem State.setTask_fetched (s : State) (n : Nat) (t : Task) : (s.setTask n t).fetched = s.fetched := rfl
@[simp] theorem State.setTask_out (s : State) (n : Nat) (t : Task) : (s.setTask n t).out = s.out := rfl
@[simp] theorem State.setTask_hostQ (s : State) (n : Nat) (t : Task) : (s.setTask n t).hostQ = s.hostQ := rfl
@[simp] theorem State.setTask_mctl (s : State) (n : Nat) (t : Task) : (s.setTask n t).mctl = s.mctl := rfl
@[simp] theorem State.setTask_thermtrip (s : State) (n : Nat) (t : Task) : (s.setTask n t).thermtrip = s.thermtrip := rfl
@[simp] theorem State.setTask_ctl (s : State) (n : Nat) (t : Task) : (s.setTask n t).ctl = s.ctl := rfl
@[simp] theorem State.setTask_walks (s : State) (n : Nat) (t : Task) : (s.setTask n t).walks = s.walks := rfl
@[simp] theorem State.setTask_pulls (s : State) (n : Nat) (t : Task) : (s.setTask n t).pulls = s.pulls := rfl
@[simp] theorem State.setTask_reserved (s : State) (n : Nat) (t : Task) : (s.setTask n t).reserved = s.reserved := rfl
@[simp] theorem State.setTask_repaired (s : State) (n : Nat) (t : Task) : (s.setTask n t).repaired = s.repaired := rfl
@[simp] theorem State.setTask_mem (s : State) (n : Nat) (t : Task) : (s.setTask n t).mem = s.mem := rfl
@[simp] theorem State.setTask_lineInfo (s : State) (n : Nat) (t : Task) : (s.setTask n t).lineInfo = s.lineInfo := rfl
@[simp] theorem State.setTask_attrs (s : State) (n : Nat) (t : Task) : (s.setTask n t).attrs = s.attrs := rfl
@[simp] theorem State.setTask_l2 (s : State) (n : Nat) (t : Task) : (s.setTask n t).l2 = s.l2 := rfl
@[simp] theorem State.setTask_wayMask (s : State) (n : Nat) (t : Task) : (s.setTask n t).wayMask = s.wayMask := rfl
@[simp] theorem State.setTask_bxgen (s : State) (n : Nat) (t : Task) : (s.setTask n t).bxgen = s.bxgen := rfl
@[simp] theorem State.setTask_tablePool (s : State) (n : Nat) (t : Task) : (s.setTask n t).tablePool = s.tablePool := rfl
@[simp] theorem State.setTask_revivals (s : State) (n : Nat) (t : Task) : (s.setTask n t).revivals = s.revivals := rfl
@[simp] theorem State.setTask_cores (s : State) (n : Nat) (t : Task) : (s.setTask n t).cores = s.cores := rfl
@[simp] theorem State.setTask_wgs (s : State) (n : Nat) (t : Task) : (s.setTask n t).wgs = s.wgs := rfl
@[simp] theorem State.setTask_trains (s : State) (n : Nat) (t : Task) : (s.setTask n t).trains = s.trains := rfl
@[simp] theorem State.setTask_strQ (s : State) (n : Nat) (t : Task) : (s.setTask n t).strQ = s.strQ := rfl
@[simp] theorem State.setTask_seqQ (s : State) (n : Nat) (t : Task) : (s.setTask n t).seqQ = s.seqQ := rfl
@[simp] theorem State.setTask_regions (s : State) (n : Nat) (t : Task) : (s.setTask n t).regions = s.regions := rfl
@[simp] theorem State.setTask_roots (s : State) (n : Nat) (t : Task) : (s.setTask n t).roots = s.roots := rfl
@[simp] theorem State.setTask_subNext (s : State) (n : Nat) (t : Task) : (s.setTask n t).subNext = s.subNext := rfl
@[simp] theorem State.setTask_posts (s : State) (n : Nat) (t : Task) : (s.setTask n t).posts = s.posts := rfl
@[simp] theorem State.setTask_doms (s : State) (n : Nat) (t : Task) : (s.setTask n t).doms = s.doms := rfl
@[simp] theorem State.setTask_defer (s : State) (n : Nat) (t : Task) : (s.setTask n t).defer = s.defer := rfl
@[simp] theorem State.setTask_resp (s : State) (n : Nat) (t : Task) : (s.setTask n t).resp = s.resp := rfl
@[simp] theorem State.setTask_troot (s : State) (n : Nat) (t : Task) : (s.setTask n t).troot = s.troot := rfl
@[simp] theorem State.setTask_parts (s : State) (n : Nat) (t : Task) : (s.setTask n t).parts = s.parts := rfl
@[simp] theorem State.setTask_tenpol (s : State) (n : Nat) (t : Task) : (s.setTask n t).tenpol = s.tenpol := rfl
@[simp] theorem State.setTask_hdesc (s : State) (n : Nat) (t : Task) : (s.setTask n t).hdesc = s.hdesc := rfl
@[simp] theorem State.setTask_buckets (s : State) (n : Nat) (t : Task) : (s.setTask n t).buckets = s.buckets := rfl
@[simp] theorem State.setTask_paired (s : State) (n : Nat) (t : Task) : (s.setTask n t).paired = s.paired := rfl
@[simp] theorem State.setTask_faulty (s : State) (n : Nat) (t : Task) : (s.setTask n t).faulty = s.faulty := rfl
@[simp] theorem State.setTask_redOwner (s : State) (n : Nat) (t : Task) : (s.setTask n t).redOwner = s.redOwner := rfl
@[simp] theorem State.setTask_eth (s : State) (n : Nat) (t : Task) : (s.setTask n t).eth = s.eth := rfl
@[simp] theorem State.setTask_links (s : State) (n : Nat) (t : Task) : (s.setTask n t).links = s.links := rfl
@[simp] theorem State.setTask_dead (s : State) (n : Nat) (t : Task) : (s.setTask n t).dead = s.dead := rfl
@[simp] theorem State.setTask_unreach (s : State) (n : Nat) (t : Task) : (s.setTask n t).unreach = s.unreach := rfl
@[simp] theorem State.setTask_reports (s : State) (n : Nat) (t : Task) : (s.setTask n t).reports = s.reports := rfl
@[simp] theorem State.setTask_colls (s : State) (n : Nat) (t : Task) : (s.setTask n t).colls = s.colls := rfl
@[simp] theorem State.setTask_classif (s : State) (n : Nat) (t : Task) : (s.setTask n t).classif = s.classif := rfl
@[simp] theorem State.setTask_cmps (s : State) (n : Nat) (t : Task) : (s.setTask n t).cmps = s.cmps := rfl

@[simp] theorem State.setDom_power (s : State) (n : Nat) (d : Domain) : (s.setDom n d).power = s.power := rfl
@[simp] theorem State.setDom_pinChipId (s : State) (n : Nat) (d : Domain) : (s.setDom n d).pinChipId = s.pinChipId := rfl
@[simp] theorem State.setDom_pinHostPort (s : State) (n : Nat) (d : Domain) : (s.setDom n d).pinHostPort = s.pinHostPort := rfl
@[simp] theorem State.setDom_chipId (s : State) (n : Nat) (d : Domain) : (s.setDom n d).chipId = s.chipId := rfl
@[simp] theorem State.setDom_hostPort (s : State) (n : Nat) (d : Domain) : (s.setDom n d).hostPort = s.hostPort := rfl
@[simp] theorem State.setDom_gated (s : State) (n : Nat) (d : Domain) : (s.setDom n d).gated = s.gated := rfl
@[simp] theorem State.setDom_clock (s : State) (n : Nat) (d : Domain) : (s.setDom n d).clock = s.clock := rfl
@[simp] theorem State.setDom_supClock (s : State) (n : Nat) (d : Domain) : (s.setDom n d).supClock = s.supClock := rfl
@[simp] theorem State.setDom_agenda (s : State) (n : Nat) (d : Domain) : (s.setDom n d).agenda = s.agenda := rfl
@[simp] theorem State.setDom_free (s : State) (n : Nat) (d : Domain) : (s.setDom n d).free = s.free := rfl
@[simp] theorem State.setDom_nextId (s : State) (n : Nat) (d : Domain) : (s.setDom n d).nextId = s.nextId := rfl
@[simp] theorem State.setDom_cur (s : State) (n : Nat) (d : Domain) : (s.setDom n d).cur = s.cur := rfl
@[simp] theorem State.setDom_fetched (s : State) (n : Nat) (d : Domain) : (s.setDom n d).fetched = s.fetched := rfl
@[simp] theorem State.setDom_out (s : State) (n : Nat) (d : Domain) : (s.setDom n d).out = s.out := rfl
@[simp] theorem State.setDom_hostQ (s : State) (n : Nat) (d : Domain) : (s.setDom n d).hostQ = s.hostQ := rfl
@[simp] theorem State.setDom_mctl (s : State) (n : Nat) (d : Domain) : (s.setDom n d).mctl = s.mctl := rfl
@[simp] theorem State.setDom_thermtrip (s : State) (n : Nat) (d : Domain) : (s.setDom n d).thermtrip = s.thermtrip := rfl
@[simp] theorem State.setDom_ctl (s : State) (n : Nat) (d : Domain) : (s.setDom n d).ctl = s.ctl := rfl
@[simp] theorem State.setDom_walks (s : State) (n : Nat) (d : Domain) : (s.setDom n d).walks = s.walks := rfl
@[simp] theorem State.setDom_pulls (s : State) (n : Nat) (d : Domain) : (s.setDom n d).pulls = s.pulls := rfl
@[simp] theorem State.setDom_reserved (s : State) (n : Nat) (d : Domain) : (s.setDom n d).reserved = s.reserved := rfl
@[simp] theorem State.setDom_repaired (s : State) (n : Nat) (d : Domain) : (s.setDom n d).repaired = s.repaired := rfl
@[simp] theorem State.setDom_mem (s : State) (n : Nat) (d : Domain) : (s.setDom n d).mem = s.mem := rfl
@[simp] theorem State.setDom_lineInfo (s : State) (n : Nat) (d : Domain) : (s.setDom n d).lineInfo = s.lineInfo := rfl
@[simp] theorem State.setDom_attrs (s : State) (n : Nat) (d : Domain) : (s.setDom n d).attrs = s.attrs := rfl
@[simp] theorem State.setDom_l2 (s : State) (n : Nat) (d : Domain) : (s.setDom n d).l2 = s.l2 := rfl
@[simp] theorem State.setDom_wayMask (s : State) (n : Nat) (d : Domain) : (s.setDom n d).wayMask = s.wayMask := rfl
@[simp] theorem State.setDom_bxgen (s : State) (n : Nat) (d : Domain) : (s.setDom n d).bxgen = s.bxgen := rfl
@[simp] theorem State.setDom_tablePool (s : State) (n : Nat) (d : Domain) : (s.setDom n d).tablePool = s.tablePool := rfl
@[simp] theorem State.setDom_revivals (s : State) (n : Nat) (d : Domain) : (s.setDom n d).revivals = s.revivals := rfl
@[simp] theorem State.setDom_cores (s : State) (n : Nat) (d : Domain) : (s.setDom n d).cores = s.cores := rfl
@[simp] theorem State.setDom_wgs (s : State) (n : Nat) (d : Domain) : (s.setDom n d).wgs = s.wgs := rfl
@[simp] theorem State.setDom_trains (s : State) (n : Nat) (d : Domain) : (s.setDom n d).trains = s.trains := rfl
@[simp] theorem State.setDom_strQ (s : State) (n : Nat) (d : Domain) : (s.setDom n d).strQ = s.strQ := rfl
@[simp] theorem State.setDom_seqQ (s : State) (n : Nat) (d : Domain) : (s.setDom n d).seqQ = s.seqQ := rfl
@[simp] theorem State.setDom_regions (s : State) (n : Nat) (d : Domain) : (s.setDom n d).regions = s.regions := rfl
@[simp] theorem State.setDom_roots (s : State) (n : Nat) (d : Domain) : (s.setDom n d).roots = s.roots := rfl
@[simp] theorem State.setDom_tasks (s : State) (n : Nat) (d : Domain) : (s.setDom n d).tasks = s.tasks := rfl
@[simp] theorem State.setDom_subNext (s : State) (n : Nat) (d : Domain) : (s.setDom n d).subNext = s.subNext := rfl
@[simp] theorem State.setDom_posts (s : State) (n : Nat) (d : Domain) : (s.setDom n d).posts = s.posts := rfl
@[simp] theorem State.setDom_defer (s : State) (n : Nat) (d : Domain) : (s.setDom n d).defer = s.defer := rfl
@[simp] theorem State.setDom_resp (s : State) (n : Nat) (d : Domain) : (s.setDom n d).resp = s.resp := rfl
@[simp] theorem State.setDom_troot (s : State) (n : Nat) (d : Domain) : (s.setDom n d).troot = s.troot := rfl
@[simp] theorem State.setDom_parts (s : State) (n : Nat) (d : Domain) : (s.setDom n d).parts = s.parts := rfl
@[simp] theorem State.setDom_tenpol (s : State) (n : Nat) (d : Domain) : (s.setDom n d).tenpol = s.tenpol := rfl
@[simp] theorem State.setDom_hdesc (s : State) (n : Nat) (d : Domain) : (s.setDom n d).hdesc = s.hdesc := rfl
@[simp] theorem State.setDom_buckets (s : State) (n : Nat) (d : Domain) : (s.setDom n d).buckets = s.buckets := rfl
@[simp] theorem State.setDom_paired (s : State) (n : Nat) (d : Domain) : (s.setDom n d).paired = s.paired := rfl
@[simp] theorem State.setDom_faulty (s : State) (n : Nat) (d : Domain) : (s.setDom n d).faulty = s.faulty := rfl
@[simp] theorem State.setDom_redOwner (s : State) (n : Nat) (d : Domain) : (s.setDom n d).redOwner = s.redOwner := rfl
@[simp] theorem State.setDom_eth (s : State) (n : Nat) (d : Domain) : (s.setDom n d).eth = s.eth := rfl
@[simp] theorem State.setDom_links (s : State) (n : Nat) (d : Domain) : (s.setDom n d).links = s.links := rfl
@[simp] theorem State.setDom_dead (s : State) (n : Nat) (d : Domain) : (s.setDom n d).dead = s.dead := rfl
@[simp] theorem State.setDom_unreach (s : State) (n : Nat) (d : Domain) : (s.setDom n d).unreach = s.unreach := rfl
@[simp] theorem State.setDom_reports (s : State) (n : Nat) (d : Domain) : (s.setDom n d).reports = s.reports := rfl
@[simp] theorem State.setDom_colls (s : State) (n : Nat) (d : Domain) : (s.setDom n d).colls = s.colls := rfl
@[simp] theorem State.setDom_classif (s : State) (n : Nat) (d : Domain) : (s.setDom n d).classif = s.classif := rfl
@[simp] theorem State.setDom_cmps (s : State) (n : Nat) (d : Domain) : (s.setDom n d).cmps = s.cmps := rfl

@[simp] theorem State.setMeta_power (s : State) (n : Nat) (m : Meta) : (s.setMeta n m).power = s.power := rfl
@[simp] theorem State.setMeta_pinChipId (s : State) (n : Nat) (m : Meta) : (s.setMeta n m).pinChipId = s.pinChipId := rfl
@[simp] theorem State.setMeta_pinHostPort (s : State) (n : Nat) (m : Meta) : (s.setMeta n m).pinHostPort = s.pinHostPort := rfl
@[simp] theorem State.setMeta_chipId (s : State) (n : Nat) (m : Meta) : (s.setMeta n m).chipId = s.chipId := rfl
@[simp] theorem State.setMeta_hostPort (s : State) (n : Nat) (m : Meta) : (s.setMeta n m).hostPort = s.hostPort := rfl
@[simp] theorem State.setMeta_gated (s : State) (n : Nat) (m : Meta) : (s.setMeta n m).gated = s.gated := rfl
@[simp] theorem State.setMeta_clock (s : State) (n : Nat) (m : Meta) : (s.setMeta n m).clock = s.clock := rfl
@[simp] theorem State.setMeta_supClock (s : State) (n : Nat) (m : Meta) : (s.setMeta n m).supClock = s.supClock := rfl
@[simp] theorem State.setMeta_agenda (s : State) (n : Nat) (m : Meta) : (s.setMeta n m).agenda = s.agenda := rfl
@[simp] theorem State.setMeta_free (s : State) (n : Nat) (m : Meta) : (s.setMeta n m).free = s.free := rfl
@[simp] theorem State.setMeta_nextId (s : State) (n : Nat) (m : Meta) : (s.setMeta n m).nextId = s.nextId := rfl
@[simp] theorem State.setMeta_cur (s : State) (n : Nat) (m : Meta) : (s.setMeta n m).cur = s.cur := rfl
@[simp] theorem State.setMeta_fetched (s : State) (n : Nat) (m : Meta) : (s.setMeta n m).fetched = s.fetched := rfl
@[simp] theorem State.setMeta_out (s : State) (n : Nat) (m : Meta) : (s.setMeta n m).out = s.out := rfl
@[simp] theorem State.setMeta_hostQ (s : State) (n : Nat) (m : Meta) : (s.setMeta n m).hostQ = s.hostQ := rfl
@[simp] theorem State.setMeta_mctl (s : State) (n : Nat) (m : Meta) : (s.setMeta n m).mctl = s.mctl := rfl
@[simp] theorem State.setMeta_thermtrip (s : State) (n : Nat) (m : Meta) : (s.setMeta n m).thermtrip = s.thermtrip := rfl
@[simp] theorem State.setMeta_ctl (s : State) (n : Nat) (m : Meta) : (s.setMeta n m).ctl = s.ctl := rfl
@[simp] theorem State.setMeta_walks (s : State) (n : Nat) (m : Meta) : (s.setMeta n m).walks = s.walks := rfl
@[simp] theorem State.setMeta_pulls (s : State) (n : Nat) (m : Meta) : (s.setMeta n m).pulls = s.pulls := rfl
@[simp] theorem State.setMeta_reserved (s : State) (n : Nat) (m : Meta) : (s.setMeta n m).reserved = s.reserved := rfl
@[simp] theorem State.setMeta_repaired (s : State) (n : Nat) (m : Meta) : (s.setMeta n m).repaired = s.repaired := rfl
@[simp] theorem State.setMeta_mem (s : State) (n : Nat) (m : Meta) : (s.setMeta n m).mem = s.mem := rfl
@[simp] theorem State.setMeta_attrs (s : State) (n : Nat) (m : Meta) : (s.setMeta n m).attrs = s.attrs := rfl
@[simp] theorem State.setMeta_l2 (s : State) (n : Nat) (m : Meta) : (s.setMeta n m).l2 = s.l2 := rfl
@[simp] theorem State.setMeta_wayMask (s : State) (n : Nat) (m : Meta) : (s.setMeta n m).wayMask = s.wayMask := rfl
@[simp] theorem State.setMeta_bxgen (s : State) (n : Nat) (m : Meta) : (s.setMeta n m).bxgen = s.bxgen := rfl
@[simp] theorem State.setMeta_tablePool (s : State) (n : Nat) (m : Meta) : (s.setMeta n m).tablePool = s.tablePool := rfl
@[simp] theorem State.setMeta_revivals (s : State) (n : Nat) (m : Meta) : (s.setMeta n m).revivals = s.revivals := rfl
@[simp] theorem State.setMeta_cores (s : State) (n : Nat) (m : Meta) : (s.setMeta n m).cores = s.cores := rfl
@[simp] theorem State.setMeta_wgs (s : State) (n : Nat) (m : Meta) : (s.setMeta n m).wgs = s.wgs := rfl
@[simp] theorem State.setMeta_trains (s : State) (n : Nat) (m : Meta) : (s.setMeta n m).trains = s.trains := rfl
@[simp] theorem State.setMeta_strQ (s : State) (n : Nat) (m : Meta) : (s.setMeta n m).strQ = s.strQ := rfl
@[simp] theorem State.setMeta_seqQ (s : State) (n : Nat) (m : Meta) : (s.setMeta n m).seqQ = s.seqQ := rfl
@[simp] theorem State.setMeta_regions (s : State) (n : Nat) (m : Meta) : (s.setMeta n m).regions = s.regions := rfl
@[simp] theorem State.setMeta_roots (s : State) (n : Nat) (m : Meta) : (s.setMeta n m).roots = s.roots := rfl
@[simp] theorem State.setMeta_tasks (s : State) (n : Nat) (m : Meta) : (s.setMeta n m).tasks = s.tasks := rfl
@[simp] theorem State.setMeta_subNext (s : State) (n : Nat) (m : Meta) : (s.setMeta n m).subNext = s.subNext := rfl
@[simp] theorem State.setMeta_posts (s : State) (n : Nat) (m : Meta) : (s.setMeta n m).posts = s.posts := rfl
@[simp] theorem State.setMeta_doms (s : State) (n : Nat) (m : Meta) : (s.setMeta n m).doms = s.doms := rfl
@[simp] theorem State.setMeta_defer (s : State) (n : Nat) (m : Meta) : (s.setMeta n m).defer = s.defer := rfl
@[simp] theorem State.setMeta_resp (s : State) (n : Nat) (m : Meta) : (s.setMeta n m).resp = s.resp := rfl
@[simp] theorem State.setMeta_troot (s : State) (n : Nat) (m : Meta) : (s.setMeta n m).troot = s.troot := rfl
@[simp] theorem State.setMeta_parts (s : State) (n : Nat) (m : Meta) : (s.setMeta n m).parts = s.parts := rfl
@[simp] theorem State.setMeta_tenpol (s : State) (n : Nat) (m : Meta) : (s.setMeta n m).tenpol = s.tenpol := rfl
@[simp] theorem State.setMeta_hdesc (s : State) (n : Nat) (m : Meta) : (s.setMeta n m).hdesc = s.hdesc := rfl
@[simp] theorem State.setMeta_buckets (s : State) (n : Nat) (m : Meta) : (s.setMeta n m).buckets = s.buckets := rfl
@[simp] theorem State.setMeta_paired (s : State) (n : Nat) (m : Meta) : (s.setMeta n m).paired = s.paired := rfl
@[simp] theorem State.setMeta_faulty (s : State) (n : Nat) (m : Meta) : (s.setMeta n m).faulty = s.faulty := rfl
@[simp] theorem State.setMeta_redOwner (s : State) (n : Nat) (m : Meta) : (s.setMeta n m).redOwner = s.redOwner := rfl
@[simp] theorem State.setMeta_eth (s : State) (n : Nat) (m : Meta) : (s.setMeta n m).eth = s.eth := rfl
@[simp] theorem State.setMeta_links (s : State) (n : Nat) (m : Meta) : (s.setMeta n m).links = s.links := rfl
@[simp] theorem State.setMeta_dead (s : State) (n : Nat) (m : Meta) : (s.setMeta n m).dead = s.dead := rfl
@[simp] theorem State.setMeta_unreach (s : State) (n : Nat) (m : Meta) : (s.setMeta n m).unreach = s.unreach := rfl
@[simp] theorem State.setMeta_reports (s : State) (n : Nat) (m : Meta) : (s.setMeta n m).reports = s.reports := rfl
@[simp] theorem State.setMeta_colls (s : State) (n : Nat) (m : Meta) : (s.setMeta n m).colls = s.colls := rfl
@[simp] theorem State.setMeta_classif (s : State) (n : Nat) (m : Meta) : (s.setMeta n m).classif = s.classif := rfl
@[simp] theorem State.setMeta_cmps (s : State) (n : Nat) (m : Meta) : (s.setMeta n m).cmps = s.cmps := rfl

@[simp] theorem State.setAttr_power (s : State) (n : Nat) (a : Attr) : (s.setAttr n a).power = s.power := rfl
@[simp] theorem State.setAttr_pinChipId (s : State) (n : Nat) (a : Attr) : (s.setAttr n a).pinChipId = s.pinChipId := rfl
@[simp] theorem State.setAttr_pinHostPort (s : State) (n : Nat) (a : Attr) : (s.setAttr n a).pinHostPort = s.pinHostPort := rfl
@[simp] theorem State.setAttr_chipId (s : State) (n : Nat) (a : Attr) : (s.setAttr n a).chipId = s.chipId := rfl
@[simp] theorem State.setAttr_hostPort (s : State) (n : Nat) (a : Attr) : (s.setAttr n a).hostPort = s.hostPort := rfl
@[simp] theorem State.setAttr_gated (s : State) (n : Nat) (a : Attr) : (s.setAttr n a).gated = s.gated := rfl
@[simp] theorem State.setAttr_clock (s : State) (n : Nat) (a : Attr) : (s.setAttr n a).clock = s.clock := rfl
@[simp] theorem State.setAttr_supClock (s : State) (n : Nat) (a : Attr) : (s.setAttr n a).supClock = s.supClock := rfl
@[simp] theorem State.setAttr_agenda (s : State) (n : Nat) (a : Attr) : (s.setAttr n a).agenda = s.agenda := rfl
@[simp] theorem State.setAttr_free (s : State) (n : Nat) (a : Attr) : (s.setAttr n a).free = s.free := rfl
@[simp] theorem State.setAttr_nextId (s : State) (n : Nat) (a : Attr) : (s.setAttr n a).nextId = s.nextId := rfl
@[simp] theorem State.setAttr_cur (s : State) (n : Nat) (a : Attr) : (s.setAttr n a).cur = s.cur := rfl
@[simp] theorem State.setAttr_fetched (s : State) (n : Nat) (a : Attr) : (s.setAttr n a).fetched = s.fetched := rfl
@[simp] theorem State.setAttr_out (s : State) (n : Nat) (a : Attr) : (s.setAttr n a).out = s.out := rfl
@[simp] theorem State.setAttr_hostQ (s : State) (n : Nat) (a : Attr) : (s.setAttr n a).hostQ = s.hostQ := rfl
@[simp] theorem State.setAttr_mctl (s : State) (n : Nat) (a : Attr) : (s.setAttr n a).mctl = s.mctl := rfl
@[simp] theorem State.setAttr_thermtrip (s : State) (n : Nat) (a : Attr) : (s.setAttr n a).thermtrip = s.thermtrip := rfl
@[simp] theorem State.setAttr_ctl (s : State) (n : Nat) (a : Attr) : (s.setAttr n a).ctl = s.ctl := rfl
@[simp] theorem State.setAttr_walks (s : State) (n : Nat) (a : Attr) : (s.setAttr n a).walks = s.walks := rfl
@[simp] theorem State.setAttr_pulls (s : State) (n : Nat) (a : Attr) : (s.setAttr n a).pulls = s.pulls := rfl
@[simp] theorem State.setAttr_reserved (s : State) (n : Nat) (a : Attr) : (s.setAttr n a).reserved = s.reserved := rfl
@[simp] theorem State.setAttr_repaired (s : State) (n : Nat) (a : Attr) : (s.setAttr n a).repaired = s.repaired := rfl
@[simp] theorem State.setAttr_mem (s : State) (n : Nat) (a : Attr) : (s.setAttr n a).mem = s.mem := rfl
@[simp] theorem State.setAttr_lineInfo (s : State) (n : Nat) (a : Attr) : (s.setAttr n a).lineInfo = s.lineInfo := rfl
@[simp] theorem State.setAttr_l2 (s : State) (n : Nat) (a : Attr) : (s.setAttr n a).l2 = s.l2 := rfl
@[simp] theorem State.setAttr_wayMask (s : State) (n : Nat) (a : Attr) : (s.setAttr n a).wayMask = s.wayMask := rfl
@[simp] theorem State.setAttr_bxgen (s : State) (n : Nat) (a : Attr) : (s.setAttr n a).bxgen = s.bxgen := rfl
@[simp] theorem State.setAttr_tablePool (s : State) (n : Nat) (a : Attr) : (s.setAttr n a).tablePool = s.tablePool := rfl
@[simp] theorem State.setAttr_revivals (s : State) (n : Nat) (a : Attr) : (s.setAttr n a).revivals = s.revivals := rfl
@[simp] theorem State.setAttr_cores (s : State) (n : Nat) (a : Attr) : (s.setAttr n a).cores = s.cores := rfl
@[simp] theorem State.setAttr_wgs (s : State) (n : Nat) (a : Attr) : (s.setAttr n a).wgs = s.wgs := rfl
@[simp] theorem State.setAttr_trains (s : State) (n : Nat) (a : Attr) : (s.setAttr n a).trains = s.trains := rfl
@[simp] theorem State.setAttr_strQ (s : State) (n : Nat) (a : Attr) : (s.setAttr n a).strQ = s.strQ := rfl
@[simp] theorem State.setAttr_seqQ (s : State) (n : Nat) (a : Attr) : (s.setAttr n a).seqQ = s.seqQ := rfl
@[simp] theorem State.setAttr_regions (s : State) (n : Nat) (a : Attr) : (s.setAttr n a).regions = s.regions := rfl
@[simp] theorem State.setAttr_roots (s : State) (n : Nat) (a : Attr) : (s.setAttr n a).roots = s.roots := rfl
@[simp] theorem State.setAttr_tasks (s : State) (n : Nat) (a : Attr) : (s.setAttr n a).tasks = s.tasks := rfl
@[simp] theorem State.setAttr_subNext (s : State) (n : Nat) (a : Attr) : (s.setAttr n a).subNext = s.subNext := rfl
@[simp] theorem State.setAttr_posts (s : State) (n : Nat) (a : Attr) : (s.setAttr n a).posts = s.posts := rfl
@[simp] theorem State.setAttr_doms (s : State) (n : Nat) (a : Attr) : (s.setAttr n a).doms = s.doms := rfl
@[simp] theorem State.setAttr_defer (s : State) (n : Nat) (a : Attr) : (s.setAttr n a).defer = s.defer := rfl
@[simp] theorem State.setAttr_resp (s : State) (n : Nat) (a : Attr) : (s.setAttr n a).resp = s.resp := rfl
@[simp] theorem State.setAttr_troot (s : State) (n : Nat) (a : Attr) : (s.setAttr n a).troot = s.troot := rfl
@[simp] theorem State.setAttr_parts (s : State) (n : Nat) (a : Attr) : (s.setAttr n a).parts = s.parts := rfl
@[simp] theorem State.setAttr_tenpol (s : State) (n : Nat) (a : Attr) : (s.setAttr n a).tenpol = s.tenpol := rfl
@[simp] theorem State.setAttr_hdesc (s : State) (n : Nat) (a : Attr) : (s.setAttr n a).hdesc = s.hdesc := rfl
@[simp] theorem State.setAttr_buckets (s : State) (n : Nat) (a : Attr) : (s.setAttr n a).buckets = s.buckets := rfl
@[simp] theorem State.setAttr_paired (s : State) (n : Nat) (a : Attr) : (s.setAttr n a).paired = s.paired := rfl
@[simp] theorem State.setAttr_faulty (s : State) (n : Nat) (a : Attr) : (s.setAttr n a).faulty = s.faulty := rfl
@[simp] theorem State.setAttr_redOwner (s : State) (n : Nat) (a : Attr) : (s.setAttr n a).redOwner = s.redOwner := rfl
@[simp] theorem State.setAttr_eth (s : State) (n : Nat) (a : Attr) : (s.setAttr n a).eth = s.eth := rfl
@[simp] theorem State.setAttr_links (s : State) (n : Nat) (a : Attr) : (s.setAttr n a).links = s.links := rfl
@[simp] theorem State.setAttr_dead (s : State) (n : Nat) (a : Attr) : (s.setAttr n a).dead = s.dead := rfl
@[simp] theorem State.setAttr_unreach (s : State) (n : Nat) (a : Attr) : (s.setAttr n a).unreach = s.unreach := rfl
@[simp] theorem State.setAttr_reports (s : State) (n : Nat) (a : Attr) : (s.setAttr n a).reports = s.reports := rfl
@[simp] theorem State.setAttr_colls (s : State) (n : Nat) (a : Attr) : (s.setAttr n a).colls = s.colls := rfl
@[simp] theorem State.setAttr_classif (s : State) (n : Nat) (a : Attr) : (s.setAttr n a).classif = s.classif := rfl
@[simp] theorem State.setAttr_cmps (s : State) (n : Nat) (a : Attr) : (s.setAttr n a).cmps = s.cmps := rfl

@[simp] theorem State.touchL2_power (s : State) (n : Nat) (b : BitVec 4) : (s.touchL2 n b).power = s.power := rfl
@[simp] theorem State.touchL2_pinChipId (s : State) (n : Nat) (b : BitVec 4) : (s.touchL2 n b).pinChipId = s.pinChipId := rfl
@[simp] theorem State.touchL2_pinHostPort (s : State) (n : Nat) (b : BitVec 4) : (s.touchL2 n b).pinHostPort = s.pinHostPort := rfl
@[simp] theorem State.touchL2_chipId (s : State) (n : Nat) (b : BitVec 4) : (s.touchL2 n b).chipId = s.chipId := rfl
@[simp] theorem State.touchL2_hostPort (s : State) (n : Nat) (b : BitVec 4) : (s.touchL2 n b).hostPort = s.hostPort := rfl
@[simp] theorem State.touchL2_gated (s : State) (n : Nat) (b : BitVec 4) : (s.touchL2 n b).gated = s.gated := rfl
@[simp] theorem State.touchL2_clock (s : State) (n : Nat) (b : BitVec 4) : (s.touchL2 n b).clock = s.clock := rfl
@[simp] theorem State.touchL2_supClock (s : State) (n : Nat) (b : BitVec 4) : (s.touchL2 n b).supClock = s.supClock := rfl
@[simp] theorem State.touchL2_agenda (s : State) (n : Nat) (b : BitVec 4) : (s.touchL2 n b).agenda = s.agenda := rfl
@[simp] theorem State.touchL2_free (s : State) (n : Nat) (b : BitVec 4) : (s.touchL2 n b).free = s.free := rfl
@[simp] theorem State.touchL2_nextId (s : State) (n : Nat) (b : BitVec 4) : (s.touchL2 n b).nextId = s.nextId := rfl
@[simp] theorem State.touchL2_cur (s : State) (n : Nat) (b : BitVec 4) : (s.touchL2 n b).cur = s.cur := rfl
@[simp] theorem State.touchL2_fetched (s : State) (n : Nat) (b : BitVec 4) : (s.touchL2 n b).fetched = s.fetched := rfl
@[simp] theorem State.touchL2_out (s : State) (n : Nat) (b : BitVec 4) : (s.touchL2 n b).out = s.out := rfl
@[simp] theorem State.touchL2_hostQ (s : State) (n : Nat) (b : BitVec 4) : (s.touchL2 n b).hostQ = s.hostQ := rfl
@[simp] theorem State.touchL2_mctl (s : State) (n : Nat) (b : BitVec 4) : (s.touchL2 n b).mctl = s.mctl := rfl
@[simp] theorem State.touchL2_thermtrip (s : State) (n : Nat) (b : BitVec 4) : (s.touchL2 n b).thermtrip = s.thermtrip := rfl
@[simp] theorem State.touchL2_ctl (s : State) (n : Nat) (b : BitVec 4) : (s.touchL2 n b).ctl = s.ctl := rfl
@[simp] theorem State.touchL2_walks (s : State) (n : Nat) (b : BitVec 4) : (s.touchL2 n b).walks = s.walks := rfl
@[simp] theorem State.touchL2_pulls (s : State) (n : Nat) (b : BitVec 4) : (s.touchL2 n b).pulls = s.pulls := rfl
@[simp] theorem State.touchL2_reserved (s : State) (n : Nat) (b : BitVec 4) : (s.touchL2 n b).reserved = s.reserved := rfl
@[simp] theorem State.touchL2_repaired (s : State) (n : Nat) (b : BitVec 4) : (s.touchL2 n b).repaired = s.repaired := rfl
@[simp] theorem State.touchL2_mem (s : State) (n : Nat) (b : BitVec 4) : (s.touchL2 n b).mem = s.mem := rfl
@[simp] theorem State.touchL2_lineInfo (s : State) (n : Nat) (b : BitVec 4) : (s.touchL2 n b).lineInfo = s.lineInfo := rfl
@[simp] theorem State.touchL2_attrs (s : State) (n : Nat) (b : BitVec 4) : (s.touchL2 n b).attrs = s.attrs := rfl
@[simp] theorem State.touchL2_wayMask (s : State) (n : Nat) (b : BitVec 4) : (s.touchL2 n b).wayMask = s.wayMask := rfl
@[simp] theorem State.touchL2_bxgen (s : State) (n : Nat) (b : BitVec 4) : (s.touchL2 n b).bxgen = s.bxgen := rfl
@[simp] theorem State.touchL2_tablePool (s : State) (n : Nat) (b : BitVec 4) : (s.touchL2 n b).tablePool = s.tablePool := rfl
@[simp] theorem State.touchL2_revivals (s : State) (n : Nat) (b : BitVec 4) : (s.touchL2 n b).revivals = s.revivals := rfl
@[simp] theorem State.touchL2_cores (s : State) (n : Nat) (b : BitVec 4) : (s.touchL2 n b).cores = s.cores := rfl
@[simp] theorem State.touchL2_wgs (s : State) (n : Nat) (b : BitVec 4) : (s.touchL2 n b).wgs = s.wgs := rfl
@[simp] theorem State.touchL2_trains (s : State) (n : Nat) (b : BitVec 4) : (s.touchL2 n b).trains = s.trains := rfl
@[simp] theorem State.touchL2_strQ (s : State) (n : Nat) (b : BitVec 4) : (s.touchL2 n b).strQ = s.strQ := rfl
@[simp] theorem State.touchL2_seqQ (s : State) (n : Nat) (b : BitVec 4) : (s.touchL2 n b).seqQ = s.seqQ := rfl
@[simp] theorem State.touchL2_regions (s : State) (n : Nat) (b : BitVec 4) : (s.touchL2 n b).regions = s.regions := rfl
@[simp] theorem State.touchL2_roots (s : State) (n : Nat) (b : BitVec 4) : (s.touchL2 n b).roots = s.roots := rfl
@[simp] theorem State.touchL2_tasks (s : State) (n : Nat) (b : BitVec 4) : (s.touchL2 n b).tasks = s.tasks := rfl
@[simp] theorem State.touchL2_subNext (s : State) (n : Nat) (b : BitVec 4) : (s.touchL2 n b).subNext = s.subNext := rfl
@[simp] theorem State.touchL2_posts (s : State) (n : Nat) (b : BitVec 4) : (s.touchL2 n b).posts = s.posts := rfl
@[simp] theorem State.touchL2_doms (s : State) (n : Nat) (b : BitVec 4) : (s.touchL2 n b).doms = s.doms := rfl
@[simp] theorem State.touchL2_defer (s : State) (n : Nat) (b : BitVec 4) : (s.touchL2 n b).defer = s.defer := rfl
@[simp] theorem State.touchL2_resp (s : State) (n : Nat) (b : BitVec 4) : (s.touchL2 n b).resp = s.resp := rfl
@[simp] theorem State.touchL2_troot (s : State) (n : Nat) (b : BitVec 4) : (s.touchL2 n b).troot = s.troot := rfl
@[simp] theorem State.touchL2_parts (s : State) (n : Nat) (b : BitVec 4) : (s.touchL2 n b).parts = s.parts := rfl
@[simp] theorem State.touchL2_tenpol (s : State) (n : Nat) (b : BitVec 4) : (s.touchL2 n b).tenpol = s.tenpol := rfl
@[simp] theorem State.touchL2_hdesc (s : State) (n : Nat) (b : BitVec 4) : (s.touchL2 n b).hdesc = s.hdesc := rfl
@[simp] theorem State.touchL2_buckets (s : State) (n : Nat) (b : BitVec 4) : (s.touchL2 n b).buckets = s.buckets := rfl
@[simp] theorem State.touchL2_paired (s : State) (n : Nat) (b : BitVec 4) : (s.touchL2 n b).paired = s.paired := rfl
@[simp] theorem State.touchL2_faulty (s : State) (n : Nat) (b : BitVec 4) : (s.touchL2 n b).faulty = s.faulty := rfl
@[simp] theorem State.touchL2_redOwner (s : State) (n : Nat) (b : BitVec 4) : (s.touchL2 n b).redOwner = s.redOwner := rfl
@[simp] theorem State.touchL2_eth (s : State) (n : Nat) (b : BitVec 4) : (s.touchL2 n b).eth = s.eth := rfl
@[simp] theorem State.touchL2_links (s : State) (n : Nat) (b : BitVec 4) : (s.touchL2 n b).links = s.links := rfl
@[simp] theorem State.touchL2_dead (s : State) (n : Nat) (b : BitVec 4) : (s.touchL2 n b).dead = s.dead := rfl
@[simp] theorem State.touchL2_unreach (s : State) (n : Nat) (b : BitVec 4) : (s.touchL2 n b).unreach = s.unreach := rfl
@[simp] theorem State.touchL2_reports (s : State) (n : Nat) (b : BitVec 4) : (s.touchL2 n b).reports = s.reports := rfl
@[simp] theorem State.touchL2_colls (s : State) (n : Nat) (b : BitVec 4) : (s.touchL2 n b).colls = s.colls := rfl
@[simp] theorem State.touchL2_classif (s : State) (n : Nat) (b : BitVec 4) : (s.touchL2 n b).classif = s.classif := rfl
@[simp] theorem State.touchL2_cmps (s : State) (n : Nat) (b : BitVec 4) : (s.touchL2 n b).cmps = s.cmps := rfl

@[simp] theorem State.wake_power (s : State) : (s.wake).power = s.power := rfl
@[simp] theorem State.wake_pinChipId (s : State) : (s.wake).pinChipId = s.pinChipId := rfl
@[simp] theorem State.wake_pinHostPort (s : State) : (s.wake).pinHostPort = s.pinHostPort := rfl
@[simp] theorem State.wake_chipId (s : State) : (s.wake).chipId = s.chipId := rfl
@[simp] theorem State.wake_hostPort (s : State) : (s.wake).hostPort = s.hostPort := rfl
@[simp] theorem State.wake_gated (s : State) : (s.wake).gated = s.gated := rfl
@[simp] theorem State.wake_clock (s : State) : (s.wake).clock = s.clock := rfl
@[simp] theorem State.wake_supClock (s : State) : (s.wake).supClock = s.supClock := rfl
@[simp] theorem State.wake_agenda (s : State) : (s.wake).agenda = s.agenda := rfl
@[simp] theorem State.wake_free (s : State) : (s.wake).free = s.free := rfl
@[simp] theorem State.wake_nextId (s : State) : (s.wake).nextId = s.nextId := rfl
@[simp] theorem State.wake_cur (s : State) : (s.wake).cur = s.cur := rfl
@[simp] theorem State.wake_fetched (s : State) : (s.wake).fetched = s.fetched := rfl
@[simp] theorem State.wake_out (s : State) : (s.wake).out = s.out := rfl
@[simp] theorem State.wake_hostQ (s : State) : (s.wake).hostQ = s.hostQ := rfl
@[simp] theorem State.wake_mctl (s : State) : (s.wake).mctl = s.mctl := rfl
@[simp] theorem State.wake_thermtrip (s : State) : (s.wake).thermtrip = s.thermtrip := rfl
@[simp] theorem State.wake_ctl (s : State) : (s.wake).ctl = s.ctl := rfl
@[simp] theorem State.wake_walks (s : State) : (s.wake).walks = s.walks := rfl
@[simp] theorem State.wake_pulls (s : State) : (s.wake).pulls = s.pulls := rfl
@[simp] theorem State.wake_reserved (s : State) : (s.wake).reserved = s.reserved := rfl
@[simp] theorem State.wake_repaired (s : State) : (s.wake).repaired = s.repaired := rfl
@[simp] theorem State.wake_mem (s : State) : (s.wake).mem = s.mem := rfl
@[simp] theorem State.wake_lineInfo (s : State) : (s.wake).lineInfo = s.lineInfo := rfl
@[simp] theorem State.wake_attrs (s : State) : (s.wake).attrs = s.attrs := rfl
@[simp] theorem State.wake_l2 (s : State) : (s.wake).l2 = s.l2 := rfl
@[simp] theorem State.wake_wayMask (s : State) : (s.wake).wayMask = s.wayMask := rfl
@[simp] theorem State.wake_bxgen (s : State) : (s.wake).bxgen = s.bxgen := rfl
@[simp] theorem State.wake_tablePool (s : State) : (s.wake).tablePool = s.tablePool := rfl
@[simp] theorem State.wake_revivals (s : State) : (s.wake).revivals = s.revivals := rfl
@[simp] theorem State.wake_cores (s : State) : (s.wake).cores = s.cores := rfl
@[simp] theorem State.wake_wgs (s : State) : (s.wake).wgs = s.wgs := rfl
@[simp] theorem State.wake_strQ (s : State) : (s.wake).strQ = s.strQ := rfl
@[simp] theorem State.wake_seqQ (s : State) : (s.wake).seqQ = s.seqQ := rfl
@[simp] theorem State.wake_regions (s : State) : (s.wake).regions = s.regions := rfl
@[simp] theorem State.wake_roots (s : State) : (s.wake).roots = s.roots := rfl
@[simp] theorem State.wake_tasks (s : State) : (s.wake).tasks = s.tasks := rfl
@[simp] theorem State.wake_subNext (s : State) : (s.wake).subNext = s.subNext := rfl
@[simp] theorem State.wake_posts (s : State) : (s.wake).posts = s.posts := rfl
@[simp] theorem State.wake_doms (s : State) : (s.wake).doms = s.doms := rfl
@[simp] theorem State.wake_defer (s : State) : (s.wake).defer = s.defer := rfl
@[simp] theorem State.wake_resp (s : State) : (s.wake).resp = s.resp := rfl
@[simp] theorem State.wake_troot (s : State) : (s.wake).troot = s.troot := rfl
@[simp] theorem State.wake_parts (s : State) : (s.wake).parts = s.parts := rfl
@[simp] theorem State.wake_tenpol (s : State) : (s.wake).tenpol = s.tenpol := rfl
@[simp] theorem State.wake_hdesc (s : State) : (s.wake).hdesc = s.hdesc := rfl
@[simp] theorem State.wake_buckets (s : State) : (s.wake).buckets = s.buckets := rfl
@[simp] theorem State.wake_paired (s : State) : (s.wake).paired = s.paired := rfl
@[simp] theorem State.wake_faulty (s : State) : (s.wake).faulty = s.faulty := rfl
@[simp] theorem State.wake_redOwner (s : State) : (s.wake).redOwner = s.redOwner := rfl
@[simp] theorem State.wake_eth (s : State) : (s.wake).eth = s.eth := rfl
@[simp] theorem State.wake_links (s : State) : (s.wake).links = s.links := rfl
@[simp] theorem State.wake_dead (s : State) : (s.wake).dead = s.dead := rfl
@[simp] theorem State.wake_unreach (s : State) : (s.wake).unreach = s.unreach := rfl
@[simp] theorem State.wake_reports (s : State) : (s.wake).reports = s.reports := rfl
@[simp] theorem State.wake_colls (s : State) : (s.wake).colls = s.colls := rfl
@[simp] theorem State.wake_classif (s : State) : (s.wake).classif = s.classif := rfl
@[simp] theorem State.wake_cmps (s : State) : (s.wake).cmps = s.cmps := rfl

@[simp] theorem State.updWg_power (s : State) (w : Nat) (f : Wg → Wg) : (s.updWg w f).power = s.power := by
  unfold State.updWg; split <;> rfl
@[simp] theorem State.updWg_pinChipId (s : State) (w : Nat) (f : Wg → Wg) : (s.updWg w f).pinChipId = s.pinChipId := by
  unfold State.updWg; split <;> rfl
@[simp] theorem State.updWg_pinHostPort (s : State) (w : Nat) (f : Wg → Wg) : (s.updWg w f).pinHostPort = s.pinHostPort := by
  unfold State.updWg; split <;> rfl
@[simp] theorem State.updWg_chipId (s : State) (w : Nat) (f : Wg → Wg) : (s.updWg w f).chipId = s.chipId := by
  unfold State.updWg; split <;> rfl
@[simp] theorem State.updWg_hostPort (s : State) (w : Nat) (f : Wg → Wg) : (s.updWg w f).hostPort = s.hostPort := by
  unfold State.updWg; split <;> rfl
@[simp] theorem State.updWg_gated (s : State) (w : Nat) (f : Wg → Wg) : (s.updWg w f).gated = s.gated := by
  unfold State.updWg; split <;> rfl
@[simp] theorem State.updWg_clock (s : State) (w : Nat) (f : Wg → Wg) : (s.updWg w f).clock = s.clock := by
  unfold State.updWg; split <;> rfl
@[simp] theorem State.updWg_supClock (s : State) (w : Nat) (f : Wg → Wg) : (s.updWg w f).supClock = s.supClock := by
  unfold State.updWg; split <;> rfl
@[simp] theorem State.updWg_agenda (s : State) (w : Nat) (f : Wg → Wg) : (s.updWg w f).agenda = s.agenda := by
  unfold State.updWg; split <;> rfl
@[simp] theorem State.updWg_free (s : State) (w : Nat) (f : Wg → Wg) : (s.updWg w f).free = s.free := by
  unfold State.updWg; split <;> rfl
@[simp] theorem State.updWg_nextId (s : State) (w : Nat) (f : Wg → Wg) : (s.updWg w f).nextId = s.nextId := by
  unfold State.updWg; split <;> rfl
@[simp] theorem State.updWg_cur (s : State) (w : Nat) (f : Wg → Wg) : (s.updWg w f).cur = s.cur := by
  unfold State.updWg; split <;> rfl
@[simp] theorem State.updWg_fetched (s : State) (w : Nat) (f : Wg → Wg) : (s.updWg w f).fetched = s.fetched := by
  unfold State.updWg; split <;> rfl
@[simp] theorem State.updWg_out (s : State) (w : Nat) (f : Wg → Wg) : (s.updWg w f).out = s.out := by
  unfold State.updWg; split <;> rfl
@[simp] theorem State.updWg_hostQ (s : State) (w : Nat) (f : Wg → Wg) : (s.updWg w f).hostQ = s.hostQ := by
  unfold State.updWg; split <;> rfl
@[simp] theorem State.updWg_mctl (s : State) (w : Nat) (f : Wg → Wg) : (s.updWg w f).mctl = s.mctl := by
  unfold State.updWg; split <;> rfl
@[simp] theorem State.updWg_thermtrip (s : State) (w : Nat) (f : Wg → Wg) : (s.updWg w f).thermtrip = s.thermtrip := by
  unfold State.updWg; split <;> rfl
@[simp] theorem State.updWg_ctl (s : State) (w : Nat) (f : Wg → Wg) : (s.updWg w f).ctl = s.ctl := by
  unfold State.updWg; split <;> rfl
@[simp] theorem State.updWg_walks (s : State) (w : Nat) (f : Wg → Wg) : (s.updWg w f).walks = s.walks := by
  unfold State.updWg; split <;> rfl
@[simp] theorem State.updWg_pulls (s : State) (w : Nat) (f : Wg → Wg) : (s.updWg w f).pulls = s.pulls := by
  unfold State.updWg; split <;> rfl
@[simp] theorem State.updWg_reserved (s : State) (w : Nat) (f : Wg → Wg) : (s.updWg w f).reserved = s.reserved := by
  unfold State.updWg; split <;> rfl
@[simp] theorem State.updWg_repaired (s : State) (w : Nat) (f : Wg → Wg) : (s.updWg w f).repaired = s.repaired := by
  unfold State.updWg; split <;> rfl
@[simp] theorem State.updWg_mem (s : State) (w : Nat) (f : Wg → Wg) : (s.updWg w f).mem = s.mem := by
  unfold State.updWg; split <;> rfl
@[simp] theorem State.updWg_lineInfo (s : State) (w : Nat) (f : Wg → Wg) : (s.updWg w f).lineInfo = s.lineInfo := by
  unfold State.updWg; split <;> rfl
@[simp] theorem State.updWg_attrs (s : State) (w : Nat) (f : Wg → Wg) : (s.updWg w f).attrs = s.attrs := by
  unfold State.updWg; split <;> rfl
@[simp] theorem State.updWg_l2 (s : State) (w : Nat) (f : Wg → Wg) : (s.updWg w f).l2 = s.l2 := by
  unfold State.updWg; split <;> rfl
@[simp] theorem State.updWg_wayMask (s : State) (w : Nat) (f : Wg → Wg) : (s.updWg w f).wayMask = s.wayMask := by
  unfold State.updWg; split <;> rfl
@[simp] theorem State.updWg_bxgen (s : State) (w : Nat) (f : Wg → Wg) : (s.updWg w f).bxgen = s.bxgen := by
  unfold State.updWg; split <;> rfl
@[simp] theorem State.updWg_tablePool (s : State) (w : Nat) (f : Wg → Wg) : (s.updWg w f).tablePool = s.tablePool := by
  unfold State.updWg; split <;> rfl
@[simp] theorem State.updWg_revivals (s : State) (w : Nat) (f : Wg → Wg) : (s.updWg w f).revivals = s.revivals := by
  unfold State.updWg; split <;> rfl
@[simp] theorem State.updWg_cores (s : State) (w : Nat) (f : Wg → Wg) : (s.updWg w f).cores = s.cores := by
  unfold State.updWg; split <;> rfl
@[simp] theorem State.updWg_trains (s : State) (w : Nat) (f : Wg → Wg) : (s.updWg w f).trains = s.trains := by
  unfold State.updWg; split <;> rfl
@[simp] theorem State.updWg_strQ (s : State) (w : Nat) (f : Wg → Wg) : (s.updWg w f).strQ = s.strQ := by
  unfold State.updWg; split <;> rfl
@[simp] theorem State.updWg_seqQ (s : State) (w : Nat) (f : Wg → Wg) : (s.updWg w f).seqQ = s.seqQ := by
  unfold State.updWg; split <;> rfl
@[simp] theorem State.updWg_regions (s : State) (w : Nat) (f : Wg → Wg) : (s.updWg w f).regions = s.regions := by
  unfold State.updWg; split <;> rfl
@[simp] theorem State.updWg_roots (s : State) (w : Nat) (f : Wg → Wg) : (s.updWg w f).roots = s.roots := by
  unfold State.updWg; split <;> rfl
@[simp] theorem State.updWg_tasks (s : State) (w : Nat) (f : Wg → Wg) : (s.updWg w f).tasks = s.tasks := by
  unfold State.updWg; split <;> rfl
@[simp] theorem State.updWg_subNext (s : State) (w : Nat) (f : Wg → Wg) : (s.updWg w f).subNext = s.subNext := by
  unfold State.updWg; split <;> rfl
@[simp] theorem State.updWg_posts (s : State) (w : Nat) (f : Wg → Wg) : (s.updWg w f).posts = s.posts := by
  unfold State.updWg; split <;> rfl
@[simp] theorem State.updWg_doms (s : State) (w : Nat) (f : Wg → Wg) : (s.updWg w f).doms = s.doms := by
  unfold State.updWg; split <;> rfl
@[simp] theorem State.updWg_defer (s : State) (w : Nat) (f : Wg → Wg) : (s.updWg w f).defer = s.defer := by
  unfold State.updWg; split <;> rfl
@[simp] theorem State.updWg_resp (s : State) (w : Nat) (f : Wg → Wg) : (s.updWg w f).resp = s.resp := by
  unfold State.updWg; split <;> rfl
@[simp] theorem State.updWg_troot (s : State) (w : Nat) (f : Wg → Wg) : (s.updWg w f).troot = s.troot := by
  unfold State.updWg; split <;> rfl
@[simp] theorem State.updWg_parts (s : State) (w : Nat) (f : Wg → Wg) : (s.updWg w f).parts = s.parts := by
  unfold State.updWg; split <;> rfl
@[simp] theorem State.updWg_tenpol (s : State) (w : Nat) (f : Wg → Wg) : (s.updWg w f).tenpol = s.tenpol := by
  unfold State.updWg; split <;> rfl
@[simp] theorem State.updWg_hdesc (s : State) (w : Nat) (f : Wg → Wg) : (s.updWg w f).hdesc = s.hdesc := by
  unfold State.updWg; split <;> rfl
@[simp] theorem State.updWg_buckets (s : State) (w : Nat) (f : Wg → Wg) : (s.updWg w f).buckets = s.buckets := by
  unfold State.updWg; split <;> rfl
@[simp] theorem State.updWg_paired (s : State) (w : Nat) (f : Wg → Wg) : (s.updWg w f).paired = s.paired := by
  unfold State.updWg; split <;> rfl
@[simp] theorem State.updWg_faulty (s : State) (w : Nat) (f : Wg → Wg) : (s.updWg w f).faulty = s.faulty := by
  unfold State.updWg; split <;> rfl
@[simp] theorem State.updWg_redOwner (s : State) (w : Nat) (f : Wg → Wg) : (s.updWg w f).redOwner = s.redOwner := by
  unfold State.updWg; split <;> rfl
@[simp] theorem State.updWg_eth (s : State) (w : Nat) (f : Wg → Wg) : (s.updWg w f).eth = s.eth := by
  unfold State.updWg; split <;> rfl
@[simp] theorem State.updWg_links (s : State) (w : Nat) (f : Wg → Wg) : (s.updWg w f).links = s.links := by
  unfold State.updWg; split <;> rfl
@[simp] theorem State.updWg_dead (s : State) (w : Nat) (f : Wg → Wg) : (s.updWg w f).dead = s.dead := by
  unfold State.updWg; split <;> rfl
@[simp] theorem State.updWg_unreach (s : State) (w : Nat) (f : Wg → Wg) : (s.updWg w f).unreach = s.unreach := by
  unfold State.updWg; split <;> rfl
@[simp] theorem State.updWg_reports (s : State) (w : Nat) (f : Wg → Wg) : (s.updWg w f).reports = s.reports := by
  unfold State.updWg; split <;> rfl
@[simp] theorem State.updWg_colls (s : State) (w : Nat) (f : Wg → Wg) : (s.updWg w f).colls = s.colls := by
  unfold State.updWg; split <;> rfl
@[simp] theorem State.updWg_classif (s : State) (w : Nat) (f : Wg → Wg) : (s.updWg w f).classif = s.classif := by
  unfold State.updWg; split <;> rfl
@[simp] theorem State.updWg_cmps (s : State) (w : Nat) (f : Wg → Wg) : (s.updWg w f).cmps = s.cmps := by
  unfold State.updWg; split <;> rfl

@[simp] theorem State.updTrain_power (s : State) (w t : Nat) (f : Train → Train) : (s.updTrain w t f).power = s.power := by
  unfold State.updTrain; split <;> rfl
@[simp] theorem State.updTrain_pinChipId (s : State) (w t : Nat) (f : Train → Train) : (s.updTrain w t f).pinChipId = s.pinChipId := by
  unfold State.updTrain; split <;> rfl
@[simp] theorem State.updTrain_pinHostPort (s : State) (w t : Nat) (f : Train → Train) : (s.updTrain w t f).pinHostPort = s.pinHostPort := by
  unfold State.updTrain; split <;> rfl
@[simp] theorem State.updTrain_chipId (s : State) (w t : Nat) (f : Train → Train) : (s.updTrain w t f).chipId = s.chipId := by
  unfold State.updTrain; split <;> rfl
@[simp] theorem State.updTrain_hostPort (s : State) (w t : Nat) (f : Train → Train) : (s.updTrain w t f).hostPort = s.hostPort := by
  unfold State.updTrain; split <;> rfl
@[simp] theorem State.updTrain_gated (s : State) (w t : Nat) (f : Train → Train) : (s.updTrain w t f).gated = s.gated := by
  unfold State.updTrain; split <;> rfl
@[simp] theorem State.updTrain_clock (s : State) (w t : Nat) (f : Train → Train) : (s.updTrain w t f).clock = s.clock := by
  unfold State.updTrain; split <;> rfl
@[simp] theorem State.updTrain_supClock (s : State) (w t : Nat) (f : Train → Train) : (s.updTrain w t f).supClock = s.supClock := by
  unfold State.updTrain; split <;> rfl
@[simp] theorem State.updTrain_agenda (s : State) (w t : Nat) (f : Train → Train) : (s.updTrain w t f).agenda = s.agenda := by
  unfold State.updTrain; split <;> rfl
@[simp] theorem State.updTrain_free (s : State) (w t : Nat) (f : Train → Train) : (s.updTrain w t f).free = s.free := by
  unfold State.updTrain; split <;> rfl
@[simp] theorem State.updTrain_nextId (s : State) (w t : Nat) (f : Train → Train) : (s.updTrain w t f).nextId = s.nextId := by
  unfold State.updTrain; split <;> rfl
@[simp] theorem State.updTrain_cur (s : State) (w t : Nat) (f : Train → Train) : (s.updTrain w t f).cur = s.cur := by
  unfold State.updTrain; split <;> rfl
@[simp] theorem State.updTrain_fetched (s : State) (w t : Nat) (f : Train → Train) : (s.updTrain w t f).fetched = s.fetched := by
  unfold State.updTrain; split <;> rfl
@[simp] theorem State.updTrain_out (s : State) (w t : Nat) (f : Train → Train) : (s.updTrain w t f).out = s.out := by
  unfold State.updTrain; split <;> rfl
@[simp] theorem State.updTrain_hostQ (s : State) (w t : Nat) (f : Train → Train) : (s.updTrain w t f).hostQ = s.hostQ := by
  unfold State.updTrain; split <;> rfl
@[simp] theorem State.updTrain_mctl (s : State) (w t : Nat) (f : Train → Train) : (s.updTrain w t f).mctl = s.mctl := by
  unfold State.updTrain; split <;> rfl
@[simp] theorem State.updTrain_thermtrip (s : State) (w t : Nat) (f : Train → Train) : (s.updTrain w t f).thermtrip = s.thermtrip := by
  unfold State.updTrain; split <;> rfl
@[simp] theorem State.updTrain_ctl (s : State) (w t : Nat) (f : Train → Train) : (s.updTrain w t f).ctl = s.ctl := by
  unfold State.updTrain; split <;> rfl
@[simp] theorem State.updTrain_walks (s : State) (w t : Nat) (f : Train → Train) : (s.updTrain w t f).walks = s.walks := by
  unfold State.updTrain; split <;> rfl
@[simp] theorem State.updTrain_pulls (s : State) (w t : Nat) (f : Train → Train) : (s.updTrain w t f).pulls = s.pulls := by
  unfold State.updTrain; split <;> rfl
@[simp] theorem State.updTrain_reserved (s : State) (w t : Nat) (f : Train → Train) : (s.updTrain w t f).reserved = s.reserved := by
  unfold State.updTrain; split <;> rfl
@[simp] theorem State.updTrain_repaired (s : State) (w t : Nat) (f : Train → Train) : (s.updTrain w t f).repaired = s.repaired := by
  unfold State.updTrain; split <;> rfl
@[simp] theorem State.updTrain_mem (s : State) (w t : Nat) (f : Train → Train) : (s.updTrain w t f).mem = s.mem := by
  unfold State.updTrain; split <;> rfl
@[simp] theorem State.updTrain_lineInfo (s : State) (w t : Nat) (f : Train → Train) : (s.updTrain w t f).lineInfo = s.lineInfo := by
  unfold State.updTrain; split <;> rfl
@[simp] theorem State.updTrain_attrs (s : State) (w t : Nat) (f : Train → Train) : (s.updTrain w t f).attrs = s.attrs := by
  unfold State.updTrain; split <;> rfl
@[simp] theorem State.updTrain_l2 (s : State) (w t : Nat) (f : Train → Train) : (s.updTrain w t f).l2 = s.l2 := by
  unfold State.updTrain; split <;> rfl
@[simp] theorem State.updTrain_wayMask (s : State) (w t : Nat) (f : Train → Train) : (s.updTrain w t f).wayMask = s.wayMask := by
  unfold State.updTrain; split <;> rfl
@[simp] theorem State.updTrain_bxgen (s : State) (w t : Nat) (f : Train → Train) : (s.updTrain w t f).bxgen = s.bxgen := by
  unfold State.updTrain; split <;> rfl
@[simp] theorem State.updTrain_tablePool (s : State) (w t : Nat) (f : Train → Train) : (s.updTrain w t f).tablePool = s.tablePool := by
  unfold State.updTrain; split <;> rfl
@[simp] theorem State.updTrain_revivals (s : State) (w t : Nat) (f : Train → Train) : (s.updTrain w t f).revivals = s.revivals := by
  unfold State.updTrain; split <;> rfl
@[simp] theorem State.updTrain_cores (s : State) (w t : Nat) (f : Train → Train) : (s.updTrain w t f).cores = s.cores := by
  unfold State.updTrain; split <;> rfl
@[simp] theorem State.updTrain_wgs (s : State) (w t : Nat) (f : Train → Train) : (s.updTrain w t f).wgs = s.wgs := by
  unfold State.updTrain; split <;> rfl
@[simp] theorem State.updTrain_strQ (s : State) (w t : Nat) (f : Train → Train) : (s.updTrain w t f).strQ = s.strQ := by
  unfold State.updTrain; split <;> rfl
@[simp] theorem State.updTrain_seqQ (s : State) (w t : Nat) (f : Train → Train) : (s.updTrain w t f).seqQ = s.seqQ := by
  unfold State.updTrain; split <;> rfl
@[simp] theorem State.updTrain_regions (s : State) (w t : Nat) (f : Train → Train) : (s.updTrain w t f).regions = s.regions := by
  unfold State.updTrain; split <;> rfl
@[simp] theorem State.updTrain_roots (s : State) (w t : Nat) (f : Train → Train) : (s.updTrain w t f).roots = s.roots := by
  unfold State.updTrain; split <;> rfl
@[simp] theorem State.updTrain_tasks (s : State) (w t : Nat) (f : Train → Train) : (s.updTrain w t f).tasks = s.tasks := by
  unfold State.updTrain; split <;> rfl
@[simp] theorem State.updTrain_subNext (s : State) (w t : Nat) (f : Train → Train) : (s.updTrain w t f).subNext = s.subNext := by
  unfold State.updTrain; split <;> rfl
@[simp] theorem State.updTrain_posts (s : State) (w t : Nat) (f : Train → Train) : (s.updTrain w t f).posts = s.posts := by
  unfold State.updTrain; split <;> rfl
@[simp] theorem State.updTrain_doms (s : State) (w t : Nat) (f : Train → Train) : (s.updTrain w t f).doms = s.doms := by
  unfold State.updTrain; split <;> rfl
@[simp] theorem State.updTrain_defer (s : State) (w t : Nat) (f : Train → Train) : (s.updTrain w t f).defer = s.defer := by
  unfold State.updTrain; split <;> rfl
@[simp] theorem State.updTrain_resp (s : State) (w t : Nat) (f : Train → Train) : (s.updTrain w t f).resp = s.resp := by
  unfold State.updTrain; split <;> rfl
@[simp] theorem State.updTrain_troot (s : State) (w t : Nat) (f : Train → Train) : (s.updTrain w t f).troot = s.troot := by
  unfold State.updTrain; split <;> rfl
@[simp] theorem State.updTrain_parts (s : State) (w t : Nat) (f : Train → Train) : (s.updTrain w t f).parts = s.parts := by
  unfold State.updTrain; split <;> rfl
@[simp] theorem State.updTrain_tenpol (s : State) (w t : Nat) (f : Train → Train) : (s.updTrain w t f).tenpol = s.tenpol := by
  unfold State.updTrain; split <;> rfl
@[simp] theorem State.updTrain_hdesc (s : State) (w t : Nat) (f : Train → Train) : (s.updTrain w t f).hdesc = s.hdesc := by
  unfold State.updTrain; split <;> rfl
@[simp] theorem State.updTrain_buckets (s : State) (w t : Nat) (f : Train → Train) : (s.updTrain w t f).buckets = s.buckets := by
  unfold State.updTrain; split <;> rfl
@[simp] theorem State.updTrain_paired (s : State) (w t : Nat) (f : Train → Train) : (s.updTrain w t f).paired = s.paired := by
  unfold State.updTrain; split <;> rfl
@[simp] theorem State.updTrain_faulty (s : State) (w t : Nat) (f : Train → Train) : (s.updTrain w t f).faulty = s.faulty := by
  unfold State.updTrain; split <;> rfl
@[simp] theorem State.updTrain_redOwner (s : State) (w t : Nat) (f : Train → Train) : (s.updTrain w t f).redOwner = s.redOwner := by
  unfold State.updTrain; split <;> rfl
@[simp] theorem State.updTrain_eth (s : State) (w t : Nat) (f : Train → Train) : (s.updTrain w t f).eth = s.eth := by
  unfold State.updTrain; split <;> rfl
@[simp] theorem State.updTrain_links (s : State) (w t : Nat) (f : Train → Train) : (s.updTrain w t f).links = s.links := by
  unfold State.updTrain; split <;> rfl
@[simp] theorem State.updTrain_dead (s : State) (w t : Nat) (f : Train → Train) : (s.updTrain w t f).dead = s.dead := by
  unfold State.updTrain; split <;> rfl
@[simp] theorem State.updTrain_unreach (s : State) (w t : Nat) (f : Train → Train) : (s.updTrain w t f).unreach = s.unreach := by
  unfold State.updTrain; split <;> rfl
@[simp] theorem State.updTrain_reports (s : State) (w t : Nat) (f : Train → Train) : (s.updTrain w t f).reports = s.reports := by
  unfold State.updTrain; split <;> rfl
@[simp] theorem State.updTrain_colls (s : State) (w t : Nat) (f : Train → Train) : (s.updTrain w t f).colls = s.colls := by
  unfold State.updTrain; split <;> rfl
@[simp] theorem State.updTrain_classif (s : State) (w t : Nat) (f : Train → Train) : (s.updTrain w t f).classif = s.classif := by
  unfold State.updTrain; split <;> rfl
@[simp] theorem State.updTrain_cmps (s : State) (w t : Nat) (f : Train → Train) : (s.updTrain w t f).cmps = s.cmps := by
  unfold State.updTrain; split <;> rfl

@[simp] theorem State.updTask_power (s : State) (n : Nat) (f : Task → Task) : (s.updTask n f).power = s.power := by
  unfold State.updTask; split <;> rfl
@[simp] theorem State.updTask_pinChipId (s : State) (n : Nat) (f : Task → Task) : (s.updTask n f).pinChipId = s.pinChipId := by
  unfold State.updTask; split <;> rfl
@[simp] theorem State.updTask_pinHostPort (s : State) (n : Nat) (f : Task → Task) : (s.updTask n f).pinHostPort = s.pinHostPort := by
  unfold State.updTask; split <;> rfl
@[simp] theorem State.updTask_chipId (s : State) (n : Nat) (f : Task → Task) : (s.updTask n f).chipId = s.chipId := by
  unfold State.updTask; split <;> rfl
@[simp] theorem State.updTask_hostPort (s : State) (n : Nat) (f : Task → Task) : (s.updTask n f).hostPort = s.hostPort := by
  unfold State.updTask; split <;> rfl
@[simp] theorem State.updTask_gated (s : State) (n : Nat) (f : Task → Task) : (s.updTask n f).gated = s.gated := by
  unfold State.updTask; split <;> rfl
@[simp] theorem State.updTask_clock (s : State) (n : Nat) (f : Task → Task) : (s.updTask n f).clock = s.clock := by
  unfold State.updTask; split <;> rfl
@[simp] theorem State.updTask_supClock (s : State) (n : Nat) (f : Task → Task) : (s.updTask n f).supClock = s.supClock := by
  unfold State.updTask; split <;> rfl
@[simp] theorem State.updTask_agenda (s : State) (n : Nat) (f : Task → Task) : (s.updTask n f).agenda = s.agenda := by
  unfold State.updTask; split <;> rfl
@[simp] theorem State.updTask_free (s : State) (n : Nat) (f : Task → Task) : (s.updTask n f).free = s.free := by
  unfold State.updTask; split <;> rfl
@[simp] theorem State.updTask_nextId (s : State) (n : Nat) (f : Task → Task) : (s.updTask n f).nextId = s.nextId := by
  unfold State.updTask; split <;> rfl
@[simp] theorem State.updTask_cur (s : State) (n : Nat) (f : Task → Task) : (s.updTask n f).cur = s.cur := by
  unfold State.updTask; split <;> rfl
@[simp] theorem State.updTask_fetched (s : State) (n : Nat) (f : Task → Task) : (s.updTask n f).fetched = s.fetched := by
  unfold State.updTask; split <;> rfl
@[simp] theorem State.updTask_out (s : State) (n : Nat) (f : Task → Task) : (s.updTask n f).out = s.out := by
  unfold State.updTask; split <;> rfl
@[simp] theorem State.updTask_hostQ (s : State) (n : Nat) (f : Task → Task) : (s.updTask n f).hostQ = s.hostQ := by
  unfold State.updTask; split <;> rfl
@[simp] theorem State.updTask_mctl (s : State) (n : Nat) (f : Task → Task) : (s.updTask n f).mctl = s.mctl := by
  unfold State.updTask; split <;> rfl
@[simp] theorem State.updTask_thermtrip (s : State) (n : Nat) (f : Task → Task) : (s.updTask n f).thermtrip = s.thermtrip := by
  unfold State.updTask; split <;> rfl
@[simp] theorem State.updTask_ctl (s : State) (n : Nat) (f : Task → Task) : (s.updTask n f).ctl = s.ctl := by
  unfold State.updTask; split <;> rfl
@[simp] theorem State.updTask_walks (s : State) (n : Nat) (f : Task → Task) : (s.updTask n f).walks = s.walks := by
  unfold State.updTask; split <;> rfl
@[simp] theorem State.updTask_pulls (s : State) (n : Nat) (f : Task → Task) : (s.updTask n f).pulls = s.pulls := by
  unfold State.updTask; split <;> rfl
@[simp] theorem State.updTask_reserved (s : State) (n : Nat) (f : Task → Task) : (s.updTask n f).reserved = s.reserved := by
  unfold State.updTask; split <;> rfl
@[simp] theorem State.updTask_repaired (s : State) (n : Nat) (f : Task → Task) : (s.updTask n f).repaired = s.repaired := by
  unfold State.updTask; split <;> rfl
@[simp] theorem State.updTask_mem (s : State) (n : Nat) (f : Task → Task) : (s.updTask n f).mem = s.mem := by
  unfold State.updTask; split <;> rfl
@[simp] theorem State.updTask_lineInfo (s : State) (n : Nat) (f : Task → Task) : (s.updTask n f).lineInfo = s.lineInfo := by
  unfold State.updTask; split <;> rfl
@[simp] theorem State.updTask_attrs (s : State) (n : Nat) (f : Task → Task) : (s.updTask n f).attrs = s.attrs := by
  unfold State.updTask; split <;> rfl
@[simp] theorem State.updTask_l2 (s : State) (n : Nat) (f : Task → Task) : (s.updTask n f).l2 = s.l2 := by
  unfold State.updTask; split <;> rfl
@[simp] theorem State.updTask_wayMask (s : State) (n : Nat) (f : Task → Task) : (s.updTask n f).wayMask = s.wayMask := by
  unfold State.updTask; split <;> rfl
@[simp] theorem State.updTask_bxgen (s : State) (n : Nat) (f : Task → Task) : (s.updTask n f).bxgen = s.bxgen := by
  unfold State.updTask; split <;> rfl
@[simp] theorem State.updTask_tablePool (s : State) (n : Nat) (f : Task → Task) : (s.updTask n f).tablePool = s.tablePool := by
  unfold State.updTask; split <;> rfl
@[simp] theorem State.updTask_revivals (s : State) (n : Nat) (f : Task → Task) : (s.updTask n f).revivals = s.revivals := by
  unfold State.updTask; split <;> rfl
@[simp] theorem State.updTask_cores (s : State) (n : Nat) (f : Task → Task) : (s.updTask n f).cores = s.cores := by
  unfold State.updTask; split <;> rfl
@[simp] theorem State.updTask_wgs (s : State) (n : Nat) (f : Task → Task) : (s.updTask n f).wgs = s.wgs := by
  unfold State.updTask; split <;> rfl
@[simp] theorem State.updTask_trains (s : State) (n : Nat) (f : Task → Task) : (s.updTask n f).trains = s.trains := by
  unfold State.updTask; split <;> rfl
@[simp] theorem State.updTask_strQ (s : State) (n : Nat) (f : Task → Task) : (s.updTask n f).strQ = s.strQ := by
  unfold State.updTask; split <;> rfl
@[simp] theorem State.updTask_seqQ (s : State) (n : Nat) (f : Task → Task) : (s.updTask n f).seqQ = s.seqQ := by
  unfold State.updTask; split <;> rfl
@[simp] theorem State.updTask_regions (s : State) (n : Nat) (f : Task → Task) : (s.updTask n f).regions = s.regions := by
  unfold State.updTask; split <;> rfl
@[simp] theorem State.updTask_roots (s : State) (n : Nat) (f : Task → Task) : (s.updTask n f).roots = s.roots := by
  unfold State.updTask; split <;> rfl
@[simp] theorem State.updTask_subNext (s : State) (n : Nat) (f : Task → Task) : (s.updTask n f).subNext = s.subNext := by
  unfold State.updTask; split <;> rfl
@[simp] theorem State.updTask_posts (s : State) (n : Nat) (f : Task → Task) : (s.updTask n f).posts = s.posts := by
  unfold State.updTask; split <;> rfl
@[simp] theorem State.updTask_doms (s : State) (n : Nat) (f : Task → Task) : (s.updTask n f).doms = s.doms := by
  unfold State.updTask; split <;> rfl
@[simp] theorem State.updTask_defer (s : State) (n : Nat) (f : Task → Task) : (s.updTask n f).defer = s.defer := by
  unfold State.updTask; split <;> rfl
@[simp] theorem State.updTask_resp (s : State) (n : Nat) (f : Task → Task) : (s.updTask n f).resp = s.resp := by
  unfold State.updTask; split <;> rfl
@[simp] theorem State.updTask_troot (s : State) (n : Nat) (f : Task → Task) : (s.updTask n f).troot = s.troot := by
  unfold State.updTask; split <;> rfl
@[simp] theorem State.updTask_parts (s : State) (n : Nat) (f : Task → Task) : (s.updTask n f).parts = s.parts := by
  unfold State.updTask; split <;> rfl
@[simp] theorem State.updTask_tenpol (s : State) (n : Nat) (f : Task → Task) : (s.updTask n f).tenpol = s.tenpol := by
  unfold State.updTask; split <;> rfl
@[simp] theorem State.updTask_hdesc (s : State) (n : Nat) (f : Task → Task) : (s.updTask n f).hdesc = s.hdesc := by
  unfold State.updTask; split <;> rfl
@[simp] theorem State.updTask_buckets (s : State) (n : Nat) (f : Task → Task) : (s.updTask n f).buckets = s.buckets := by
  unfold State.updTask; split <;> rfl
@[simp] theorem State.updTask_paired (s : State) (n : Nat) (f : Task → Task) : (s.updTask n f).paired = s.paired := by
  unfold State.updTask; split <;> rfl
@[simp] theorem State.updTask_faulty (s : State) (n : Nat) (f : Task → Task) : (s.updTask n f).faulty = s.faulty := by
  unfold State.updTask; split <;> rfl
@[simp] theorem State.updTask_redOwner (s : State) (n : Nat) (f : Task → Task) : (s.updTask n f).redOwner = s.redOwner := by
  unfold State.updTask; split <;> rfl
@[simp] theorem State.updTask_eth (s : State) (n : Nat) (f : Task → Task) : (s.updTask n f).eth = s.eth := by
  unfold State.updTask; split <;> rfl
@[simp] theorem State.updTask_links (s : State) (n : Nat) (f : Task → Task) : (s.updTask n f).links = s.links := by
  unfold State.updTask; split <;> rfl
@[simp] theorem State.updTask_dead (s : State) (n : Nat) (f : Task → Task) : (s.updTask n f).dead = s.dead := by
  unfold State.updTask; split <;> rfl
@[simp] theorem State.updTask_unreach (s : State) (n : Nat) (f : Task → Task) : (s.updTask n f).unreach = s.unreach := by
  unfold State.updTask; split <;> rfl
@[simp] theorem State.updTask_reports (s : State) (n : Nat) (f : Task → Task) : (s.updTask n f).reports = s.reports := by
  unfold State.updTask; split <;> rfl
@[simp] theorem State.updTask_colls (s : State) (n : Nat) (f : Task → Task) : (s.updTask n f).colls = s.colls := by
  unfold State.updTask; split <;> rfl
@[simp] theorem State.updTask_classif (s : State) (n : Nat) (f : Task → Task) : (s.updTask n f).classif = s.classif := by
  unfold State.updTask; split <;> rfl
@[simp] theorem State.updTask_cmps (s : State) (n : Nat) (f : Task → Task) : (s.updTask n f).cmps = s.cmps := by
  unfold State.updTask; split <;> rfl

@[simp] theorem Train.setV_trn (tr : Train) (j r : Nat) (x : W32) : (tr.setV j r x).trn = tr.trn := rfl
@[simp] theorem Train.setV_launched (tr : Train) (j r : Nat) (x : W32) : (tr.setV j r x).launched = tr.launched := rfl
@[simp] theorem Train.setV_k (tr : Train) (j r : Nat) (x : W32) : (tr.setV j r x).k = tr.k := rfl
@[simp] theorem Train.setV_p (tr : Train) (j r : Nat) (x : W32) : (tr.setV j r x).p = tr.p := rfl
@[simp] theorem Train.setV_splits (tr : Train) (j r : Nat) (x : W32) : (tr.setV j r x).splits = tr.splits := rfl
@[simp] theorem Train.setV_outst (tr : Train) (j r : Nat) (x : W32) : (tr.setV j r x).outst = tr.outst := rfl
@[simp] theorem Train.setV_sb (tr : Train) (j r : Nat) (x : W32) : (tr.setV j r x).sb = tr.sb := rfl
@[simp] theorem Train.setV_used (tr : Train) (j r : Nat) (x : W32) : (tr.setV j r x).used = tr.used := rfl
@[simp] theorem Train.setV_markers (tr : Train) (j r : Nat) (x : W32) : (tr.setV j r x).markers = tr.markers := rfl
@[simp] theorem Train.setV_gg (tr : Train) (j r : Nat) (x : W32) : (tr.setV j r x).gg = tr.gg := rfl
@[simp] theorem Train.setV_demoted (tr : Train) (j r : Nat) (x : W32) : (tr.setV j r x).demoted = tr.demoted := rfl
@[simp] theorem Train.setV_hmode (tr : Train) (j r : Nat) (x : W32) : (tr.setV j r x).hmode = tr.hmode := rfl
@[simp] theorem Train.setV_tvec (tr : Train) (j r : Nat) (x : W32) : (tr.setV j r x).tvec = tr.tvec := rfl
@[simp] theorem Train.setV_tcause (tr : Train) (j r : Nat) (x : W32) : (tr.setV j r x).tcause = tr.tcause := rfl
@[simp] theorem Train.setV_trap (tr : Train) (j r : Nat) (x : W32) : (tr.setV j r x).trap = tr.trap := rfl
@[simp] theorem Train.setV_pend (tr : Train) (j r : Nat) (x : W32) : (tr.setV j r x).pend = tr.pend := rfl
@[simp] theorem Train.setV_hsplit (tr : Train) (j r : Nat) (x : W32) : (tr.setV j r x).hsplit = tr.hsplit := rfl
@[simp] theorem Train.setV_rdone (tr : Train) (j r : Nat) (x : W32) : (tr.setV j r x).rdone = tr.rdone := rfl
@[simp] theorem Train.setV_privb (tr : Train) (j r : Nat) (x : W32) : (tr.setV j r x).privb = tr.privb := rfl
@[simp] theorem Train.setV_pb (tr : Train) (j r : Nat) (x : W32) : (tr.setV j r x).pb = tr.pb := rfl
@[simp] theorem Train.setV_seen (tr : Train) (j r : Nat) (x : W32) : (tr.setV j r x).seen = tr.seen := rfl
@[simp] theorem Train.setV_dig (tr : Train) (j r : Nat) (x : W32) : (tr.setV j r x).dig = tr.dig := rfl
@[simp] theorem Train.setV_ed (tr : Train) (j r : Nat) (x : W32) : (tr.setV j r x).ed = tr.ed := rfl
@[simp] theorem Train.setV_edq (tr : Train) (j r : Nat) (x : W32) : (tr.setV j r x).edq = tr.edq := rfl
@[simp] theorem Train.setV_dq (tr : Train) (j r : Nat) (x : W32) : (tr.setV j r x).dq = tr.dq := rfl
@[simp] theorem Train.setV_fadds (tr : Train) (j r : Nat) (x : W32) : (tr.setV j r x).fadds = tr.fadds := rfl
@[simp] theorem Train.setV_issues (tr : Train) (j r : Nat) (x : W32) : (tr.setV j r x).issues = tr.issues := rfl
@[simp] theorem Train.setV_hcount (tr : Train) (j r : Nat) (x : W32) : (tr.setV j r x).hcount = tr.hcount := rfl
@[simp] theorem Train.setV_nextId (tr : Train) (j r : Nat) (x : W32) : (tr.setV j r x).nextId = tr.nextId := rfl
@[simp] theorem Train.setV_cmp (tr : Train) (j r : Nat) (x : W32) : (tr.setV j r x).cmp = tr.cmp := rfl
@[simp] theorem Train.setV_ended (tr : Train) (j r : Nat) (x : W32) : (tr.setV j r x).ended = tr.ended := rfl

@[simp] theorem Train.setK_trn (tr : Train) (r : Nat) (x : W64) : (tr.setK r x).trn = tr.trn := rfl
@[simp] theorem Train.setK_launched (tr : Train) (r : Nat) (x : W64) : (tr.setK r x).launched = tr.launched := rfl
@[simp] theorem Train.setK_v (tr : Train) (r : Nat) (x : W64) : (tr.setK r x).v = tr.v := rfl
@[simp] theorem Train.setK_p (tr : Train) (r : Nat) (x : W64) : (tr.setK r x).p = tr.p := rfl
@[simp] theorem Train.setK_splits (tr : Train) (r : Nat) (x : W64) : (tr.setK r x).splits = tr.splits := rfl
@[simp] theorem Train.setK_outst (tr : Train) (r : Nat) (x : W64) : (tr.setK r x).outst = tr.outst := rfl
@[simp] theorem Train.setK_sb (tr : Train) (r : Nat) (x : W64) : (tr.setK r x).sb = tr.sb := rfl
@[simp] theorem Train.setK_used (tr : Train) (r : Nat) (x : W64) : (tr.setK r x).used = tr.used := rfl
@[simp] theorem Train.setK_markers (tr : Train) (r : Nat) (x : W64) : (tr.setK r x).markers = tr.markers := rfl
@[simp] theorem Train.setK_gg (tr : Train) (r : Nat) (x : W64) : (tr.setK r x).gg = tr.gg := rfl
@[simp] theorem Train.setK_demoted (tr : Train) (r : Nat) (x : W64) : (tr.setK r x).demoted = tr.demoted := rfl
@[simp] theorem Train.setK_hmode (tr : Train) (r : Nat) (x : W64) : (tr.setK r x).hmode = tr.hmode := rfl
@[simp] theorem Train.setK_tvec (tr : Train) (r : Nat) (x : W64) : (tr.setK r x).tvec = tr.tvec := rfl
@[simp] theorem Train.setK_tcause (tr : Train) (r : Nat) (x : W64) : (tr.setK r x).tcause = tr.tcause := rfl
@[simp] theorem Train.setK_trap (tr : Train) (r : Nat) (x : W64) : (tr.setK r x).trap = tr.trap := rfl
@[simp] theorem Train.setK_pend (tr : Train) (r : Nat) (x : W64) : (tr.setK r x).pend = tr.pend := rfl
@[simp] theorem Train.setK_hsplit (tr : Train) (r : Nat) (x : W64) : (tr.setK r x).hsplit = tr.hsplit := rfl
@[simp] theorem Train.setK_rdone (tr : Train) (r : Nat) (x : W64) : (tr.setK r x).rdone = tr.rdone := rfl
@[simp] theorem Train.setK_privb (tr : Train) (r : Nat) (x : W64) : (tr.setK r x).privb = tr.privb := rfl
@[simp] theorem Train.setK_pb (tr : Train) (r : Nat) (x : W64) : (tr.setK r x).pb = tr.pb := rfl
@[simp] theorem Train.setK_seen (tr : Train) (r : Nat) (x : W64) : (tr.setK r x).seen = tr.seen := rfl
@[simp] theorem Train.setK_dig (tr : Train) (r : Nat) (x : W64) : (tr.setK r x).dig = tr.dig := rfl
@[simp] theorem Train.setK_ed (tr : Train) (r : Nat) (x : W64) : (tr.setK r x).ed = tr.ed := rfl
@[simp] theorem Train.setK_edq (tr : Train) (r : Nat) (x : W64) : (tr.setK r x).edq = tr.edq := rfl
@[simp] theorem Train.setK_dq (tr : Train) (r : Nat) (x : W64) : (tr.setK r x).dq = tr.dq := rfl
@[simp] theorem Train.setK_fadds (tr : Train) (r : Nat) (x : W64) : (tr.setK r x).fadds = tr.fadds := rfl
@[simp] theorem Train.setK_issues (tr : Train) (r : Nat) (x : W64) : (tr.setK r x).issues = tr.issues := rfl
@[simp] theorem Train.setK_hcount (tr : Train) (r : Nat) (x : W64) : (tr.setK r x).hcount = tr.hcount := rfl
@[simp] theorem Train.setK_nextId (tr : Train) (r : Nat) (x : W64) : (tr.setK r x).nextId = tr.nextId := rfl
@[simp] theorem Train.setK_cmp (tr : Train) (r : Nat) (x : W64) : (tr.setK r x).cmp = tr.cmp := rfl
@[simp] theorem Train.setK_ended (tr : Train) (r : Nat) (x : W64) : (tr.setK r x).ended = tr.ended := rfl

@[simp] theorem Train.updSplit_trn (tr : Train) (p : Nat) (f : Split → Split) : (tr.updSplit p f).trn = tr.trn := rfl
@[simp] theorem Train.updSplit_launched (tr : Train) (p : Nat) (f : Split → Split) : (tr.updSplit p f).launched = tr.launched := rfl
@[simp] theorem Train.updSplit_k (tr : Train) (p : Nat) (f : Split → Split) : (tr.updSplit p f).k = tr.k := rfl
@[simp] theorem Train.updSplit_v (tr : Train) (p : Nat) (f : Split → Split) : (tr.updSplit p f).v = tr.v := rfl
@[simp] theorem Train.updSplit_p (tr : Train) (p : Nat) (f : Split → Split) : (tr.updSplit p f).p = tr.p := rfl
@[simp] theorem Train.updSplit_outst (tr : Train) (p : Nat) (f : Split → Split) : (tr.updSplit p f).outst = tr.outst := rfl
@[simp] theorem Train.updSplit_sb (tr : Train) (p : Nat) (f : Split → Split) : (tr.updSplit p f).sb = tr.sb := rfl
@[simp] theorem Train.updSplit_used (tr : Train) (p : Nat) (f : Split → Split) : (tr.updSplit p f).used = tr.used := rfl
@[simp] theorem Train.updSplit_markers (tr : Train) (p : Nat) (f : Split → Split) : (tr.updSplit p f).markers = tr.markers := rfl
@[simp] theorem Train.updSplit_gg (tr : Train) (p : Nat) (f : Split → Split) : (tr.updSplit p f).gg = tr.gg := rfl
@[simp] theorem Train.updSplit_demoted (tr : Train) (p : Nat) (f : Split → Split) : (tr.updSplit p f).demoted = tr.demoted := rfl
@[simp] theorem Train.updSplit_hmode (tr : Train) (p : Nat) (f : Split → Split) : (tr.updSplit p f).hmode = tr.hmode := rfl
@[simp] theorem Train.updSplit_tvec (tr : Train) (p : Nat) (f : Split → Split) : (tr.updSplit p f).tvec = tr.tvec := rfl
@[simp] theorem Train.updSplit_tcause (tr : Train) (p : Nat) (f : Split → Split) : (tr.updSplit p f).tcause = tr.tcause := rfl
@[simp] theorem Train.updSplit_trap (tr : Train) (p : Nat) (f : Split → Split) : (tr.updSplit p f).trap = tr.trap := rfl
@[simp] theorem Train.updSplit_pend (tr : Train) (p : Nat) (f : Split → Split) : (tr.updSplit p f).pend = tr.pend := rfl
@[simp] theorem Train.updSplit_hsplit (tr : Train) (p : Nat) (f : Split → Split) : (tr.updSplit p f).hsplit = tr.hsplit := rfl
@[simp] theorem Train.updSplit_rdone (tr : Train) (p : Nat) (f : Split → Split) : (tr.updSplit p f).rdone = tr.rdone := rfl
@[simp] theorem Train.updSplit_privb (tr : Train) (p : Nat) (f : Split → Split) : (tr.updSplit p f).privb = tr.privb := rfl
@[simp] theorem Train.updSplit_pb (tr : Train) (p : Nat) (f : Split → Split) : (tr.updSplit p f).pb = tr.pb := rfl
@[simp] theorem Train.updSplit_seen (tr : Train) (p : Nat) (f : Split → Split) : (tr.updSplit p f).seen = tr.seen := rfl
@[simp] theorem Train.updSplit_dig (tr : Train) (p : Nat) (f : Split → Split) : (tr.updSplit p f).dig = tr.dig := rfl
@[simp] theorem Train.updSplit_ed (tr : Train) (p : Nat) (f : Split → Split) : (tr.updSplit p f).ed = tr.ed := rfl
@[simp] theorem Train.updSplit_edq (tr : Train) (p : Nat) (f : Split → Split) : (tr.updSplit p f).edq = tr.edq := rfl
@[simp] theorem Train.updSplit_dq (tr : Train) (p : Nat) (f : Split → Split) : (tr.updSplit p f).dq = tr.dq := rfl
@[simp] theorem Train.updSplit_fadds (tr : Train) (p : Nat) (f : Split → Split) : (tr.updSplit p f).fadds = tr.fadds := rfl
@[simp] theorem Train.updSplit_issues (tr : Train) (p : Nat) (f : Split → Split) : (tr.updSplit p f).issues = tr.issues := rfl
@[simp] theorem Train.updSplit_hcount (tr : Train) (p : Nat) (f : Split → Split) : (tr.updSplit p f).hcount = tr.hcount := rfl
@[simp] theorem Train.updSplit_nextId (tr : Train) (p : Nat) (f : Split → Split) : (tr.updSplit p f).nextId = tr.nextId := rfl
@[simp] theorem Train.updSplit_cmp (tr : Train) (p : Nat) (f : Split → Split) : (tr.updSplit p f).cmp = tr.cmp := rfl
@[simp] theorem Train.updSplit_ended (tr : Train) (p : Nat) (f : Split → Split) : (tr.updSplit p f).ended = tr.ended := rfl

@[simp] theorem Train.closeWindows_trn (tr : Train) (p n : Nat) : (tr.closeWindows p n).trn = tr.trn := rfl
@[simp] theorem Train.closeWindows_launched (tr : Train) (p n : Nat) : (tr.closeWindows p n).launched = tr.launched := rfl
@[simp] theorem Train.closeWindows_k (tr : Train) (p n : Nat) : (tr.closeWindows p n).k = tr.k := rfl
@[simp] theorem Train.closeWindows_v (tr : Train) (p n : Nat) : (tr.closeWindows p n).v = tr.v := rfl
@[simp] theorem Train.closeWindows_p (tr : Train) (p n : Nat) : (tr.closeWindows p n).p = tr.p := rfl
@[simp] theorem Train.closeWindows_splits (tr : Train) (p n : Nat) : (tr.closeWindows p n).splits = tr.splits := rfl
@[simp] theorem Train.closeWindows_sb (tr : Train) (p n : Nat) : (tr.closeWindows p n).sb = tr.sb := rfl
@[simp] theorem Train.closeWindows_used (tr : Train) (p n : Nat) : (tr.closeWindows p n).used = tr.used := rfl
@[simp] theorem Train.closeWindows_markers (tr : Train) (p n : Nat) : (tr.closeWindows p n).markers = tr.markers := rfl
@[simp] theorem Train.closeWindows_gg (tr : Train) (p n : Nat) : (tr.closeWindows p n).gg = tr.gg := rfl
@[simp] theorem Train.closeWindows_demoted (tr : Train) (p n : Nat) : (tr.closeWindows p n).demoted = tr.demoted := rfl
@[simp] theorem Train.closeWindows_hmode (tr : Train) (p n : Nat) : (tr.closeWindows p n).hmode = tr.hmode := rfl
@[simp] theorem Train.closeWindows_tvec (tr : Train) (p n : Nat) : (tr.closeWindows p n).tvec = tr.tvec := rfl
@[simp] theorem Train.closeWindows_tcause (tr : Train) (p n : Nat) : (tr.closeWindows p n).tcause = tr.tcause := rfl
@[simp] theorem Train.closeWindows_trap (tr : Train) (p n : Nat) : (tr.closeWindows p n).trap = tr.trap := rfl
@[simp] theorem Train.closeWindows_pend (tr : Train) (p n : Nat) : (tr.closeWindows p n).pend = tr.pend := rfl
@[simp] theorem Train.closeWindows_hsplit (tr : Train) (p n : Nat) : (tr.closeWindows p n).hsplit = tr.hsplit := rfl
@[simp] theorem Train.closeWindows_rdone (tr : Train) (p n : Nat) : (tr.closeWindows p n).rdone = tr.rdone := rfl
@[simp] theorem Train.closeWindows_privb (tr : Train) (p n : Nat) : (tr.closeWindows p n).privb = tr.privb := rfl
@[simp] theorem Train.closeWindows_pb (tr : Train) (p n : Nat) : (tr.closeWindows p n).pb = tr.pb := rfl
@[simp] theorem Train.closeWindows_seen (tr : Train) (p n : Nat) : (tr.closeWindows p n).seen = tr.seen := rfl
@[simp] theorem Train.closeWindows_dig (tr : Train) (p n : Nat) : (tr.closeWindows p n).dig = tr.dig := rfl
@[simp] theorem Train.closeWindows_ed (tr : Train) (p n : Nat) : (tr.closeWindows p n).ed = tr.ed := rfl
@[simp] theorem Train.closeWindows_edq (tr : Train) (p n : Nat) : (tr.closeWindows p n).edq = tr.edq := rfl
@[simp] theorem Train.closeWindows_dq (tr : Train) (p n : Nat) : (tr.closeWindows p n).dq = tr.dq := rfl
@[simp] theorem Train.closeWindows_fadds (tr : Train) (p n : Nat) : (tr.closeWindows p n).fadds = tr.fadds := rfl
@[simp] theorem Train.closeWindows_issues (tr : Train) (p n : Nat) : (tr.closeWindows p n).issues = tr.issues := rfl
@[simp] theorem Train.closeWindows_hcount (tr : Train) (p n : Nat) : (tr.closeWindows p n).hcount = tr.hcount := rfl
@[simp] theorem Train.closeWindows_nextId (tr : Train) (p n : Nat) : (tr.closeWindows p n).nextId = tr.nextId := rfl
@[simp] theorem Train.closeWindows_cmp (tr : Train) (p n : Nat) : (tr.closeWindows p n).cmp = tr.cmp := rfl
@[simp] theorem Train.closeWindows_ended (tr : Train) (p n : Nat) : (tr.closeWindows p n).ended = tr.ended := rfl

@[simp] theorem Train.updOutst_trn (tr : Train) (o : Nat) (f : Outst → Outst) : (tr.updOutst o f).trn = tr.trn := rfl
@[simp] theorem Train.updOutst_launched (tr : Train) (o : Nat) (f : Outst → Outst) : (tr.updOutst o f).launched = tr.launched := rfl
@[simp] theorem Train.updOutst_k (tr : Train) (o : Nat) (f : Outst → Outst) : (tr.updOutst o f).k = tr.k := rfl
@[simp] theorem Train.updOutst_v (tr : Train) (o : Nat) (f : Outst → Outst) : (tr.updOutst o f).v = tr.v := rfl
@[simp] theorem Train.updOutst_p (tr : Train) (o : Nat) (f : Outst → Outst) : (tr.updOutst o f).p = tr.p := rfl
@[simp] theorem Train.updOutst_splits (tr : Train) (o : Nat) (f : Outst → Outst) : (tr.updOutst o f).splits = tr.splits := rfl
@[simp] theorem Train.updOutst_sb (tr : Train) (o : Nat) (f : Outst → Outst) : (tr.updOutst o f).sb = tr.sb := rfl
@[simp] theorem Train.updOutst_used (tr : Train) (o : Nat) (f : Outst → Outst) : (tr.updOutst o f).used = tr.used := rfl
@[simp] theorem Train.updOutst_markers (tr : Train) (o : Nat) (f : Outst → Outst) : (tr.updOutst o f).markers = tr.markers := rfl
@[simp] theorem Train.updOutst_gg (tr : Train) (o : Nat) (f : Outst → Outst) : (tr.updOutst o f).gg = tr.gg := rfl
@[simp] theorem Train.updOutst_demoted (tr : Train) (o : Nat) (f : Outst → Outst) : (tr.updOutst o f).demoted = tr.demoted := rfl
@[simp] theorem Train.updOutst_hmode (tr : Train) (o : Nat) (f : Outst → Outst) : (tr.updOutst o f).hmode = tr.hmode := rfl
@[simp] theorem Train.updOutst_tvec (tr : Train) (o : Nat) (f : Outst → Outst) : (tr.updOutst o f).tvec = tr.tvec := rfl
@[simp] theorem Train.updOutst_tcause (tr : Train) (o : Nat) (f : Outst → Outst) : (tr.updOutst o f).tcause = tr.tcause := rfl
@[simp] theorem Train.updOutst_trap (tr : Train) (o : Nat) (f : Outst → Outst) : (tr.updOutst o f).trap = tr.trap := rfl
@[simp] theorem Train.updOutst_pend (tr : Train) (o : Nat) (f : Outst → Outst) : (tr.updOutst o f).pend = tr.pend := rfl
@[simp] theorem Train.updOutst_hsplit (tr : Train) (o : Nat) (f : Outst → Outst) : (tr.updOutst o f).hsplit = tr.hsplit := rfl
@[simp] theorem Train.updOutst_rdone (tr : Train) (o : Nat) (f : Outst → Outst) : (tr.updOutst o f).rdone = tr.rdone := rfl
@[simp] theorem Train.updOutst_privb (tr : Train) (o : Nat) (f : Outst → Outst) : (tr.updOutst o f).privb = tr.privb := rfl
@[simp] theorem Train.updOutst_pb (tr : Train) (o : Nat) (f : Outst → Outst) : (tr.updOutst o f).pb = tr.pb := rfl
@[simp] theorem Train.updOutst_seen (tr : Train) (o : Nat) (f : Outst → Outst) : (tr.updOutst o f).seen = tr.seen := rfl
@[simp] theorem Train.updOutst_dig (tr : Train) (o : Nat) (f : Outst → Outst) : (tr.updOutst o f).dig = tr.dig := rfl
@[simp] theorem Train.updOutst_ed (tr : Train) (o : Nat) (f : Outst → Outst) : (tr.updOutst o f).ed = tr.ed := rfl
@[simp] theorem Train.updOutst_edq (tr : Train) (o : Nat) (f : Outst → Outst) : (tr.updOutst o f).edq = tr.edq := rfl
@[simp] theorem Train.updOutst_dq (tr : Train) (o : Nat) (f : Outst → Outst) : (tr.updOutst o f).dq = tr.dq := rfl
@[simp] theorem Train.updOutst_fadds (tr : Train) (o : Nat) (f : Outst → Outst) : (tr.updOutst o f).fadds = tr.fadds := rfl
@[simp] theorem Train.updOutst_issues (tr : Train) (o : Nat) (f : Outst → Outst) : (tr.updOutst o f).issues = tr.issues := rfl
@[simp] theorem Train.updOutst_hcount (tr : Train) (o : Nat) (f : Outst → Outst) : (tr.updOutst o f).hcount = tr.hcount := rfl
@[simp] theorem Train.updOutst_nextId (tr : Train) (o : Nat) (f : Outst → Outst) : (tr.updOutst o f).nextId = tr.nextId := rfl
@[simp] theorem Train.updOutst_cmp (tr : Train) (o : Nat) (f : Outst → Outst) : (tr.updOutst o f).cmp = tr.cmp := rfl
@[simp] theorem Train.updOutst_ended (tr : Train) (o : Nat) (f : Outst → Outst) : (tr.updOutst o f).ended = tr.ended := rfl

@[simp] theorem Train.wake_trn (tr : Train) : (tr.wake).trn = tr.trn := rfl
@[simp] theorem Train.wake_launched (tr : Train) : (tr.wake).launched = tr.launched := rfl
@[simp] theorem Train.wake_k (tr : Train) : (tr.wake).k = tr.k := rfl
@[simp] theorem Train.wake_v (tr : Train) : (tr.wake).v = tr.v := rfl
@[simp] theorem Train.wake_p (tr : Train) : (tr.wake).p = tr.p := rfl
@[simp] theorem Train.wake_outst (tr : Train) : (tr.wake).outst = tr.outst := rfl
@[simp] theorem Train.wake_sb (tr : Train) : (tr.wake).sb = tr.sb := rfl
@[simp] theorem Train.wake_used (tr : Train) : (tr.wake).used = tr.used := rfl
@[simp] theorem Train.wake_markers (tr : Train) : (tr.wake).markers = tr.markers := rfl
@[simp] theorem Train.wake_gg (tr : Train) : (tr.wake).gg = tr.gg := rfl
@[simp] theorem Train.wake_demoted (tr : Train) : (tr.wake).demoted = tr.demoted := rfl
@[simp] theorem Train.wake_hmode (tr : Train) : (tr.wake).hmode = tr.hmode := rfl
@[simp] theorem Train.wake_tvec (tr : Train) : (tr.wake).tvec = tr.tvec := rfl
@[simp] theorem Train.wake_tcause (tr : Train) : (tr.wake).tcause = tr.tcause := rfl
@[simp] theorem Train.wake_trap (tr : Train) : (tr.wake).trap = tr.trap := rfl
@[simp] theorem Train.wake_pend (tr : Train) : (tr.wake).pend = tr.pend := rfl
@[simp] theorem Train.wake_hsplit (tr : Train) : (tr.wake).hsplit = tr.hsplit := rfl
@[simp] theorem Train.wake_rdone (tr : Train) : (tr.wake).rdone = tr.rdone := rfl
@[simp] theorem Train.wake_privb (tr : Train) : (tr.wake).privb = tr.privb := rfl
@[simp] theorem Train.wake_pb (tr : Train) : (tr.wake).pb = tr.pb := rfl
@[simp] theorem Train.wake_seen (tr : Train) : (tr.wake).seen = tr.seen := rfl
@[simp] theorem Train.wake_dig (tr : Train) : (tr.wake).dig = tr.dig := rfl
@[simp] theorem Train.wake_ed (tr : Train) : (tr.wake).ed = tr.ed := rfl
@[simp] theorem Train.wake_edq (tr : Train) : (tr.wake).edq = tr.edq := rfl
@[simp] theorem Train.wake_dq (tr : Train) : (tr.wake).dq = tr.dq := rfl
@[simp] theorem Train.wake_fadds (tr : Train) : (tr.wake).fadds = tr.fadds := rfl
@[simp] theorem Train.wake_issues (tr : Train) : (tr.wake).issues = tr.issues := rfl
@[simp] theorem Train.wake_hcount (tr : Train) : (tr.wake).hcount = tr.hcount := rfl
@[simp] theorem Train.wake_nextId (tr : Train) : (tr.wake).nextId = tr.nextId := rfl
@[simp] theorem Train.wake_cmp (tr : Train) : (tr.wake).cmp = tr.cmp := rfl
@[simp] theorem Train.wake_ended (tr : Train) : (tr.wake).ended = tr.ended := rfl

@[simp] theorem Train.setP_trn (tr : Train) (r : Nat) (m x : Mask) : (tr.setP r m x).trn = tr.trn := by
  unfold Train.setP; split <;> rfl
@[simp] theorem Train.setP_launched (tr : Train) (r : Nat) (m x : Mask) : (tr.setP r m x).launched = tr.launched := by
  unfold Train.setP; split <;> rfl
@[simp] theorem Train.setP_k (tr : Train) (r : Nat) (m x : Mask) : (tr.setP r m x).k = tr.k := by
  unfold Train.setP; split <;> rfl
@[simp] theorem Train.setP_v (tr : Train) (r : Nat) (m x : Mask) : (tr.setP r m x).v = tr.v := by
  unfold Train.setP; split <;> rfl
@[simp] theorem Train.setP_splits (tr : Train) (r : Nat) (m x : Mask) : (tr.setP r m x).splits = tr.splits := by
  unfold Train.setP; split <;> rfl
@[simp] theorem Train.setP_outst (tr : Train) (r : Nat) (m x : Mask) : (tr.setP r m x).outst = tr.outst := by
  unfold Train.setP; split <;> rfl
@[simp] theorem Train.setP_sb (tr : Train) (r : Nat) (m x : Mask) : (tr.setP r m x).sb = tr.sb := by
  unfold Train.setP; split <;> rfl
@[simp] theorem Train.setP_used (tr : Train) (r : Nat) (m x : Mask) : (tr.setP r m x).used = tr.used := by
  unfold Train.setP; split <;> rfl
@[simp] theorem Train.setP_markers (tr : Train) (r : Nat) (m x : Mask) : (tr.setP r m x).markers = tr.markers := by
  unfold Train.setP; split <;> rfl
@[simp] theorem Train.setP_gg (tr : Train) (r : Nat) (m x : Mask) : (tr.setP r m x).gg = tr.gg := by
  unfold Train.setP; split <;> rfl
@[simp] theorem Train.setP_demoted (tr : Train) (r : Nat) (m x : Mask) : (tr.setP r m x).demoted = tr.demoted := by
  unfold Train.setP; split <;> rfl
@[simp] theorem Train.setP_hmode (tr : Train) (r : Nat) (m x : Mask) : (tr.setP r m x).hmode = tr.hmode := by
  unfold Train.setP; split <;> rfl
@[simp] theorem Train.setP_tvec (tr : Train) (r : Nat) (m x : Mask) : (tr.setP r m x).tvec = tr.tvec := by
  unfold Train.setP; split <;> rfl
@[simp] theorem Train.setP_tcause (tr : Train) (r : Nat) (m x : Mask) : (tr.setP r m x).tcause = tr.tcause := by
  unfold Train.setP; split <;> rfl
@[simp] theorem Train.setP_trap (tr : Train) (r : Nat) (m x : Mask) : (tr.setP r m x).trap = tr.trap := by
  unfold Train.setP; split <;> rfl
@[simp] theorem Train.setP_pend (tr : Train) (r : Nat) (m x : Mask) : (tr.setP r m x).pend = tr.pend := by
  unfold Train.setP; split <;> rfl
@[simp] theorem Train.setP_hsplit (tr : Train) (r : Nat) (m x : Mask) : (tr.setP r m x).hsplit = tr.hsplit := by
  unfold Train.setP; split <;> rfl
@[simp] theorem Train.setP_rdone (tr : Train) (r : Nat) (m x : Mask) : (tr.setP r m x).rdone = tr.rdone := by
  unfold Train.setP; split <;> rfl
@[simp] theorem Train.setP_privb (tr : Train) (r : Nat) (m x : Mask) : (tr.setP r m x).privb = tr.privb := by
  unfold Train.setP; split <;> rfl
@[simp] theorem Train.setP_pb (tr : Train) (r : Nat) (m x : Mask) : (tr.setP r m x).pb = tr.pb := by
  unfold Train.setP; split <;> rfl
@[simp] theorem Train.setP_seen (tr : Train) (r : Nat) (m x : Mask) : (tr.setP r m x).seen = tr.seen := by
  unfold Train.setP; split <;> rfl
@[simp] theorem Train.setP_dig (tr : Train) (r : Nat) (m x : Mask) : (tr.setP r m x).dig = tr.dig := by
  unfold Train.setP; split <;> rfl
@[simp] theorem Train.setP_ed (tr : Train) (r : Nat) (m x : Mask) : (tr.setP r m x).ed = tr.ed := by
  unfold Train.setP; split <;> rfl
@[simp] theorem Train.setP_edq (tr : Train) (r : Nat) (m x : Mask) : (tr.setP r m x).edq = tr.edq := by
  unfold Train.setP; split <;> rfl
@[simp] theorem Train.setP_dq (tr : Train) (r : Nat) (m x : Mask) : (tr.setP r m x).dq = tr.dq := by
  unfold Train.setP; split <;> rfl
@[simp] theorem Train.setP_fadds (tr : Train) (r : Nat) (m x : Mask) : (tr.setP r m x).fadds = tr.fadds := by
  unfold Train.setP; split <;> rfl
@[simp] theorem Train.setP_issues (tr : Train) (r : Nat) (m x : Mask) : (tr.setP r m x).issues = tr.issues := by
  unfold Train.setP; split <;> rfl
@[simp] theorem Train.setP_hcount (tr : Train) (r : Nat) (m x : Mask) : (tr.setP r m x).hcount = tr.hcount := by
  unfold Train.setP; split <;> rfl
@[simp] theorem Train.setP_nextId (tr : Train) (r : Nat) (m x : Mask) : (tr.setP r m x).nextId = tr.nextId := by
  unfold Train.setP; split <;> rfl
@[simp] theorem Train.setP_cmp (tr : Train) (r : Nat) (m x : Mask) : (tr.setP r m x).cmp = tr.cmp := by
  unfold Train.setP; split <;> rfl
@[simp] theorem Train.setP_ended (tr : Train) (r : Nat) (m x : Mask) : (tr.setP r m x).ended = tr.ended := by
  unfold Train.setP; split <;> rfl

@[simp] theorem Train.writeV_trn (tr : Train) (d : Nat) (f : Nat → W32) : ∀ js : List Nat, (tr.writeV d f js).trn = tr.trn
  | [] => rfl
  | _ :: js => Train.writeV_trn tr d f js
@[simp] theorem Train.writeV_launched (tr : Train) (d : Nat) (f : Nat → W32) : ∀ js : List Nat, (tr.writeV d f js).launched = tr.launched
  | [] => rfl
  | _ :: js => Train.writeV_launched tr d f js
@[simp] theorem Train.writeV_k (tr : Train) (d : Nat) (f : Nat → W32) : ∀ js : List Nat, (tr.writeV d f js).k = tr.k
  | [] => rfl
  | _ :: js => Train.writeV_k tr d f js
@[simp] theorem Train.writeV_p (tr : Train) (d : Nat) (f : Nat → W32) : ∀ js : List Nat, (tr.writeV d f js).p = tr.p
  | [] => rfl
  | _ :: js => Train.writeV_p tr d f js
@[simp] theorem Train.writeV_splits (tr : Train) (d : Nat) (f : Nat → W32) : ∀ js : List Nat, (tr.writeV d f js).splits = tr.splits
  | [] => rfl
  | _ :: js => Train.writeV_splits tr d f js
@[simp] theorem Train.writeV_outst (tr : Train) (d : Nat) (f : Nat → W32) : ∀ js : List Nat, (tr.writeV d f js).outst = tr.outst
  | [] => rfl
  | _ :: js => Train.writeV_outst tr d f js
@[simp] theorem Train.writeV_sb (tr : Train) (d : Nat) (f : Nat → W32) : ∀ js : List Nat, (tr.writeV d f js).sb = tr.sb
  | [] => rfl
  | _ :: js => Train.writeV_sb tr d f js
@[simp] theorem Train.writeV_used (tr : Train) (d : Nat) (f : Nat → W32) : ∀ js : List Nat, (tr.writeV d f js).used = tr.used
  | [] => rfl
  | _ :: js => Train.writeV_used tr d f js
@[simp] theorem Train.writeV_markers (tr : Train) (d : Nat) (f : Nat → W32) : ∀ js : List Nat, (tr.writeV d f js).markers = tr.markers
  | [] => rfl
  | _ :: js => Train.writeV_markers tr d f js
@[simp] theorem Train.writeV_gg (tr : Train) (d : Nat) (f : Nat → W32) : ∀ js : List Nat, (tr.writeV d f js).gg = tr.gg
  | [] => rfl
  | _ :: js => Train.writeV_gg tr d f js
@[simp] theorem Train.writeV_demoted (tr : Train) (d : Nat) (f : Nat → W32) : ∀ js : List Nat, (tr.writeV d f js).demoted = tr.demoted
  | [] => rfl
  | _ :: js => Train.writeV_demoted tr d f js
@[simp] theorem Train.writeV_hmode (tr : Train) (d : Nat) (f : Nat → W32) : ∀ js : List Nat, (tr.writeV d f js).hmode = tr.hmode
  | [] => rfl
  | _ :: js => Train.writeV_hmode tr d f js
@[simp] theorem Train.writeV_tvec (tr : Train) (d : Nat) (f : Nat → W32) : ∀ js : List Nat, (tr.writeV d f js).tvec = tr.tvec
  | [] => rfl
  | _ :: js => Train.writeV_tvec tr d f js
@[simp] theorem Train.writeV_tcause (tr : Train) (d : Nat) (f : Nat → W32) : ∀ js : List Nat, (tr.writeV d f js).tcause = tr.tcause
  | [] => rfl
  | _ :: js => Train.writeV_tcause tr d f js
@[simp] theorem Train.writeV_trap (tr : Train) (d : Nat) (f : Nat → W32) : ∀ js : List Nat, (tr.writeV d f js).trap = tr.trap
  | [] => rfl
  | _ :: js => Train.writeV_trap tr d f js
@[simp] theorem Train.writeV_pend (tr : Train) (d : Nat) (f : Nat → W32) : ∀ js : List Nat, (tr.writeV d f js).pend = tr.pend
  | [] => rfl
  | _ :: js => Train.writeV_pend tr d f js
@[simp] theorem Train.writeV_hsplit (tr : Train) (d : Nat) (f : Nat → W32) : ∀ js : List Nat, (tr.writeV d f js).hsplit = tr.hsplit
  | [] => rfl
  | _ :: js => Train.writeV_hsplit tr d f js
@[simp] theorem Train.writeV_rdone (tr : Train) (d : Nat) (f : Nat → W32) : ∀ js : List Nat, (tr.writeV d f js).rdone = tr.rdone
  | [] => rfl
  | _ :: js => Train.writeV_rdone tr d f js
@[simp] theorem Train.writeV_privb (tr : Train) (d : Nat) (f : Nat → W32) : ∀ js : List Nat, (tr.writeV d f js).privb = tr.privb
  | [] => rfl
  | _ :: js => Train.writeV_privb tr d f js
@[simp] theorem Train.writeV_pb (tr : Train) (d : Nat) (f : Nat → W32) : ∀ js : List Nat, (tr.writeV d f js).pb = tr.pb
  | [] => rfl
  | _ :: js => Train.writeV_pb tr d f js
@[simp] theorem Train.writeV_seen (tr : Train) (d : Nat) (f : Nat → W32) : ∀ js : List Nat, (tr.writeV d f js).seen = tr.seen
  | [] => rfl
  | _ :: js => Train.writeV_seen tr d f js
@[simp] theorem Train.writeV_dig (tr : Train) (d : Nat) (f : Nat → W32) : ∀ js : List Nat, (tr.writeV d f js).dig = tr.dig
  | [] => rfl
  | _ :: js => Train.writeV_dig tr d f js
@[simp] theorem Train.writeV_ed (tr : Train) (d : Nat) (f : Nat → W32) : ∀ js : List Nat, (tr.writeV d f js).ed = tr.ed
  | [] => rfl
  | _ :: js => Train.writeV_ed tr d f js
@[simp] theorem Train.writeV_edq (tr : Train) (d : Nat) (f : Nat → W32) : ∀ js : List Nat, (tr.writeV d f js).edq = tr.edq
  | [] => rfl
  | _ :: js => Train.writeV_edq tr d f js
@[simp] theorem Train.writeV_dq (tr : Train) (d : Nat) (f : Nat → W32) : ∀ js : List Nat, (tr.writeV d f js).dq = tr.dq
  | [] => rfl
  | _ :: js => Train.writeV_dq tr d f js
@[simp] theorem Train.writeV_fadds (tr : Train) (d : Nat) (f : Nat → W32) : ∀ js : List Nat, (tr.writeV d f js).fadds = tr.fadds
  | [] => rfl
  | _ :: js => Train.writeV_fadds tr d f js
@[simp] theorem Train.writeV_issues (tr : Train) (d : Nat) (f : Nat → W32) : ∀ js : List Nat, (tr.writeV d f js).issues = tr.issues
  | [] => rfl
  | _ :: js => Train.writeV_issues tr d f js
@[simp] theorem Train.writeV_hcount (tr : Train) (d : Nat) (f : Nat → W32) : ∀ js : List Nat, (tr.writeV d f js).hcount = tr.hcount
  | [] => rfl
  | _ :: js => Train.writeV_hcount tr d f js
@[simp] theorem Train.writeV_nextId (tr : Train) (d : Nat) (f : Nat → W32) : ∀ js : List Nat, (tr.writeV d f js).nextId = tr.nextId
  | [] => rfl
  | _ :: js => Train.writeV_nextId tr d f js
@[simp] theorem Train.writeV_cmp (tr : Train) (d : Nat) (f : Nat → W32) : ∀ js : List Nat, (tr.writeV d f js).cmp = tr.cmp
  | [] => rfl
  | _ :: js => Train.writeV_cmp tr d f js
@[simp] theorem Train.writeV_ended (tr : Train) (d : Nat) (f : Nat → W32) : ∀ js : List Nat, (tr.writeV d f js).ended = tr.ended
  | [] => rfl
  | _ :: js => Train.writeV_ended tr d f js

end Sys2Proof.Machine
end

