-- ==== Sys2Proof/Laws/Ops.lean ====
section
/-! SUPPORT. What the shared operations of Machine/Ops.lean do: one lemma each, for the issuing split, the advance past an
instruction, the register writes, and the three kinds of computation. -/

namespace Sys2Proof.Machine

/-! ### The issuing split -/

theorem State.ctx?_eq {s : State} {i : Instr} {c : Ctx} (h : s.ctx? i = some c) :
    s.cur = some ⟨c.w, c.t, c.p⟩ ∧ s.wg? c.w = some c.g ∧ s.train? c.w c.t = some c.tr ∧
      c.tr.split? c.p = some c.sp ∧ s.taskOf? c.g = some c.task ∧ c.g.core? = some c.core ∧ c.insn = i ∧
      c.word = s.fetched := by
  unfold State.ctx? at h
  split at h
  · exact absurd h (by simp)
  · rename_i k hk
    split at h
    · rename_i g tr hg ht
      split at h
      · rename_i sp task core hs htk hc
        cases h
        exact ⟨hk, hg, ht, hs, htk, hc, rfl, rfl⟩
      · exact absurd h (by simp)
    · exact absurd h (by simp)

theorem issue_go {i : Instr} {s : State} {c : Ctx} (h : Issues i s c) (body : Ctx → State → State) :
    issue i s body = .next (body c s) := by
  unfold issue; rw [h.here]; simp only [h.free]

theorem Issues.insn {i : Instr} {s : State} {c : Ctx} (h : Issues i s c) : c.insn = i :=
  (State.ctx?_eq h.here).2.2.2.2.2.2.1

theorem Issues.train {i : Instr} {s : State} {c : Ctx} (h : Issues i s c) : s.train? c.w c.t = some c.tr :=
  (State.ctx?_eq h.here).2.2.1

theorem Issues.split {i : Instr} {s : State} {c : Ctx} (h : Issues i s c) : c.tr.split? c.p = some c.sp :=
  (State.ctx?_eq h.here).2.2.2.1

/-! ### Splits of a train -/

theorem find_map {α : Type} (p : α → Bool) (f : α → α) (h : ∀ x, p (f x) = p x) (l : List α) :
    (l.map f).find? p = (l.find? p).map f := by
  induction l with
  | nil => rfl
  | cons a l ih =>
    simp only [List.map_cons, List.find?_cons, h a]
    split <;> simp [ih]

theorem Train.split?_updSplit (tr : Train) (p q : Nat) (f : Split → Split) (h : ∀ x, (f x).id = x.id) :
    (tr.updSplit p f).split? q = if q = p then (tr.split? q).map f else tr.split? q := by
  unfold Train.split? Train.updSplit
  have := find_map (fun x : Split => x.id == q) (fun x => if x.id = p then f x else x)
    (fun x => by by_cases hx : x.id = p <;> simp [hx, h x]) tr.splits
  simp only [this]
  cases hf : List.find? (fun x : Split => x.id == q) tr.splits with
  | none => simp
  | some x =>
    have hx : x.id = q := by simpa using List.find?_some hf
    by_cases hq : q = p
    · simp [hx, hq]
    · simp [hx, hq]

theorem Train.split?_id {tr : Train} {p : Nat} {q : Split} (h : tr.split? p = some q) : q.id = p := by
  simpa using List.find?_some h

theorem Train.split?_wake (tr : Train) (q : Nat) :
    (tr.wake.split? q).map Split.calm = (tr.split? q).map Split.calm := by
  unfold Train.split? Train.wake
  rw [find_map (fun x : Split => x.id == q) _ (fun x => by
    cases x.wait <;> simp <;> split <;> simp)]
  cases List.find? (fun x : Split => x.id == q) tr.splits with
  | none => rfl
  | some x =>
    simp only [Option.map_some, Option.some.injEq]
    split <;> simp [Split.calm]
    split <;> simp

theorem Train.split?_wake_ready (tr : Train) (q : Nat) (x : Split) (h : tr.split? q = some x) (hx : x.wait = .ready) :
    tr.wake.split? q = some x := by
  unfold Train.split? Train.wake at *
  rw [find_map (fun x : Split => x.id == q) _ (fun x => by
    cases x.wait <;> simp <;> split <;> simp), h]
  simp [hx]

theorem Train.calm_wake (tr : Train) : tr.wake.calm = tr.calm := by
  unfold Train.calm Train.wake
  simp only [List.map_map]
  congr 1
  apply List.map_congr_left
  intro q _
  simp only [Function.comp]
  split <;> simp [Split.calm]
  split <;> simp

/-! ### Advancing -/

theorem State.train?_setTrain (s : State) (w t : Nat) (tr : Train) : (s.setTrain w t tr).train? w t = some tr := by
  simp [State.train?, State.setTrain]

theorem State.updTrain_of {s : State} {w t : Nat} {tr : Train} (h : s.train? w t = some tr) (f : Train → Train) :
    s.updTrain w t f = s.setTrain w t (f tr) := by
  unfold State.updTrain; rw [h]

theorem Cells.val_put {α : Type} (m : Cells α) (d : α) (k j : Nat) (x : α) :
    (m.put k x).val d j = if j = k then x else m.val d j := by
  unfold Cells.val; rw [Cells.look_put]; split <;> simp

theorem Cells.put_put {α : Type} (m : Cells α) (k : Nat) (x y : α) : (m.put k x).put k y = m.put k y := by
  induction m with
  | nil => simp [Cells.put]
  | cons e m ih =>
    obtain ⟨a, z⟩ := e
    simp only [Cells.put]
    split
    · simp [Cells.put]
    · split
      · rename_i h1 h2; subst h2; simp [Cells.put]
      · rename_i h1 h2; simp [Cells.put, h1, h2, ih]

theorem Cells.mapVals_put {α : Type} (f : α → α) (m : Cells α) (k : Nat) (x : α) :
    Cells.mapVals f (m.put k x) = (Cells.mapVals f m).put k (f x) := by
  induction m with
  | nil => rfl
  | cons e m ih =>
    obtain ⟨a, y⟩ := e
    simp only [Cells.mapVals, Cells.put, List.map_cons] at ih ⊢
    split
    · rfl
    · split
      · rfl
      · simp only [List.map_cons, ih]

/-- A train once its split `c.p` has passed an instruction: `m` is the lane's issue count. -/
def Train.past (tr : Train) (c : Ctx) (pc : W64) (m : Nat) : Train :=
  Train.wake { tr with
    splits := ((tr.updSplit c.p fun q => { q with last := m }).updSplit c.p fun q => q.advance pc c.tr.hmode).splits
    outst := tr.outst.map fun o => if o.split = c.p ∧ o.id < c.tr.nextId then { o with window := o.window - 1 } else o
    issues := tr.issues + 1
    hcount := if c.tr.hmode then tr.hcount + 1 else tr.hcount }

theorem Train.past_split (tr : Train) (c : Ctx) (pc : W64) (m : Nat) (h : tr.split? c.p = some c.sp) :
    (tr.past c pc m).split? c.p = some { c.sp with
      pc := pc, dix := if c.tr.hmode then c.sp.dix else c.sp.dix + 1, pfx := none, done := 0, wait := .ready, part := none
      rel := none, last := m } := by
  apply Train.split?_wake_ready _ _ _ _ rfl
  show ((tr.updSplit c.p fun q => { q with last := m }).updSplit c.p fun q => q.advance pc c.tr.hmode).split? c.p = _
  rw [Train.split?_updSplit, if_pos rfl, Train.split?_updSplit, if_pos rfl, h]
  · rfl
  · exact fun _ => rfl
  · exact fun _ => rfl

theorem Train.past_others (tr : Train) (c : Ctx) (pc : W64) (m p : Nat) (hp : p ≠ c.p) :
    ((tr.past c pc m).split? p).map Split.calm = (tr.split? p).map Split.calm := by
  unfold Train.past
  rw [Train.split?_wake]
  show (((tr.updSplit c.p fun q => { q with last := m }).updSplit c.p fun q => q.advance pc c.tr.hmode).split? p).map
    Split.calm = _
  rw [Train.split?_updSplit, if_neg hp, Train.split?_updSplit, if_neg hp]
  · exact fun _ => rfl
  · exact fun _ => rfl

/-- The lane's count of issues once the issuing instruction is counted. -/
def Ctx.laneCount (c : Ctx) (s : State) : Nat := (s.core c.core).lanes.val 0 (laneOf c.tr.trn) + 1

/-- The whole state once an instruction has passed. -/
theorem State.retireTo_eq (s : State) (c : Ctx) (tr1 : Train) (pc : W64) :
    (s.setTrain c.w c.t tr1).retireTo c pc =
      { s with
        trains := (Cells.mapVals Train.wake s.trains).put (64 * c.w + c.t) (tr1.past c pc (c.laneCount s))
        cores := s.cores.put c.core { s.core c.core with
          lanes := (s.core c.core).lanes.put (laneOf c.tr.trn) (c.laneCount s) }
        clock := s.clock + c.cycles } := by
  let m := c.laneCount s
  let co : Core := { s.core c.core with lanes := (s.core c.core).lanes.put (laneOf c.tr.trn) m }
  let f1 : Train → Train := fun tr => { (tr.updSplit c.p fun q => { q with last := m }) with
    issues := tr.issues + 1, hcount := if c.tr.hmode then tr.hcount + 1 else tr.hcount }
  let f2 : Train → Train := fun tr => (tr.updSplit c.p fun q => q.advance pc c.tr.hmode).closeWindows c.p c.tr.nextId
  let a : State := { (s.setTrain c.w c.t tr1).setCore c.core co with clock := s.clock + c.cycles }
  have ha : a.train? c.w c.t = some tr1 := State.train?_setTrain s c.w c.t tr1
  have e1 : (s.setTrain c.w c.t tr1).retireTo c pc = ((a.updTrain c.w c.t f1).updTrain c.w c.t f2).wake := rfl
  rw [e1, State.updTrain_of ha f1, State.updTrain_of (State.train?_setTrain a c.w c.t (f1 tr1)) f2]
  unfold State.wake State.setTrain
  simp only [Cells.put_put, Cells.mapVals_put, a, State.setCore, State.setTrain]
  rfl

/-- An instruction passes: `s1` is the state at its issue with the issuing train replaced by `tr1`. -/
theorem State.retireTo_spec {s : State} {i : Instr} {c : Ctx} (h : s.ctx? i = some c) (tr1 : Train) (new : List Outst)
    (pc : W64) (n : Nat)
    (h1 : tr1 = { c.tr with k := tr1.k, v := tr1.v, p := tr1.p, outst := c.tr.outst ++ new, nextId := n }) :
    Beside c s ((s.setTrain c.w c.t tr1).retireTo c pc) ∧
      Passed c ((s.setTrain c.w c.t tr1).retireTo c pc) pc (tr1.past c pc (c.laneCount s)) := by
  obtain ⟨-, -, ht, hsp, -, -, -, -⟩ := State.ctx?_eq h
  have hs1 : tr1.split? c.p = c.tr.split? c.p := by rw [h1]; rfl
  have hs2 : ∀ p, tr1.split? p = c.tr.split? p := by rw [h1]; exact fun _ => rfl
  rw [State.retireTo_eq]
  refine ⟨⟨rfl, ?_, ?_⟩, ⟨?_, ?_, ?_, ?_⟩⟩
  · intro k
    simp only [State.core, Cells.val_put]
    by_cases hk : k = c.core
    · subst hk; simp
    · simp [hk]
  · intro key hkey
    simp only [Cells.look_put_ne _ _ hkey, Cells.look_mapVals, Option.map_map]
    congr 1
    funext x
    exact Train.calm_wake x
  · simp [State.train?]
  · exact ⟨_, Train.past_split tr1 c pc _ (hs1.trans hsp)⟩
  · intro p hp
    rw [Train.past_others _ _ _ _ _ hp, hs2]
  · refine ⟨new, ?_⟩
    rw [h1]; rfl

/-! ### Registers -/

theorem Train.getV_setV (tr : Train) (j r j' r' : Nat) (x : W32) (hr : r < 64) (hr' : r' < 64) :
    (tr.setV j r x).getV j' r' = if r' = r ∧ j' = j then x else tr.getV j' r' := by
  simp only [Train.getV, Train.setV, Cells.val_store]
  congr 1
  exact propext ⟨fun h => by omega, fun h => by omega⟩

theorem Train.getV_writeV (tr : Train) (d : Nat) (f : Nat → W32) (js : List Nat) (j r : Nat) (hd : d < 64) (hr : r < 64) :
    (tr.writeV d f js).getV j r = if r = d ∧ j ∈ js then f j else tr.getV j r := by
  induction js with
  | nil => simp [Train.writeV]
  | cons a js ih =>
    rw [Train.writeV, Train.getV_setV _ _ _ _ _ _ hd hr, ih]
    by_cases h1 : r = d
    · by_cases h2 : j = a
      · subst h2; simp [h1]
      · simp [h1, h2]
    · simp [h1]

theorem Train.getK_setK (tr : Train) (r r' : Nat) (x : W64) : (tr.setK r x).getK r' = if r' = r then x else tr.getK r' := by
  simp only [Train.getK, Train.setK, Cells.val_store]

theorem Train.getP_setP (tr : Train) (r r' : Nat) (m x : Mask) : (tr.setP r m x).getP r' =
    if r' = r ∧ r ≠ 7 then (tr.getP r &&& ~~~m) ||| (x &&& m) else tr.getP r' := by
  unfold Train.setP
  by_cases h : r = 7
  · simp [h]
  · simp only [h, if_false, Train.getP, Cells.val_store]
    by_cases h2 : r' = r
    · subst h2; simp [h]
    · simp [h2]

theorem mem_maskThreads (m : Mask) (j : Nat) : j ∈ maskThreads m ↔ m.getLsbD j = true := by
  unfold maskThreads
  simp only [List.mem_filter, List.mem_range]
  exact ⟨fun h => h.2, fun h => ⟨by by_cases hj : j < 32; exact hj; simp [BitVec.getLsbD_of_ge m j (by omega)] at h, h⟩⟩

theorem testBit_bitsOf (f : Nat → Bool) (n : Nat) : bitsOf f n < 2 ^ n ∧
    ∀ j, (bitsOf f n).testBit j = (decide (j < n) && f j) := by
  induction n with
  | zero => simp [bitsOf]
  | succ n ih =>
    have hb : bitsOf f (n + 1) = bitsOf f n + if f n then 2 ^ n else 0 := rfl
    refine ⟨?_, fun j => ?_⟩
    · rw [hb, Nat.pow_succ]; have := ih.1; split <;> omega
    · rw [hb]
      split
      · rename_i hf
        by_cases hj : j = n
        · subst hj; rw [Nat.add_comm, Nat.testBit_two_pow_add_eq, ih.2]; simp [hf]
        · by_cases hlt : j < n
          · rw [Nat.add_comm, Nat.testBit_two_pow_add_gt (by omega), ih.2]
            simp [hlt, Nat.lt_succ_of_lt hlt]
          · have hx : bitsOf f n + 2 ^ n < 2 ^ j := by
              have h1 := ih.1
              have h2 : 2 ^ (n + 1) ≤ 2 ^ j := Nat.pow_le_pow_right (by omega) (by omega)
              rw [Nat.pow_succ] at h2; omega
            rw [Nat.testBit_lt_two_pow hx]; simp; omega
      · rename_i hf
        rw [Nat.add_zero, ih.2]
        by_cases hj : j = n
        · subst hj; simp [hf]
        · by_cases hlt : j < n
          · simp [hlt, Nat.lt_succ_of_lt hlt]
          · have : ¬ j < n + 1 := by omega
            simp [hlt, this]

theorem getLsbD_maskOf (f : Nat → Bool) (j : Nat) : (maskOf f).getLsbD j = (decide (j < 32) && f j) := by
  unfold maskOf
  rw [BitVec.getLsbD_ofNat, (testBit_bitsOf f 32).2]
  cases decide (j < 32) <;> simp

/-! ### The three kinds of computation -/

/-- A per-thread computation writes its destination in the acting threads, and nothing else (R286). -/
theorem perThread_spec {i : Instr} {s : State} {c : Ctx} (h : Issues i s c) (d : BitVec 6) (f : Ctx → Nat → W32) :
    Beside c s (perThread d f c s) ∧ ∃ tr, Passed c (perThread d f c s) c.next tr ∧ tr.k = c.tr.k ∧ tr.p = c.tr.p ∧
      tr.nextId = c.tr.nextId ∧ WritesV c tr d.toNat (f c) := by
  have hs := State.retireTo_spec h.here (c.tr.writeV d.toNat (f c) c.threads) [] c.next c.tr.nextId (by
    simp only [Train.writeV_k, Train.writeV_p, List.append_nil]
    generalize c.threads = js
    induction js with
    | nil => rfl
    | cons j js ih => rw [Train.writeV, Train.setV, ih])
  have he : perThread d f c s = (s.setTrain c.w c.t (c.tr.writeV d.toNat (f c) c.threads)).retireTo c c.next := by
    unfold perThread State.retire; rw [State.updTrain_of h.train]
  rw [he]
  refine ⟨hs.1, _, hs.2, ?_, ?_, ?_, ?_⟩
  · exact Train.writeV_k ..
  · exact Train.writeV_p ..
  · exact Train.writeV_nextId ..
  · intro j r hj hr
    show (c.tr.writeV d.toNat (f c) c.threads).getV j r = _
    rw [Train.getV_writeV _ _ _ _ _ _ d.isLt hr]
    simp only [Ctx.threads, mem_maskThreads]

/-- A predicate is written in the acting threads, and nothing else is. -/
theorem perThreadP_spec {i : Instr} {s : State} {c : Ctx} (h : Issues i s c) (p : BitVec 3) (f : Ctx → Nat → Bool) :
    Beside c s (perThreadP p f c s) ∧ ∃ tr, Passed c (perThreadP p f c s) c.next tr ∧ tr.k = c.tr.k ∧ tr.v = c.tr.v ∧
      tr.outst.length = c.tr.outst.length ∧ WritesP c tr p.toNat (f c) := by
  have hs := State.retireTo_spec h.here (c.tr.setP p.toNat c.active (maskOf (f c))) [] c.next c.tr.nextId (by
    unfold Train.setP; split <;> simp)
  have he : perThreadP p f c s = (s.setTrain c.w c.t (c.tr.setP p.toNat c.active (maskOf (f c)))).retireTo c c.next := by
    unfold perThreadP State.retire; rw [State.updTrain_of h.train]
  rw [he]
  refine ⟨hs.1, _, hs.2, Train.setP_k .., Train.setP_v .., ?_, ?_⟩
  · simp [Train.past, Train.wake]
  · intro q j hq hj
    show ((c.tr.setP p.toNat c.active (maskOf (f c))).getP q).getLsbD j = _
    rw [Train.getP_setP]
    unfold Train.predOf
    by_cases h1 : q = p.toNat
    · by_cases h7 : q = 7
      · have : p.toNat = 7 := by omega
        simp [h7, this]
      · have h8 : p.toNat ≠ 7 := by omega
        simp only [h1, h8, ne_eq, not_false_eq_true, and_self, if_true]
        simp only [BitVec.getLsbD_or, BitVec.getLsbD_and, BitVec.getLsbD_not, getLsbD_maskOf, hj, decide_true,
          Bool.true_and, true_and]
        cases c.active.getLsbD j <;> simp
    · simp [h1]

/-- A uniform computation writes its destination, and nothing else. -/
theorem uniform_spec {i : Instr} {s : State} {c : Ctx} (h : Issues i s c) (d : Nat) (f : Ctx → W64) :
    Beside c s (uniform d f c s) ∧ ∃ tr, Passed c (uniform d f c s) c.next tr ∧ tr.v = c.tr.v ∧ tr.p = c.tr.p ∧
      tr.outst.length = c.tr.outst.length ∧ WritesK c tr d (f c) := by
  have hs := State.retireTo_spec h.here (c.tr.setK d (f c)) [] c.next c.tr.nextId (by simp [Train.setK])
  have he : uniform d f c s = (s.setTrain c.w c.t (c.tr.setK d (f c))).retireTo c c.next := by
    unfold uniform State.retire; rw [State.updTrain_of h.train]
  rw [he]
  refine ⟨hs.1, _, hs.2, rfl, rfl, ?_, ?_⟩
  · simp [Train.past, Train.wake]
  · exact fun r => Train.getK_setK ..

/-- A long-latency computation whose results are known at issue leaves them with its outstanding instruction (R41). -/
theorem finishLater_spec {i : Instr} {s : State} {c : Ctx} (h : Issues i s c) (ws : List RegWrite) :
    Beside c s (s.finishLater c ws) ∧ ∃ tr, Passed c (s.finishLater c ws) c.next tr ∧ tr.k = c.tr.k ∧ tr.v = c.tr.v ∧
      tr.p = c.tr.p ∧ Later c tr ws := by
  let o : Outst := { c.newOutst c.tr c.active with writes := ws, done := c.active }
  have hs := State.retireTo_spec h.here { c.tr with outst := c.tr.outst ++ [o], nextId := c.tr.nextId + 1 } [o] c.next
    (c.tr.nextId + 1) rfl
  have he : s.finishLater c ws =
      (s.setTrain c.w c.t { c.tr with outst := c.tr.outst ++ [o], nextId := c.tr.nextId + 1 }).retireTo c c.next := by
    unfold State.finishLater State.retire State.addOutst; rw [State.updTrain_of h.train]
  rw [he]
  refine ⟨hs.1, _, hs.2, rfl, rfl, rfl, o, ?_, rfl, rfl, rfl, rfl, rfl, rfl, rfl, rfl, rfl⟩
  simp [Train.past, Train.wake, o, Ctx.newOutst]

end Sys2Proof.Machine
end

