-- ==== Sys2Proof/Tests/Slice0.lean ====
section
/-! SUPPORT. Tests: ill-formed terms that the checks refuse, words of every encoding decoded, single steps with results
computed by hand from the rules, and for every claim a state and operands that meet its hypotheses together. -/

namespace Sys2Proof.Tests

set_option Elab.async false

open Sys2Proof.Machine Sys2Proof.Claims

/-! ### Small states -/

/-- A machine whose one split stands at an instruction (notes/assumptions/3.md): page 0x1000 is leased to it. -/
def standing (i : Instr) : State :=
  let s := State.reset
  { s with
    power := .run
    tasks := [(0, s.fetchTask)]
    wgs := [Wg.start 0 s.fetchTask 0 0 1 (none, 0) .primary 0 0 s.clock 0]
    trains := [(0, Train.start fetchRecord 0 0 (s.boxPa privPool) .ready)]
    cores := s.cores.put 0 { s.core 0 with tc := [⟨0, fetchOffset / 4096, 0, s.fetchLeaf, (true, true, true)⟩] }
    agenda := []
    cur := some ⟨0, 0, 0⟩
    fetched := (encode i).getD 0 }

/-- Change the one train, its split, its workgroup, its task, its task's record. -/
def onTrain (f : Train → Train) (s : State) : State := s.updTrain 0 0 f
def onSplit (f : Split → Split) (s : State) : State := s.updTrain 0 0 fun tr => tr.updSplit 0 f
def onWg (f : Wg → Wg) (s : State) : State := s.updWg 0 f
def onTask (f : Task → Task) (s : State) : State := { s with tasks := s.tasks.map fun e => (e.1, f e.2) }
def onRecord (f : Record → Record) (s : State) : State := onTask (fun t => { t with rcd := f t.rcd }) s

/-- Registers, barrier registers and bytes of memory. -/
def withK (l : List (Nat × Nat)) (s : State) : State :=
  onTrain (fun tr => l.foldl (fun tr e => tr.setK e.1 (BitVec.ofNat 64 e.2)) tr) s
def withV (j : Nat) (l : List (Nat × Nat)) (s : State) : State :=
  onTrain (fun tr => l.foldl (fun tr e => tr.setV j e.1 (BitVec.ofNat 32 e.2)) tr) s
def withBar (n : Nat) (b : Bar) (s : State) : State := onWg (fun g => g.setBar n b) s
/-- The line information of a line with these bytes: the check values of its sectors. -/
def lineOf (bs : List Nat) : Meta :=
  (List.range 4).foldl (fun m i => m.withSector i (checkValue (((bs.drop (32 * i)).take 32).map (BitVec.ofNat 8))) false) .zero

/-- Whole lines of bytes above what memory lists. -/
def withBytes (a : Nat) (bs : List Nat) (s : State) : State :=
  let bs := bs ++ List.replicate ((128 - bs.length % 128) % 128) 0
  { s with mem := s.mem ++ (bs.zipIdx.filter fun e => e.1 ≠ 0).map fun e => (a + e.2, BitVec.ofNat 8 e.1)
           lineInfo := s.lineInfo ++ ((List.range (bs.length / 128)).map fun i => (a / 128 + i, lineOf ((bs.drop (128 * i)).take 128))).filter fun e => e.2 ≠ .zero }

/-- Bytes. -/
def bytes (l : List Nat) : List Byte := l.map (BitVec.ofNat 8)

/-- A number in `n` bytes, the first lowest. -/
def le (n x : Nat) : List Nat := (List.range n).map fun i => x / 256 ^ i % 256

/-- One acting thread. -/
def only (j : Nat) (s : State) : State := onSplit (fun q => { q with exm := 1#32 <<< j }) s

/-- Handler mode. -/
def handling (s : State) : State := onTrain (fun tr => { tr with hmode := true }) s

/-- A handler at 0x1100 and a frame slot on a page of its own. -/
def withHandler (s : State) : State :=
  let s := onTrain (fun tr => { tr with tvec := 0x1100 }) (onTask (fun t => { t with window := (8, 2) })
    (onWg (fun g => { g with fslot := some 0 }) { s with hdesc := [(0, ⟨0x1100, 0x8000, 0x2000, 1⟩)] }))
  s.setCore 0 { s.core 0 with tc := ⟨0, 8, 0, 0x801F, (true, true, true)⟩ :: (s.core 0).tc }

/-- The state after an instruction, where it goes on. -/
def after (o : Out) : State :=
  match o with
  | .next t => t
  | _ => State.reset

/-- Whether the split may issue `i`, in a context with `p`. -/
def meets (i : Instr) (s : State) (p : Ctx → Bool) : Bool :=
  match s.ctx? i with
  | some c => decide (c.stop = .go) && p c
  | none => false

/-- What `meets` says: the hypothesis `Issues` of the claims, and `p`. -/
theorem meets_issues {i : Instr} {s : State} {p : Ctx → Bool} (h : meets i s p = true) : ∃ c, Issues i s c ∧ p c = true := by
  unfold meets at h
  split at h
  · rename_i c hc
    simp only [Bool.and_eq_true, decide_eq_true_eq] at h
    exact ⟨c, ⟨hc, h.1⟩, h.2⟩
  · cases h

/-- Whether every instruction of a list may issue where it stands. -/
def issue (l : List Instr) : Bool := l.all fun i => meets i (standing i) fun _ => true

/-! ### Well-formedness -/

/-- A frame with a selector and a first data byte. -/
def frame (port addr byte : Nat) : Frame := ⟨port, 1, 0, 0, 0, BitVec.ofNat 64 addr, 32, 0, 1, [], [BitVec.ofNat 8 byte]⟩

/-- R276: register classes and groups, selectors, limits of fields. -/
theorem test_ill_formed_words : ([.addK 32 1 2, .movVK 1 40 7, .cmp 1 3 2 3 0 0 7, .cmp 1 0 2 3 0 6 7, .cmpImm 1 0 2 7 0 1 7,
    .cmpK 1 2 3 0 6, .fadd 1 2 3 3 7, .fcmp 1 0 2 3 0 7 7, .hcvt 1 2 0 0 0 0 0 0, .hcvt 1 0 1 0 0 0 0 0, .cvt 1 2 11 0 0 7,
    .cvt 1 2 0 0 6 7, .addKImm 33 1 5, .moviK 32 1 0, .ld 63 1 2 3 0 7, .ld 1 1 2 6 0 7, .st 62 1 2 5 0 7, .st 1 1 2 7 0 7,
    .ldk 31 1 2 4 0, .stk 32 1 2 0 0, .atomCas32 63 1 2 0 7, .atomCas64 61 1 2 0 7, .fence 5 0, .cpyG2s 1 31 0 0 0 0,
    .cpyS2g 1 2 0 1 1 0, .cpytG2s 1 29 0 0 0 0, .cpym 1 2 3 0 1 0 0, .evpst 28 0, .srej 1 0 5, .hmap 1 30 0, .evpop 25 1 0,
    .bra 1 0 5, .ret 32, .tld 1 3 0 0 0 0 0, .tst 1 0 1 0 0 0 0, .tld 1 1 0 0 2 0 0, .tzr 1 3 0 0 0 0, .lstat 1 0 0 0, .lstat 2 3 0 0, .lstatN32 1 3 0 0,
    .mstr 1 3 0 0 0 0, .mstrN32 1 3 0 0 0 0, .hintMem 3 0 0, .hintMem 0 0 5, .hintAri 0 7, .csrr 1 0x300 7, .csrr 32 2 7,
    .csrr 1 2 3, .csrw 1 0x300, .csrw 1 0x10, .nop 9] : List Instr).all (fun i => !i.wf) = true := by decide

/-- An event names parts that exist and carries the command of its row. -/
theorem test_ill_formed_events : ([.write (frame 2 0 0), .cfgw (frame 0 1 0), .cfgwWayMask (frame 0 2 0), .cfgwTroot (frame 0 1 0),
    .cfgwPartition (frame 0 1 0), .cfgwHandlerDesc (frame 0 1 0), .cfgwLeakyBucket (frame 0 1 0), .cfgwPairctl (frame 0 1 0),
    .pair (frame 0 0 0), .unpair (frame 0 0 1), .powerRun (frame 0 0 1), .powerOff (frame 0 0 4), .unknownCommand (frame 0 0 0) 5,
    .ethernetIngressDrop ⟨2, 9300, []⟩, .pageUnmap (frame 0 0 0) 1, .pageProtect (frame 0 0 1) 0 1, .repair (frame 0 0 1) 2 0,
    .ethernetIngressDrop ⟨0, 64, []⟩, .linkDown 3 .laneFailed, .portStatusReport 4 0, .flitReceive 0 4 true, .remoteRequest 4 .marker,
    .l2Fill 0 16 [.good, .good, .good, .good], .l2Fill 0 0 [.good], .correctedError (.memory 12 0 0 0), .correctedError (.bucket 81),
    .classifierEntryExpiry 12 0, .leakyBucketLeak 81, .wayRemovalLine 32 0, .translationWalk 64 0 0, .pageRevival 16 0,
    .linePull 0 32 (List.replicate 128 0) ⟨[], []⟩, .linePull 0 1 [0] ⟨[], []⟩, .contextResume 0 64, .auditReplay 0 0 64, .timeSyncMessage 2 0] : List Instr).all (fun i => !i.wf) = true := by
  decide

/-! ### Decoding: one word of every row with bits, its fields placed by the encoding tables of spec/13_encoding.md -/

/-- Whether each word decodes to the well-formed instruction beside it. -/
def reads (l : List (W32 × Instr)) : Bool := l.all fun e => decide (decode e.1 = some e.2) && e.2.wf

theorem test_decode_add_to_abs : reads [
    (0x04554307#32, .add 5 21 3 7),
    (0x0444D10A#32, .addc 4 19 17 2),
    (0x04338811#32, .sub 3 14 8 1),
    (0x04E6C41A#32, .subb 14 27 4 2),
    (0x05509324#32, .mul 21 2 19 4),
    (0x0484852B#32, .mulhS 8 18 5 3),
    (0x04510A35#32, .mulhU 5 4 10 5),
    (0x0561133E#32, .minS 22 4 19 6),
    (0x04C48345#32, .minU 12 18 3 5),
    (0x0544124C#32, .maxS 20 16 18 4),
    (0x04B4CF53#32, .maxU 11 19 15 3),
    (0x0481805E#32, .abs 8 6 6)] = true := by decide +kernel

theorem test_decode_neg_to_mulhUK : reads [
    (0x0484C063#32, .neg 8 19 3),
    (0x0502C06E#32, .popc 16 11 6),
    (0x04A0C071#32, .clz 10 3 1),
    (0x04E6407B#32, .ctz 14 25 3),
    (0x05008086#32, .brev 16 2 6),
    (0x0594C08F#32, .mov 25 19 7),
    (0x05B2C096#32, .movVK 27 11 6),
    (0x6144CF07#32, .addK 20 19 15),
    (0x61B25717#32, .subK 27 9 23),
    (0x60360A27#32, .mulK 3 24 10),
    (0x6136CA2F#32, .mulhSK 19 27 10),
    (0x60D58137#32, .mulhUK 13 22 1)] = true := by decide +kernel

theorem test_decode_minSK_to_and : reads [
    (0x60F1843F#32, .minSK 15 6 4),
    (0x60264547#32, .minUK 2 25 5),
    (0x60835C4F#32, .maxSK 8 13 28),
    (0x6033D257#32, .maxUK 3 15 18),
    (0x61D6C05F#32, .absK 29 27),
    (0x61C24067#32, .negK 28 9),
    (0x60E5806F#32, .popcK 14 22),
    (0x60D20077#32, .clzK 13 8),
    (0x6031407F#32, .ctzK 3 5),
    (0x61604087#32, .brevK 22 1),
    (0x61B1808F#32, .movK 27 6),
    (0x08A15203#32, .and 10 5 18 3)] = true := by decide +kernel

theorem test_decode_andn_to_andnK : reads [
    (0x09315C0D#32, .andn 19 5 28 5),
    (0x09458214#32, .or 20 22 2 4),
    (0x09C71A1D#32, .xor 28 28 26 5),
    (0x08D34021#32, .not 13 13 1),
    (0x0950832A#32, .shl 21 2 3 2),
    (0x0862C231#32, .shr 6 11 2 1),
    (0x09348C3D#32, .sra 19 18 12 5),
    (0x0831CD42#32, .rot 3 7 13 2),
    (0x08930C4C#32, .bfxU 9 12 12 4),
    (0x08440F54#32, .bfxS 4 16 15 4),
    (0x64A15807#32, .andK 10 5 24),
    (0x6584170F#32, .andnK 24 16 23)] = true := by decide +kernel

theorem test_decode_orK_to_lea0 : reads [
    (0x6511D117#32, .orK 17 7 17),
    (0x6454811F#32, .xorK 5 18 1),
    (0x65154027#32, .notK 17 21),
    (0x6437112F#32, .shlK 3 28 17),
    (0x64665237#32, .shrK 6 25 18),
    (0x6592C83F#32, .sraK 25 11 8),
    (0x65A64747#32, .rotK 26 25 7),
    (0x64835A4F#32, .bfxUK 8 13 26),
    (0x64741857#32, .bfxSK 7 16 24),
    (0x0C124902#32, .mad 1 9 9 2),
    (0x0D431A0E#32, .bfi 20 12 26 6),
    (0x0CC20814#32, .lea0 12 8 8 4)] = true := by decide +kernel

theorem test_decode_lea1_to_fmul : reads [
    (0x0CB41D1D#32, .lea1 11 16 29 5),
    (0x0C155A26#32, .lea2 1 21 26 6),
    (0x0DB10D2F#32, .lea3 27 4 13 7),
    (0x13074E6C#32, .cmp 6 0 29 14 1 5 4),
    (0x14D0C642#32, .sel 13 3 6 2 2),
    (0x18575AB2#32, .divU 5 29 26 11 2),
    (0x19B40C3D#32, .remU 27 16 12 3 5),
    (0x1C5058B1#32, .divS 5 1 24 11 1),
    (0x1D815C4F#32, .remS 24 5 28 4 7),
    (0x20724A07#32, .fadd 7 9 10 0 7),
    (0x20B49B26#32, .fsub 11 18 27 0 6),
    (0x21D59B4F#32, .fmul 29 22 27 1 7)] = true := by decide +kernel

theorem test_decode_fmin_to_fsinp : reads [
    (0x21D14571#32, .fmin 29 5 5 2 1),
    (0x20F18182#32, .fmax 15 6 1 0 2),
    (0x214100A3#32, .frnd 20 4 0 3),
    (0x25149A11#32, .ffma 17 18 26 2 1),
    (0x2470842D#32, .ffmaSub 7 2 4 1 5),
    (0x2590CB55#32, .ffmaNeg 25 3 11 2 5),
    (0x2AA3D2AD#32, .fcmp 5 2 15 18 2 5 5),
    (0x2DD252F2#32, .fdiv 29 9 18 15 2),
    (0x30F38024#32, .fsqrt 15 14 2 4),
    (0x30B58144#32, .frcp 11 22 4 4),
    (0x307282D1#32, .frsq 7 10 13 1),
    (0x3195C3B6#32, .fsinp 25 23 11 6)] = true := by decide +kernel

theorem test_decode_fcosp_to_addImm : reads [
    (0x30574434#32, .fcosp 5 29 3 4),
    (0x31810574#32, .fex2 24 4 7 4),
    (0x31620636#32, .flg2 22 8 3 6),
    (0x3512C703#32, .packBf16 17 11 7 3),
    (0x34330B0D#32, .packF16 3 12 11 5),
    (0x34F04014#32, .unpkBf16Lo 15 1 4),
    (0x3512801D#32, .unpkBf16Hi 17 10 5),
    (0x34368022#32, .unpkF16Lo 3 26 2),
    (0x35D0C02B#32, .unpkF16Hi 29 3 3),
    (0x39B94F3F#32, .hcvt 3 1 25 9 7 3 1 7),
    (0x3D624A1E#32, .cvt 22 9 2 8 3 6),
    (0x4030B336#32, .addImm 3 2 0x666 6)] = true := by decide +kernel

theorem test_decode_andImm_to_moviK : reads [
    (0x44E0D139#32, .andImm 14 3 0x227 1),
    (0x48324565#32, .orImm 3 9 0xac 5),
    (0x4C827739#32, .xorImm 8 9 0x6e7 1),
    (0x5014804D#32, .shlImm 1 18 9 5),
    (0x5025C122#32, .shrImm 2 23 4 2),
    (0x5021C256#32, .sraImm 2 7 10 6),
    (0x5111C37D#32, .rotImm 17 7 15 5),
    (0x57169411#32, .cmpImm 6 1 26 2 1 2 1),
    (0x5918D122#32, .movi 17 0x8d12 2),
    (0x5903EE5C#32, .moviHi 16 0x3ee5 4),
    (0x69655BB7#32, .addKImm 22 21 0x376),
    (0x6D08BC18#32, .moviK 16 0x8bc1 2)] = true := by decide +kernel

theorem test_decode_cmpK_to_atomMaxS : reads [
    (0x7115C86F#32, .cmpK 17 23 8 1 5),
    (0x81568889#32, .ld 21 13 2 1 1 1),
    (0x85849896#32, .ldS 24 9 6 1 2 6),
    (0x88D8A8E3#32, .st 13 17 10 1 12 3),
    (0x8C733D37#32, .ldk 7 6 15 2 6),
    (0x907588B7#32, .stk 7 11 2 1 6),
    (0x9416C02D#32, .atomAdd 1 13 16 5 5),
    (0x94788493#32, .atomAnd 7 17 1 2 3),
    (0x94368939#32, .atomOr 3 13 2 7 1),
    (0x94A44DCF#32, .atomXor 10 8 19 9 7),
    (0x945BD23F#32, .atomMinS 5 23 20 7 7),
    (0x9582E2D6#32, .atomMaxS 24 5 24 10 6)] = true := by decide +kernel

theorem test_decode_atomMinU_to_cpyS2g : reads [
    (0x942BC75C#32, .atomMinU 2 23 17 11 4),
    (0x9578C7ED#32, .atomMaxU 23 17 17 13 5),
    (0x99BD5857#32, .atomExch32 27 26 22 10 7),
    (0x997BA091#32, .atomCas32 23 23 8 2 1),
    (0x9856113F#32, .atomAdd64 5 12 4 7 7),
    (0x992AD5CE#32, .atomExch64 18 21 21 9 6),
    (0x9900EA16#32, .atomCas64 16 1 26 2 6),
    (0x99195AC9#32, .atomFaddF32 17 18 22 9 1),
    (0x99848F73#32, .atomFaddBf16x2 24 9 3 14 3),
    (0x9CA00000#32, .fence 1 1),
    (0xA2B0E040#32, .cpyG2s 21 16 14 0 0 8),
    (0xA2D910D0#32, .cpyS2g 22 25 1 0 0 10)] = true := by decide +kernel

theorem test_decode_cpytG2s_to_clstBc : reads [
    (0xA175C108#32, .cpytG2s 11 21 12 0 0 1),
    (0xA049B1D8#32, .cpytS2g 2 9 11 0 0 11),
    (0xA1515247#32, .cpym 10 17 5 0 0 8 7),
    (0xA6404028#32, .bini 18 4 5),
    (0xA40020F8#32, .barv 2 15),
    (0xA4205140#32, .bexp 1 5 8),
    (0xA62081A8#32, .btst 17 8 5),
    (0xA4E0F278#32, .bwait 7 15 15),
    (0xA860A012#32, .clstAg 3 10 2 2),
    (0xAA2050B2#32, .clstRs 17 5 6 2),
    (0xAAA09129#32, .clstAr 21 9 5 1),
    (0xA98041C4#32, .clstBc 12 4 8 4)] = true := by decide +kernel

theorem test_decode_evpst_to_hfls : reads [
    (0xAC200018#32, .evpst 1 3),
    (0xAC000088#32, .rfnc 1),
    (0xAE000158#32, .audm 16 11),
    (0xADA001A8#32, .digr 13 5),
    (0xB0AC0038#32, .snap 5 12 7),
    (0xB08000F0#32, .sacc 4 14),
    (0xB0200132#32, .srej 1 6 2),
    (0xB1A701E0#32, .sqry 13 7 12),
    (0xB7090030#32, .hgiv 24 9 6),
    (0xB5B30090#32, .htak 13 19 2),
    (0xB5C90170#32, .hmap 14 9 14),
    (0xB5200190#32, .hfls 9 2)] = true := by decide +kernel

theorem test_decode_lnch_to_xredMaxS : reads [
    (0xBAD50078#32, .lnch 22 21 15),
    (0xB90E00C8#32, .evpop 8 14 9),
    (0xB8EC0168#32, .trel 7 12 13),
    (0xC0E07206#32, .xchUp 14 1 25 6),
    (0xC1D48E0E#32, .xchDn 29 18 7 6),
    (0xC0261E15#32, .xchXor 2 24 15 5),
    (0xC057001B#32, .xchIdx 5 28 3),
    (0xC0248C24#32, .xbc 2 18 6 4),
    (0xC4B28003#32, .xredAddI32 11 10 3),
    (0xC585400B#32, .xredAddF32 24 21 3),
    (0xC5528014#32, .xredMinS 21 10 4),
    (0xC561001A#32, .xredMaxS 22 4 2)] = true := by decide +kernel

theorem test_decode_xredMinF32_to_xshc : reads [
    (0xC461C025#32, .xredMinF32 6 7 5),
    (0xC5A4802A#32, .xredMaxF32 26 18 2),
    (0xC4B3C044#32, .xscnAddI32 11 15 4),
    (0xC5220049#32, .xscnAddF32 18 8 1),
    (0xC4B0C053#32, .xscnMinS 11 3 3),
    (0xC4C6805D#32, .xscnMaxS 12 26 5),
    (0xC5D60067#32, .xscnMinF32 29 24 7),
    (0xC4D6006D#32, .xscnMaxF32 13 24 5),
    (0xC4D0C083#32, .voteBallot 13 3 3),
    (0xC470408C#32, .voteAny 7 1 4),
    (0xC4314093#32, .voteAll 3 5 3),
    (0xC9647407#32, .xshc 22 17 26 7)] = true := by decide +kernel

theorem test_decode_bra_to_tzr : reads [
    (0xD0F22B0D#32, .bra 7 2 0x22b0d),
    (0xD559959F#32, .brd 2 1 0x19959f),
    (0xDA954A6D#32, .call 0x2954a6d),
    (0xDCE00003#32, .calli 14 3),
    (0xE006C007#32, .ret 27),
    (0xE000000F#32, .join),
    (0xE0000017#32, .exit 7),
    (0xE0A0001F#32, .maskAnd 1 2),
    (0xE1C0001F#32, .maskSet 1 4),
    (0xE753097F#32, .tld 6 2 19 1 1 7 15),
    (0xEBCF4724#32, .tst 7 2 15 8 7 2 4),
    (0xED36C6B0#32, .tzr 2 1 22 24 6 11)] = true := by decide +kernel

theorem test_decode_azr_to_hintMem : reads [
    (0xEC197821#32, .azr 25 15 2),
    (0xEEDA45F2#32, .ard 5 2 26 8 5 15),
    (0xECCA2E53#32, .awr 1 2 10 5 6 5),
    (0xEEB72024#32, .asv 21 23 4 2),
    (0xED536855#32, .ars 10 19 13 5),
    (0xF2400110#32, .lstat 4 2 1 1),
    (0xF2C00458#32, .lstatN32 5 2 4 5),
    (0xF0000061#32, .plsw 6),
    (0xF7519210#32, .mstr 6 2 17 18 2 1),
    (0xF64A0A88#32, .mstrN32 4 2 10 1 2 8),
    (0xF8E2856F#32, .immx 0xe2856f),
    (0xF9000033#32, .hintMem 1 2 3)] = true := by decide +kernel

theorem test_decode_hintAri_to_svc : reads [
    (0xFA00000D#32, .hintAri 1 5),
    (0xFCC02207#32, .csrr 12 0x110 7),
    (0xFC0BA04F#32, .csrw 23 0x102),
    (0xFC07020F#32, .csrwExm 14),
    (0xFC0B080F#32, .csrwStat 22),
    (0xFC03840F#32, .csrwAcown 7),
    (0xFC0D200F#32, .csrwTvec 26),
    (0xFC0C220F#32, .csrwWdg 24),
    (0xFC08A40F#32, .csrwPrivb 17),
    (0xFC000017#32, .trap),
    (0xFC000037#32, .rft),
    (0xFC038057#32, .svc 7)] = true := by decide +kernel

theorem test_decode_wait_to_nop : reads [
    (0xFC038077#32, .wait 7),
    (0xFC500097#32, .nop 5)] = true := by decide +kernel
/-! ### Hypotheses that can be met: issues -/

theorem test_witness_sums : issue [.add 1 2 3 7, .addImm 1 2 0x7FB 0, .sub 4 5 6 1, .neg 7 8 2, .addK 2 3 4, .addKImm 1 1 0x7F8,
    .subK 1 2 3, .negK 5 5, .addc 5 6 7 7, .subb 1 2 3 6] = true := by decide +kernel

theorem test_witness_products : issue [.mul 1 2 3 0, .mulhS 1 2 3 7, .mulhU 1 1 3 2, .mad 1 2 3 4, .lea0 1 2 3 7, .lea1 1 2 3 7,
    .lea2 1 2 3 7, .lea3 1 2 3 7, .abs 1 9 7, .mulK 1 2 3, .mulhSK 1 2 3, .mulhUK 4 5 6, .absK 1 2] = true := by decide +kernel

theorem test_witness_orders : issue [.minS 1 2 3 7, .minU 1 2 3 7, .maxS 1 2 3 7, .maxU 1 2 3 7, .popc 1 2 7, .clz 1 2 7, .ctz 1 2 7,
    .brev 1 2 7, .minSK 1 2 3, .minUK 1 2 3, .maxSK 1 2 3, .maxUK 1 2 3, .popcK 1 2, .clzK 1 2, .ctzK 1 2, .brevK 1 2] = true := by
  decide +kernel

theorem test_witness_logic : issue [.and 1 2 3 7, .andn 1 2 3 7, .or 1 2 3 7, .xor 1 2 3 7, .not 1 2 7, .andImm 1 2 0x7F0 7,
    .orImm 1 2 0x7F0 7, .xorImm 1 2 0x70 7, .andK 1 2 3, .andnK 1 2 3, .orK 1 2 3, .xorK 1 2 3, .notK 1 2] = true := by decide +kernel

theorem test_witness_shifts : issue [.shl 1 2 3 7, .shr 1 2 3 7, .sra 1 2 3 7, .rot 1 2 3 7, .shlImm 1 2 5 7, .shrImm 1 2 31 7,
    .sraImm 1 2 0 7, .rotImm 1 2 7 7, .bfxU 1 2 3 7, .bfxS 1 2 3 7, .bfi 1 2 3 7, .shlK 1 2 3, .shrK 1 2 3, .sraK 1 2 3, .rotK 1 2 3,
    .bfxUK 1 2 3, .bfxSK 1 2 3] = true := by decide +kernel

theorem test_witness_moves : issue [.mov 1 2 7, .movVK 1 2 7, .movi 1 0xABCD 7, .moviHi 1 0xABCD 7, .sel 1 2 3 4 7, .sel 1 2 3 7 1,
    .movK 1 2, .moviK 1 0xABCD 3, .cmpK 1 2 3 1 5, .cmp 7 2 2 3 1 5 3, .cmpImm 2 2 4 5 1 10 7, .fcmp 1 0 2 3 2 6 7] = true := by
  decide +kernel

theorem test_witness_divisions_and_functions : issue [.divU 1 2 3 4 7, .remU 1 2 3 0 7, .divS 1 2 3 4 7, .remS 1 2 3 4 2, .fdiv 1 2 3 0 7,
    .fsqrt 1 2 0 7, .frcp 1 2 0 7, .frsq 1 2 0 7, .fsinp 1 2 0 7, .fcosp 1 2 0 7, .fex2 1 2 0 7, .flg2 1 2 0 7] = true := by
  decide +kernel

theorem test_witness_floats : issue [.fadd 1 2 3 0 7, .fsub 1 2 3 1 7, .fmul 1 2 3 2 2, .fmin 1 2 3 0 7, .fmax 1 2 3 1 7, .frnd 1 2 2 7,
    .ffma 1 2 3 0 7, .ffmaSub 1 2 3 1 7, .ffmaNeg 1 2 3 2 7, .packBf16 1 2 3 7, .packF16 1 2 3 7, .unpkBf16Lo 1 2 7, .unpkBf16Hi 1 2 7,
    .unpkF16Lo 1 2 7, .unpkF16Hi 1 2 7, .cvt 1 2 0 10 5 7] = true := by decide +kernel

theorem test_witness_exchanges : issue [.xchUp 1 2 3 7, .xchDn 1 2 4 7, .xchXor 1 2 5 3, .xchIdx 1 2 7, .xbc 1 2 3 1, .xredAddI32 1 2 3,
    .xredAddF32 1 2 3, .xredMinS 1 2 3, .xredMaxS 1 2 3, .xredMinF32 1 2 3, .xredMaxF32 1 2 3, .xscnAddI32 1 2 3, .xscnAddF32 1 2 3,
    .xscnMinS 1 2 3, .xscnMaxS 1 2 3, .xscnMinF32 1 2 3, .xscnMaxF32 1 2 3, .voteBallot 1 2 3, .voteAny 1 2 3, .voteAll 4 5 6] = true := by
  decide +kernel

/-- A pending prefix stands before the word that it widens. -/
theorem test_witness_widened : ([.addImm 1 2 5 7, .cmpImm 2 0 4 3 0 5 7, .addKImm 1 1 5] : List Instr).all (fun i => meets i
    (onSplit (fun q => { q with pfx := some ⟨.immx 0xABCDEF, 0xFFC, 0⟩ }) (standing i)) fun c => c.sp.pfx.isSome) = true := by
  decide +kernel

/-- Rounding: patterns of numbers of each format that are no NaN, an infinity among them. -/
theorem test_witness_representable : ([(.f32, 0x7F800000), (.f32, 0x80000001), (.f16, 0x3C00), (.bf16, 0x8000), (.e5m2, 0x7C), (.e4m3, 0x7E)]
    : List (Fp.Fmt × Nat)).all (fun e => decide (e.2 < 2 ^ e.1.width ∧ Fp.decode e.1 e.2 ≠ .nan)) = true := by decide +kernel

/-! ### Hypotheses that can be met: control -/

/-- A control instruction stands with a full EXM, with an empty one, with a part of its members, in the handler. -/
theorem test_witness_control : issue [.bra 0 0 5, .bra 3 1 0x7FFFD, .bra 3 2 5, .bra 3 3 5, .brd 7 0 6, .brd 0 1 6, .maskAnd 0 3, .maskSet 1 7,
    .ret 30, .join, .exit 7, .exit 3, .calli 6 7, .immx 0x123456, .hintMem 1 2 3, .hintAri 1 5, .nop 0, .wait 3] = true := by decide +kernel

/-- BRD: all, none and a part of the threads of EXM take it; with EXM zero it has no effect. -/
theorem test_witness_brd :
    meets (.brd 7 0 6) (standing (.brd 7 0 6)) (fun c => decide (c.sp.exm ≠ 0) && decide (c.p < c.tr.nextId)) = true ∧
    meets (.brd 7 1 6) (standing (.brd 7 1 6)) (fun c => decide (c.sp.exm ≠ 0)) = true ∧
    meets (.brd 2 0 6) (onTrain (fun tr => tr.setP 2 0xFFFFFFFF 0xFF) (standing (.brd 2 0 6)))
      (fun c => c.tr.predOf 2 0 && !c.tr.predOf 2 9 && decide (c.p < c.tr.nextId)) = true ∧
    meets (.brd 2 0 6) (onSplit (fun q => { q with exm := 0 }) (standing (.brd 2 0 6))) (fun c => decide (c.sp.exm = 0)) = true := by
  decide +kernel

/-- CALL within the train's budget, and above it. -/
theorem test_witness_call : ([64, 8].map fun b => meets (.call 16) (onRecord (fun r => { r with budget := b }) (standing (.call 16))) fun c =>
    match (onRecord (fun r => { r with budget := b }) (standing (.call 16))).budgetAt c.core c.task c.tr.hmode (reached c 26 16) with
    | .ok x => decide (x = 64) && decide (c.task.rcd.budget = b)
    | .error _ => false) = [true, true] := by decide +kernel

/-- RET at an aligned and at a misaligned address. -/
theorem test_witness_ret : ([0x1234, 0xFFFFFFFFFFFFFFFD].map fun x => meets (.ret 30) (withK [(30, x)] (standing (.ret 30)))
    fun c => decide ((c.k 30).toNat = x)) = [true, true] := by decide +kernel

/-- CALLI to two targets; and with EXM zero. -/
def calling : State := (List.range 32).foldl (fun s j => withV j [(6, 0x1000 + 4 * (j % 2))] s) (standing (.calli 6 7))

theorem test_witness_calli : meets (.calli 6 7) calling (fun c => decide (c.active ≠ 0) && decide (c.p < c.tr.nextId) &&
      (maskThreads c.active).all fun j => decide ((entered c 6 j).toNat % 4 = 0) &&
        match calling.budgetAt c.core c.task c.tr.hmode (entered c 6 j) with
        | .ok b => decide (b ≤ c.task.rcd.budget)
        | .error _ => false) = true ∧
    meets (.calli 6 7) (onSplit (fun q => { q with exm := 0 }) (standing (.calli 6 7))) (fun c => decide (c.sp.exm = 0)) = true := by
  decide +kernel

/-- JOIN in program mode and in the handler; a train with two parked splits at different RPCs; a split that is not parked. -/
theorem test_witness_join : meets .join (standing .join) (fun c => !c.tr.hmode) = true ∧
    meets .join (handling (standing .join)) (fun c => c.tr.hmode) = true ∧
    ((standing .join).train? 0 0).any (fun tr => tr.splits.any fun q => !q.parked) = true ∧
    (((onTrain (fun tr => { tr with splits := (tr.splits.map fun q => { q with parked := true, rpc := 0x1000 }) ++
      [⟨70, 0x2000, 0x1008, 0xFFFF0000, 0xFF000000, 77, true, none, 0, 3, .ready, none, 0, none, none⟩] }) (standing .join)).train? 0 0).any fun tr =>
        decide (tr.splits ≠ []) && decide (tr.splits.length ≤ 8) && tr.splits.all fun q => q.parked && q.spilled.isNone) = true := by
  decide +kernel

/-- EXIT of some threads of a split, of the last ones, and with EXM zero. -/
theorem test_witness_exit :
    meets (.exit 2) (onTrain (fun tr => tr.setP 2 0xFFFFFFFF 0xFF) (standing (.exit 2)))
      (fun c => decide (c.sp.exm ≠ 0) && !c.tr.hmode && decide (c.sp.member &&& ~~~c.active ≠ 0)) = true ∧
    meets (.exit 7) (standing (.exit 7)) (fun c => decide (c.sp.exm ≠ 0) && !c.tr.hmode && decide (c.sp.member &&& ~~~c.active = 0) &&
      c.tr.splits.all fun q => q.spilled.isNone && !q.parked) = true ∧
    meets (.exit 7) (onSplit (fun q => { q with exm := 0 }) (standing (.exit 7))) (fun c => decide (c.sp.exm = 0)) = true := by
  decide +kernel

/-- Every CSR is read; ALIVE waits behind the train's own sequencer instruction. -/
theorem test_witness_csrr : issue ([1, 2, 3, 4, 5, 0x10, 0x11, 0x12, 0x20, 0x21, 0x22, 0x23, 0x24, 0x30, 0x31, 0x40, 0x100, 0x101, 0x102, 0x110,
    0x120].map fun n => .csrr 5 (BitVec.ofNat 10 n) 7) = true := by decide +kernel

theorem test_witness_csrr_waits : (let i : Instr := .csrr 5 0x21 7
    let q := (after (exec (.plsw 0) (standing (.plsw 0)))).seqQ
    meets i { standing i with seqQ := q } fun c => q.any fun x => x.w == c.w && x.t == c.t) = true := by decide +kernel

/-- CSRW: read-only registers, EXM and STAT anywhere, the others in the handler; outside it they raise PRIV. -/
theorem test_witness_csrw : issue (.csrwExm 5 :: .csrwStat 5 :: [2, 3, 4, 5, 0x11, 0x12, 0x21, 0x22, 0x23, 0x24, 0x30, 0x31, 0x101, 0x102].map
      fun n => .csrw 5 (BitVec.ofNat 10 n)) = true ∧
    ([.csrwTvec 5, .csrwWdg 5, .csrwPrivb 5, .csrwAcown 5] : List Instr).all (fun i => meets i (handling (standing i)) fun _ => true) = true ∧
    ([.csrwTvec 5, .csrwWdg 5, .csrwPrivb 5, .csrwAcown 5] : List Instr).all (fun i => match (standing i).ctx? i with
      | some c => !c.tr.hmode && decide (c.awaits = []) && c.sp.pfx.isNone && decide (c.stop = .trap .priv)
      | none => false) = true := by decide +kernel

/-! ### Hypotheses that can be met: waits and traps -/

/-- An outstanding division: what reads its result waits, at once or by its window. -/
def dividing : State :=
  let s := after (exec (.divU 5 2 3 0 7) (standing (.divU 5 2 3 0 7)))
  let x := (encode (.add 1 5 2 7)).getD 0
  { s with cur := some ⟨0, 0, 0⟩, fetched := x }

theorem test_witness_awaits : (match dividing.ctx? (.add 1 5 2 7) with
    | some c => decide (c.stop = .await (c.tr.outst.map fun o => o.id)) && decide (c.tr.outst ≠ [])
    | none => false) = true := by decide +kernel

/-- The checks of R276 and R239: ILLEGAL, BUDGET, PRIV. -/
theorem test_witness_checks :
    ((standing (.evpop 25 1 0)).ctx? (.evpop 25 1 0)).any (fun c => decide (c.awaits = [] ∧ c.fifth = false ∧ c.insn.wf = false ∧
      c.stop = .trap .illegal)) = true ∧
    ((onRecord (fun r => { r with budget := 8 }) (standing (.add 1 2 8 7))).ctx? (.add 1 2 8 7)).any (fun c => decide (c.awaits = [] ∧
      c.fifth = false ∧ c.insn.wf = true ∧ c.sp.pfx = none ∧ c.task.rcd.budget ≤ 8 ∧ c.stop = .trap .budget)) = true ∧
    ((standing .rft).ctx? .rft).any (fun c => decide (c.awaits = [] ∧ c.fifth = false ∧ c.insn.wf = true ∧ c.tr.hmode = false ∧
      c.stop = .trap .priv)) = true := by decide +kernel

/-- A train that may trap: TRAP, SVC and an instruction that fails its checks. -/
def mayTrap (i : Instr) (s : State) : Bool :=
  match s.ctx? i with
  | some c =>
    !c.tr.hmode && decide (c.tr.outst = []) && decide (c.tr.tvec ≠ 0) && decide (c.g.mode = .primary) &&
    (match s.budgetAt c.core c.task true c.tr.tvec with
      | .ok b => decide (b ≤ c.task.rcd.budget)
      | .error _ => false) &&
    (s.walkPull c.core c.task.rcd.tenant (c.g.frameVa c.task c.tr.trn).toNat).isNone && decide (c.task.rcd.integ ≠ 3) &&
    match s.translate c.core c.task true (c.g.frameVa c.task c.tr.trn).toNat .store with
    | .ok pa false _ => s.isLocal pa && !s.pullPending pa && !s.pullLost pa && !s.frameBehind c.tr pa
    | _ => false
  | none => false

theorem test_witness_traps : ([.trap, .svc 3, .rft, .evpop 25 1 0] : List Instr).all (fun i => mayTrap i (withHandler (standing i))) = true ∧
    meets .trap (withHandler (standing .trap)) (fun _ => true) = true ∧ meets (.svc 3) (withHandler (standing (.svc 3))) (fun _ => true) = true := by
  decide +kernel

/-- A fault in the handler; a fault without one, TVEC being 0. -/
theorem test_witness_ends : ((handling (standing .trap)).ctx? .trap).any (fun c => c.tr.hmode) = true ∧
    ((standing .trap).ctx? .trap).any (fun c => !c.tr.hmode && decide (c.tr.outst = []) && decide (c.tr.tvec = 0)) = true ∧
    ((standing .trap).task? 0).isSome = true := by decide +kernel

/-- RFT after a trap: the frame stands in memory, and SKIP is 1 or, after a failed check, 0. -/
def returning (i : Instr) : State :=
  let x := (encode .rft).getD 0
  { after (exec i (withHandler (standing i))) with cur := some ⟨0, 0, 0⟩, fetched := x }

theorem test_witness_rft : ([.trap, .evpop 25 1 0] : List Instr).map (fun i => meets .rft (returning i) fun c =>
    decide (c.g.mode = .primary) && decide (c.tr.outst = []) && decide (c.tr.sb = []) &&
    match (returning i).translate c.core c.task true (c.g.frameVa c.task c.tr.trn).toNat .load with
    | .ok pa disc _ => !disc && (returning i).isLocal pa && !(returning i).pullLost pa && !(returning i).pullPending pa &&
        !(returning i).anyPoison (offOf pa) 128 && decide (frameWord (returning i) pa 0 < 2 ^ 64) &&
        (List.range 47).all (fun n => frameWord (returning i) pa 0 / 2 ^ (17 + n) % 2 == 0 || decide (15 ≤ n)) &&
        [10, 11, 12, 13, 14, 15].all fun n => frameWord (returning i) pa n == 0
    | _ => false) = [true, true] := by decide +kernel

/-- SVC in the handler; its request for entries, for the end of the workgroup or the task, and one of no meaning. -/
theorem test_witness_svc : meets (.svc 3) (handling (standing (.svc 3))) (fun c => decide (c.g.mode = .primary) &&
      decide (c.task.rcd.integ ≠ 3)) = true ∧
    [0x501, 2, 3, 0x77].all (fun x => let s := after (exec (.svc 3) (withK [(3, x)] (handling (standing (.svc 3)))))
      (s.wg? 0).isSome && (s.train? 0 0).any fun tr => tr.request?.any fun r => decide (r.2.toNat = x) && (tr.outst? r.1.id).any fun o => decide (o.insn = .svc 3)) = true := by
  decide +kernel

/-! ### Hypotheses that can be met: ordering and memory -/

/-- A store that waits in the buffer, and a train whose buffer, destinations and markers are empty. -/
def storing (w : Nat) : State := after (exec (.st 8 3 5 (BitVec.ofNat 3 w) 0 7)
  (only 4 (withV 4 [(3, 0x40), (8, 0x11223344), (9, 0x55667788)] (withK [(5, 0x1800)] (standing (.st 8 3 5 (BitVec.ofNat 3 w) 0 7))))))

theorem test_witness_release : ((storing 3).train? 0 0).any (fun tr => tr.sb.any fun e => decide (e.stage = .held) && decide (e.owners ≠ [])) = true ∧
    ((standing .join).train? 0 0).any (fun tr => decide (tr.sb = [] ∧ tr.used = [] ∧ tr.markers = [])) = true ∧
    ((standing .join).wg? 0).isSome = true := by decide +kernel

/-- FENCE of every scope and kind, with and without CHIPONLY; one whose train has a load outstanding. -/
theorem test_witness_fence : [0, 1, 2, 3, 4].all (fun sc => [0, 1, 2, 3].all fun k =>
    let i : Instr := .fence (BitVec.ofNat 3 sc) (BitVec.ofNat 2 k)
    [standing i, { standing i with tenpol := [(0, 1)] }].all fun s => meets i s fun c =>
      decide (c.fenceAwaits (k == 3) = []) && !s.engineBusy c.w c.t &&
        match s.release c.w c.t c.p sc with
        | .done _ => true
        | _ => false) = true := by decide +kernel

/-- A load of each width by one thread. -/
def loading (w : Nat) : State :=
  only 4 (withV 4 [(3, 0x40)] (withK [(5, 0x1800)] (standing (.ld 8 3 5 (BitVec.ofNat 3 w) 0 7))))

/-- FENCE while another split's load is outstanding. -/
def fencing : State := { onTrain (fun tr => { tr with outst := tr.outst.map fun o => { o with split := 7 } })
    (after (exec (.ld 8 3 5 2 0 7) (loading 2))) with cur := some ⟨0, 0, 0⟩, fetched := (encode (.fence 2 0)).getD 0 }

theorem test_witness_fence_waits : meets (.fence 2 0) fencing (fun c => decide (c.fenceAwaits false ≠ [])) = true := by decide +kernel

/-- Whether every access of `js` is allowed. -/
def allowed (i : Instr) (s : State) (n al : Nat) (addr : Ctx → Nat → W64) (privOk : Bool) (kind : Access) (js : Ctx → List Nat) : Bool :=
  meets i s fun c => decide (js c ≠ []) && (js c).all fun j =>
    match (learned s c (addr c) (js c)).resolve c.who j (addr c j) n al kind privOk with
    | .ok locs => decide (locs.length = n)
    | .error _ => false

theorem test_witness_loads : [0, 1, 2, 3, 4, 5].all (fun w => allowed (.ld 8 3 5 (BitVec.ofNat 3 w) 0 7) (loading w) (widthBytes w) (widthAlign w)
      (fun c j => c.k5 5 + BitVec.ofNat 64 (c.tr.getV j 3).toNat) true .load fun c => c.threads) = true ∧
    [0, 1].all (fun w => allowed (.ldS 8 3 5 (BitVec.ofNat 1 w) 0 7) (withK [(5, 0x1800)] (standing (.ldS 8 3 5 (BitVec.ofNat 1 w) 0 7))) (w + 1) (w + 1)
      (fun c j => c.k5 5 + BitVec.ofNat 64 (c.tr.getV j 3).toNat) true .load fun c => c.threads) = true ∧
    [0, 1, 2, 3, 4].all (fun w => allowed (.ldk 8 6 5 (BitVec.ofNat 3 w) 0) (withK [(5, 0x1800), (6, 0x10)] (standing (.ldk 8 6 5 (BitVec.ofNat 3 w) 0)))
      (widthBytes w) (widthAlign w) (fun c _ => c.k5 5 + BitVec.ofNat 64 ((c.k5 6).toNat % 2 ^ 32)) false .load fun _ => [0]) = true := by
  decide +kernel

/-- LOAD_RETURN at memory of this chip: nothing is in the way. -/
theorem test_witness_load_return : (let s := after (exec (.ld 8 3 5 2 0 7) (loading 2))
    match s.wg? 0, s.train? 0 0 with
    | some g, some tr => tr.outst.any fun x => g.core?.isSome && tr.sb.isEmpty && (tr.outst? x.id).isSome && match x.loads with
      | [l] => l.value.isNone && !l.expired && !l.fromLog && decide (l.locs = (List.range 4).map fun b => .glob (0x1840 + b)) &&
          tr.outst.all (fun y => decide (x.id ≤ y.id)) && (List.range 4).all fun b => s.isLocal (0x1840 + b) && !s.pullPending (0x1840 + b) &&
            !s.pullLost (0x1840 + b) && !s.poisonAt (offOf (0x1840 + b)) && ((s.core g.lastCore).sector? ((0x1840 + b) / 32)).isNone
      | _ => false
    | _, _ => false) = true := by decide +kernel

/-- Instructions whose results are known, of a v register and of a k register. -/
def finished (i : Instr) (ws : List RegWrite) : State :=
  onTrain (fun tr => { tr with outst := tr.outst.map fun o => { o with writes := ws, loads := [], window := 0, waitsFor := none } })
    (after (exec i (withK [(5, 0x1800)] (standing i))))

theorem test_witness_completion : ([(.ldk 8 6 5 2 0, [.k 8 5]), (.ld 8 3 5 2 0 7, [.v 4 8 5])] : List (Instr × List RegWrite)).all (fun e =>
    let s := finished e.1 e.2
    match s.wg? 0, s.train? 0 0 with
    | some g, some tr => g.core?.isSome && (s.taskOf? g).isSome && tr.outst.any fun x => (tr.outst? x.id).isSome && !x.kept && x.fault.isNone &&
        x.waitsFor.isNone && x.atoms.isEmpty && x.acq.isNone && decide (x.window = 0) && decide (x.writes = e.2)
    | _, _ => false) = true := by decide +kernel

/-- Whether a store finds its place at once. -/
def storable (i : Instr) (s : State) (n al j : Nat) (a : Ctx → W64) (privOk : Bool) : Bool :=
  meets i s fun c => c.sp.pfx.isNone && decide (c.tr.held + n ≤ 16) && c.tr.sb.all (fun e => decide (e.id < c.tr.nextId)) &&
    match (s.learn c.who (a c)).resolve c.who j (a c) n al .store privOk with
    | .ok locs => c.g.mode.performs (locs.getD 0 (.priv 0)) && locs.all fun l => !s.ustFull c.w c.t (s.locDest c.core l) && match l with
      | .glob pa => (s.needsEntry c.g.slot (offOf pa)).isNone
      | .discarded _ => false
      | _ => true
    | .error _ => false

theorem test_witness_stores : [0, 1, 2, 3, 4, 5].all (fun w => storable (.st 8 3 5 (BitVec.ofNat 3 w) 0 7)
      (only 4 (withV 4 [(3, 0x40)] (withK [(5, 0x1800)] (standing (.st 8 3 5 (BitVec.ofNat 3 w) 0 7))))) (widthBytes w) (widthAlign w) 4
      (fun c => c.k5 5 + BitVec.ofNat 64 (c.tr.getV 4 3).toNat) true) = true ∧
    meets (.st 8 3 5 3 0 7) (only 4 (standing (.st 8 3 5 3 0 7))) (fun c => decide (c.threads = [4])) = true ∧
    [0, 1, 2, 3, 4].all (fun w => storable (.stk 8 6 5 (BitVec.ofNat 3 w) 0) (withK [(5, 0x1800), (6, 0x10)]
      (standing (.stk 8 6 5 (BitVec.ofNat 3 w) 0))) (widthBytes w) (widthAlign w) 0 (fun c => c.k5 5 + BitVec.ofNat 64 ((c.k5 6).toNat % 2 ^ 32)) false) = true := by
  decide +kernel

/-- An entry of the store buffer that is held, sent, granted. -/
def entryAt (n : Nat) : State :=
  let e := ((storing 3).train? 0 0).elim 0 fun tr => (tr.sb.headD ⟨0, [], false, .own, [], .held, none, ⟨0, 0, 0⟩, false, 0, 0⟩).id
  let s := storing 3
  let s1 := after (execStoreBufferDrain 0 0 e s)
  [s, s1, after (execHomeWriteGrant 0 0 e s1)].getD n s

theorem test_witness_store_buffer : [(0, Stage.held), (1, .sent), (2, .granted)].all (fun p => let s := entryAt p.1
    match s.wg? 0, s.train? 0 0 with
    | some g, some tr => g.core?.isSome && match tr.sb with
      | [x] => (tr.entry? x.id).isSome && decide (x.stage = p.2) && (match x.dest with
          | .slice _ => true
          | _ => false) && tr.outst.all (fun y => y.loads.isEmpty) && decide (x.bytes.map (fun b => b.loc) = (List.range 8).map fun b => .glob (0x1840 + b)) &&
          (List.range 8).all fun b => !s.pullPending (0x1840 + b) && !s.pullLost (0x1840 + b)
      | _ => false
    | _, _ => false) = true := by decide +kernel

/-- Every atomic of one thread at a word of this chip. -/
theorem test_witness_atomics : ([.atomAdd 8 3 5 0 7, .atomAnd 8 3 5 0 7, .atomOr 8 3 5 0 7, .atomXor 8 3 5 0 7, .atomMinS 8 3 5 0 7, .atomMaxS 8 3 5 0 7,
    .atomMinU 8 3 5 0 7, .atomMaxU 8 3 5 0 7, .atomExch32 8 3 5 0 7, .atomCas32 8 3 5 0 7, .atomAdd64 8 3 5 0 7, .atomExch64 8 3 5 0 7,
    .atomCas64 8 3 5 0 7, .atomFaddF32 8 3 5 0 7, .atomFaddBf16x2 8 3 5 0 7] : List Instr).all (fun i =>
      let s := only 4 (withV 4 [(3, 0x40)] (withK [(5, 0x1800)] (standing i)))
      match atomParts i with
      | some (op, _, _, _) => meets i s fun c => decide (c.threads = [4]) && c.sp.pfx.isNone && decide (c.g.mode = .primary) &&
          decide (c.task.rcd.integ < 2) && !c.task.rcd.det && decide (c.tr.sb = []) && c.tr.outst.all (fun o => decide (o.id < c.tr.nextId)) &&
          s.isLocal 0x1840 && !s.pullPending 0x1840 && !s.pullLost 0x1840 && !s.anyPoison 0x1840 (atomSize op) && !s.flagged 0x1840 &&
          (s.needsEntry c.g.slot 0x1840).isNone && (s.domainOf 0x1840).isNone &&
          match (s.learn c.who 0x1840).resolve c.who 4 0x1840 (atomSize op) (atomSize op) .atomic false with
          | .ok locs => decide (locs = (List.range (atomSize op)).map fun b => .glob (0x1840 + b))
          | .error _ => false
      | none => false) = true := by decide +kernel

/-! ### Hypotheses that can be met: barriers, engines, units -/

/-- An initialised register for two arrivals. -/
def bar0 : Bar := { Bar.reset with init := true, expect := 2 }

/-- BINI of counts that are allowed, at their limits, and that are not. -/
theorem test_witness_bini : ([1, 65, 65 + 128, 2 + 256, 0, 66, 512 + 2].map fun x => meets (.bini 5 3 0) (withK [(5, x)] (standing (.bini 5 3 0)))
    fun c => decide ((c.k5 5).toNat = x) && !(c.g.bar 3).scope && !(c.g.bar 3).sent &&
      ((withK [(5, x)] (standing (.bini 5 3 0))).root? c.g 3).isNone) = [true, true, true, true, true, true, true] := by decide +kernel

/-- BARV that arrives, that has arrived, that finds the count full; BEXP; registers without INIT. -/
theorem test_witness_arrivals :
    meets (.barv 3 0) (withBar 3 bar0 (standing (.barv 3 0))) (fun c => (c.g.bar 3).init && !(c.g.bar 3).came.getLsbD c.tr.trn &&
      decide ((c.g.bar 3).arrived < (c.g.bar 3).expect) && match (withBar 3 bar0 (standing (.barv 3 0))).release c.w c.t c.p 1 with
        | .done _ => true
        | _ => false) = true ∧
    meets (.barv 3 0) (withBar 3 { bar0 with came := 1, arrived := 1 } (standing (.barv 3 0))) (fun c => (c.g.bar 3).came.getLsbD c.tr.trn) = true ∧
    meets (.barv 3 0) (withBar 3 { bar0 with arrived := 2, pend := 1 } (standing (.barv 3 0))) (fun c => decide ((c.g.bar 3).expect ≤ (c.g.bar 3).arrived)) = true ∧
    meets (.bexp 5 3 0) (withBar 3 bar0 (standing (.bexp 5 3 0))) (fun c => (c.g.bar 3).init) = true ∧
    ([.barv 3 0, .bexp 5 3 0, .btst 5 3 0, .bwait 5 3 0] : List Instr).all (fun i => meets i (standing i) fun c => !(c.g.bar 3).init) = true := by
  decide +kernel

/-- A register whose phase completes, and one whose phase does not. -/
theorem test_witness_settle : [({ bar0 with arrived := 2 } : Bar), { bar0 with arrived := 2, pend := 1 }].all (fun b =>
    ((withBar 3 b (standing .join)).wg? 0).any fun g => decide (g.bar 3 = b) && !(g.bar 3).scope && (g.bar 3).init) = true := by decide +kernel

/-- BTST and BWAIT: a phase seen before, a new one, a new one that failed; a phase to wait for. -/
theorem test_witness_observes : ([.btst 5 3 0, .bwait 5 3 0] : List Instr).all (fun i =>
    [bar0, { bar0 with phase := true }, { bar0 with phase := true, lastErr := 3, lastVal := 7 }].all fun b => [0, 1].all fun x =>
      meets i (withK [(5, x)] (withBar 3 b (standing i))) fun c => (c.g.bar 3).init && decide (c.g.bar 3 = b) && decide (c.tr.outst = []) &&
        decide (c.sp.wait = .ready) && ((c.tr.seen.getLsbD 3 == b.phase) == !b.phase)) = true := by decide +kernel

/-- A barrier register for the streamer's arrivals. -/
def strBar (s : State) : State := withBar 3 { bar0 with strm := true } s

/-- Whether a copy may enter: the streamer has room, its barrier is ready. -/
def copyReady (s : State) (c : Ctx) (v z : BitVec 1) : Bool :=
  decide ((s.streamerOf c.core).length < 16) && (z == 1 || ((c.g.bar 3).init && (v == 0 || (c.g.bar 3).strm)))

theorem test_witness_cpy : [(0, 0), (1, 0)].all (fun e => [true, false].all fun g =>
    let i : Instr := if g then .cpyG2s 5 6 3 e.1 e.2 0 else .cpyS2g 5 6 3 e.1 e.2 0
    let s := strBar (withK [(5, if g then 0xA000000000000100 else 0x1800), (6, if g then 0x1800 else 0xA000000000000100), (7, 64)] (standing i))
    meets i s fun c => copyReady s c e.1 e.2 && decide ((c.k5 5).toNat % 16 = 0) && decide ((c.k5 6).toNat % 16 = 0) &&
      decide ((c.tr.getK 7).toNat = 64) && isShare (if g then c.k5 5 else c.k5 6) && isGlob (if g then c.k5 6 else c.k5 5)) = true ∧
    meets (.cpyG2s 5 6 0 0 1 0) (standing (.cpyG2s 5 6 0 0 1 0)) (fun c => copyReady (standing (.cpyG2s 5 6 0 0 1 0)) c 0 1) = true := by
  decide +kernel

/-- A shape record (R90) of rank 2. -/
def shapeRecord (dims strides boxes : List Nat) : List Nat :=
  le 8 0x1800 ++ le 8 (2 * 16 + 4096 + 8192) ++ le 8 0 ++ dims.flatMap (le 8) ++ strides.flatMap (le 8) ++ boxes.flatMap (le 4)

/-- Page 0x1000 lies on chip 1; what that chip has sent of it, from a sector's first byte on. -/
def away (s : State) : State :=
  (onTask (fun t => { t with pins := [⟨1, 0, BitVec.ofNat 64 (0x101F + 2 ^ 42), false⟩] }) s).setCore 0
    { s.core 0 with tc := [⟨0, 1, 0, BitVec.ofNat 64 (0x101F + 2 ^ 42), (true, true, true)⟩] }
def sent (a : Nat) (bs : List Nat) (s : State) : State :=
  (away s).setCore 0 { (away s).core 0 with inbox := (List.range 6).map fun i =>
    ⟨(2 ^ 42 + a) / 32 + i, false, false, false, ((bs ++ List.replicate 32 0).drop (32 * i)).take 32 |>.map (BitVec.ofNat 8)⟩ }

/-- CPYT and CPYM of a record that another chip has sent. -/
theorem test_witness_cpyt : [true, false].all (fun g =>
    let i : Instr := if g then .cpytG2s 5 6 3 1 0 0 else .cpytS2g 5 6 3 1 0 0
    let s := sent 0x1900 (shapeRecord [8, 4, 1, 1, 1] [32, 0, 0, 0] [4, 2, 1, 1, 1])
      (strBar (withK [(5, 0xA000000000000100), (6, 0x1900), (7, 1), (8, 0), (9, 0)] (standing i)))
    meets i s fun c => copyReady s c 1 0 && isGlob (c.k5 6) && decide ((c.k5 6).toNat % 64 = 0) && decide ((c.k5 5).toNat % 16 = 0) &&
      isShare (c.k5 5) && decide ((s.core c.core).recs = []) && match s.issueRead c 33 recordPos ((c.k5 6).toNat % 2 ^ 48) 192 with
        | .ok _ bs poison => !poison && !(Shape.parse bs).malformed bs c.task.rcd (!g)
        | _ => false) = true := by decide +kernel

/-- A core that owns its store, and two slots of E2M1 and E4M3. -/
def matrixSlots (s : State) : State := onRecord (fun r => { r with slots := [1, 1, 0, 0, 0, 0, 0, 0] }) s

/-- Whether the accumulator store is free or this context's, and no tile waits to be reported. -/
def ownsStore (s : State) (c : Ctx) : Bool := c.g.tileMark.isNone && (!(s.core c.core).valid || (s.core c.core).owner == c.g.ctx)

theorem test_witness_cpym : (let i : Instr := .cpym 5 6 3 1 0 0 2
    let s := sent 0x1900 (shapeRecord [32, 32, 1, 1, 1] [32, 0, 0, 0] [4, 32, 1, 1, 1])
      (strBar (withK [(6, 0x1900)] (matrixSlots (standing i))))
    meets i s fun c => copyReady s c 1 0 && ownsStore s c && !s.isFollower c.w c.g c.task.rcd && !cpymBad (c.k5 5) c.task.rcd && isGlob (c.k5 6) &&
      decide ((c.k5 6).toNat % 64 = 0) && decide ((s.core c.core).recs = []) && match s.issueRead c 33 recordPos ((c.k5 6).toNat % 2 ^ 48) 192 with
        | .ok _ bs poison => !poison && !(Shape.parse bs).malformed bs c.task.rcd false && !(Shape.parse bs).tileBad c.task.rcd
        | _ => false) = true := by decide +kernel

/-- CLST: a descriptor of each function. -/
theorem test_witness_clst : ([.clstAg 5 3 0 0, .clstRs 5 3 0 0, .clstAr 5 3 0 0, .clstBc 5 3 0 0] : List Instr).all (fun i =>
    let s := sent 0x1900 (le 8 0x1800 ++ le 8 0x1C00 ++ le 3 16 ++ [1] ++ le 4 0 ++ le 4 7) (strBar (withK [(5, 0x1900)] (standing i)))
    match collectiveParts i with
    | some (fn, _, _, f) => meets i s fun c => copyReady s c 1 0 && isGlob (c.k5 5) && decide ((c.k5 5).toNat % 64 = 0) && !s.chipOnly c.task.rcd.tenant &&
        decide (slotElem (c.task.rcd.slotW f.toNat) ∈ [0, 1, 2, 8]) && !slotScale (c.task.rcd.slotW f.toNat) &&
        match s.issueRead c 33 recordPos (c.k5 5).toNat 64 with
        | .ok _ bs poison => !poison && !(CollDesc.parse bs).malformed bs s.chipId fn (collBytes (slotElem (c.task.rcd.slotW f.toNat)))
        | _ => false
    | none => false) = true := by decide +kernel

/-- The tile and matrix instructions: each passes its checks. -/
def tileState (i : Instr) : State := withK [(5, 0x1800), (1, 0x1000), (2, 7)] (matrixSlots (standing i))

theorem test_witness_tiles :
    ([.tld 2 0 0 0 0 0 1, .tst 2 0 0 0 0 0 1] : List Instr).all (fun i => meets i (tileState i) fun c => decide (((tileState i).sequencerOf c.core).length < 16) &&
      !sliceBad 0 (c.task.rcd.slotW 0) (c.index 0 0) && decide ((tileState i).imageFault c (c.tr.getK 1) (imageSize 0 (c.task.rcd.slotW 0))
        (imageAlign 0 (c.task.rcd.slotW 0)) .load = none) && decide ((tileState i).imageFault c (c.tr.getK 1) (imageSize 0 (c.task.rcd.slotW 0))
        (imageAlign 0 (c.task.rcd.slotW 0)) .store = none)) = true ∧
    meets (.tzr 2 2 2 3 0 0) (tileState (.tzr 2 2 2 3 0 0)) (fun c => !sliceBad 2 (c.task.rcd.slotW 0) (c.index 2 3) && decide (slotElem (c.task.rcd.slotW 0) ≠ 11)) = true ∧
    meets (.hcvt 2 0 0 0 0 0 1 0) (tileState (.hcvt 2 0 0 0 0 0 1 0)) (fun c => !sliceBad 0 (c.task.rcd.slotW 0) (c.index 0 0) && decide (slotElem (c.task.rcd.slotW 0) ≠ 11) &&
      hcvtTarget (slotFmt (c.task.rcd.slotW 0)) false) = true ∧
    ([.lstat 2 0 0 0, .lstatN32 2 0 0 0] : List Instr).all (fun i => meets i (tileState i) fun c => windowOk (c.task.rcd.slotW 0) 0) = true ∧
    meets (.plsw 0) (tileState (.plsw 0)) (fun c => !(tileState (.plsw 0)).isFollower c.w c.g c.task.rcd) = true := by decide +kernel

/-- ASV and ARS, in the handler, with pages enough for an image. -/
def imagePages (s : State) : State :=
  (onRecord (fun r => { r with leases := [⟨0x1000, 0x8000, true, true, true⟩] }) s).setCore 0 { s.core 0 with
    tc := (List.range 8).map fun n => ⟨0, n + 1, 0, BitVec.ofNat 64 ((n + 1) * 4096 + 0x1F), (true, true, true)⟩ }

theorem test_witness_images : ([(.asv 5 2 3 0, .store), (.ars 5 2 3 0, .load)] : List (Instr × Access)).all (fun e =>
    let s := imagePages (handling (tileState e.1))
    meets e.1 s fun c => decide (c.index 2 3 ≤ 255) && isGlob (c.k5 5) && decide ((c.k5 5).toNat % 128 = 0) &&
      decide (s.pagesFault c ((c.k5 5).toNat % 2 ^ 48) 10240 e.2 = none)) = true := by decide +kernel

/-- The instructions that consult ACOWN, with a free store and with their own; AZR with another's. -/
theorem test_witness_store_owner : ([.azr 2 3 0, .ard 2 0 2 3 0 0, .awr 2 0 2 3 0 0, .mstr 2 0 2 3 0 0, .mstrN32 2 0 2 3 0 0] : List Instr).all (fun i =>
    let own := (tileState i).setCore 0 { (tileState i).core 0 with valid := true, owner := 1 }
    [tileState i, own].all fun s => meets i s fun c => ownsStore s c && !s.isFollower c.w c.g c.task.rcd && decide (c.index 2 3 ≤ 254) &&
      decide (slotElem (c.task.rcd.slotW 0) ≠ 11) && windowOk (c.task.rcd.slotW 0) 0 && decide (32 ≤ rowLimit (slotFmt (c.task.rcd.slotW 0)) true) &&
      decide (32 ≤ rowLimit (slotFmt (c.task.rcd.slotW 0)) (slotScale (c.task.rcd.slotW 0)))) = true ∧
    (let s := (tileState (.azr 2 3 0)).setCore 0 { (tileState (.azr 2 3 0)).core 0 with valid := true, owner := 9 }
    meets (.azr 2 3 0) s fun c => c.g.tileMark.isNone && decide (c.index 2 3 ≤ 255) && decide ((s.core c.core).owner ≠ c.g.ctx)) = true := by decide +kernel

/-- A run that neither follows nor is compared. -/
def simple (s : State) (c : Ctx) : Bool :=
  decide (c.g.mode = .primary) && decide (c.task.rcd.integ ≠ 3) && decide (c.tr.sb = [] ∧ c.tr.used = [] ∧ c.tr.markers = []) && decide (s.resp = []) &&
    c.tr.outst.all fun o => decide (o.id < c.tr.nextId)

/-- A task with a domain. -/
def withDomain (d : Domain) (s : State) : State := { onRecord (fun r => { r with lehr := 1 }) s with doms := [(0, d)] }
def domain0 : Domain := ⟨100, 90, [], [], [], [], []⟩

theorem test_witness_snapshots : ([(.snap 5 6 0, 6, 0x1800), (.sacc 5 0, 5, 0x17), (.srej 5 0 3, 5, 0x17), (.sqry 4 5 0, 5, 0x17)] : List (Instr × Nat × Nat)).all (fun e =>
    let s := withDomain domain0 (withK [e.2] (standing e.1))
    meets e.1 s fun c => simple s c && decide (c.task.rcd.lehr ≠ 0) && decide (s.doms.look c.g.slot = some domain0) && isGlob (c.tr.getK e.2.1) &&
      decide ((c.tr.getK e.2.1).toNat = e.2.2)) = true ∧
    meets (.snap 5 6 0) (standing (.snap 5 6 0)) (fun c => simple (standing (.snap 5 6 0)) c && decide (c.task.rcd.lehr = 0) &&
      decide ((standing (.snap 5 6 0)).doms.look c.g.slot = none)) = true ∧
    meets (.sacc 5 0) (standing (.sacc 5 0)) (fun c => simple (standing (.sacc 5 0)) c && decide (c.task.rcd.lehr = 0)) = true := by decide +kernel

/-- EVPST of a task with a queue; TREL; EVPOP of an empty and of a filled queue; LNCH of a record that is well formed. -/
theorem test_witness_posts : (let i : Instr := .evpst 5 0
    let s := onRecord (fun r => { r with evq := 0x1800 }) (standing i)
    meets i s fun c => simple s c && decide (c.task.rcd.evq ≠ 0)) = true ∧
    meets (.trel 4 5 0) (standing (.trel 4 5 0)) (fun c => simple (standing (.trel 4 5 0)) c) = true ∧
    [0, 3].all (fun tail => let i : Instr := .evpop 8 5 0
      let s := withBytes 0x1900 (le 8 8 ++ le 8 0 ++ le 8 tail ++ le 8 0) (withK [(5, 0x1900)] (standing i))
      meets i s fun c => simple s c && isGlob (c.k5 5) && decide ((c.k5 5).toNat % 64 = 0) &&
        match s.findQueue c.core c.task c.tr.hmode (c.k5 5).toNat with
        | .here _ h false => !h.bad && decide (h.head = 0 ∧ h.tail = tail) && match s.readLine c.w (slotVa (c.k5 5).toNat h.cap h.head) .load with
          | .ready _ p => p == 0
          | _ => false
        | _ => false) = true := by decide +kernel

/-- A task record of one workgroup of 32 threads and a budget of 64, in partition 0. -/
def recordBytes : List Nat := le 8 0x1000 ++ le 8 (1 + 32 * 2 ^ 32 + 64 * 2 ^ 56) ++ List.replicate 496 0

/-- LNCH of a record that is well formed. -/
theorem test_witness_lnch : (let i : Instr := .lnch 5 6 0
    let s := { withBytes 0x1A00 recordBytes (withK [(6, 0x1A00)] (standing i)) with parts := [(0, ⟨1, 0x40⟩)] }
    meets i s fun c => simple s c && isGlob (c.k5 6) && decide ((c.k5 6).toNat % 64 = 0) && !s.launchBad c.task.rcd.tenant (bytes recordBytes) &&
      match s.issueRead c 35 recordPos (c.k5 6).toNat 512 with
      | .ok s1 bs _ => bs == bytes recordBytes && !s1.launchBad c.task.rcd.tenant bs
      | _ => false) = true := by decide +kernel

theorem test_witness_digests : ([.rfnc 0, .audm 5 0, .digr 5 0] : List Instr).all (fun i => meets i (standing i) fun c => decide (c.tr.sb = []) &&
    decide (c.tr.dq = [])) = true := by decide +kernel

/-- HMAP of a range of the scratchpad; a region given, taken and flushed. -/
def twoGroups (s : State) : State :=
  match s.wg? 0, s.train? 0 0 with
  | some g, some tr => { s with wgs := [g, { g with wgid := 1, lpid := 1, ctx := 1, place := .resident 4 0 }], trains := s.trains ++ [(64, tr)] }
  | _, _ => s

def withRegion (holder : Nat) (offered : Option Nat) (s : State) : State :=
  match s.wg? 0 with
  | some g => { s with regions := [⟨g.slot, g.sub, g.group, 3, 0, holder, offered, 0x100, 0x200, none, []⟩] }
  | none => s

theorem test_witness_hmap : (let s := onRecord (fun r => { r with scratch := 0x1000 }) (withK [(6, 0x100), (7, 0x200)] (standing (.hmap 5 6 0)))
    meets (.hmap 5 6 0) s fun c => simple s c && decide (c.tr.getK 8 = 0) && s.mayMap c.w c.task.rcd.scratch 0x100 0x200 false &&
      (s.freeHandle c.w c.g.slot c.g.group).isSome) = true := by decide +kernel

/-- A second workgroup of the cluster. -/
def neighbour (s : State) : State :=
  match s.wg? 0 with
  | some g => { s with wgs := [g, { g with wgid := 1, lpid := 1, ctx := 1, place := .resident 1 0 }] }
  | none => s

def giving : State := neighbour (withRegion 0 none (withK [(6, 3), (7, 1)] (standing (.hgiv 6 7 0))))
def taking : State := withRegion 1 (some 0) (withK [(6, 3)] (standing (.htak 5 6 0)))
def flushing : State := withRegion 0 none (withK [(6, 3)] (standing (.hfls 6 0)))

theorem test_witness_regions :
    meets (.hgiv 6 7 0) giving (fun c => simple giving c && decide (giving.peerWg? c.g (c.k5 7).toNat = some 1) &&
      (giving.region? c.w c.g.slot c.g.group 3).any fun r => decide (r.holder = c.w ∧ r.offered = none)) = true ∧
    meets (.htak 5 6 0) taking (fun c => simple taking c && (taking.regions.find? fun r => r.slot == c.g.slot && r.cluster == c.g.group &&
      r.handle == 3 && r.offered == some c.w).isSome) = true ∧
    meets (.hfls 6 0) flushing (fun c => simple flushing c && (flushing.region? c.w c.g.slot c.g.group 3).any fun r =>
      decide (r.holder = c.w ∧ r.offered = none)) = true := by
  decide +kernel

/-- XSHC: the first of two partners, the second, and one with EXM zero. -/
def exchanging (waits : Bool) : State :=
  let s := twoGroups (withK [(5, 1)] (standing (.xshc 1 2 5 7)))
  if waits then s.updTrain 1 0 fun tr => (tr.setK 6 0).updSplit 0 fun q => { q with wait := .xshc 0 ((encode (.xshc 3 4 6 2)).getD 0), pc := 0x1100 } else s

theorem test_witness_xshc : meets (.xshc 1 2 5 7) (exchanging false) (fun c => decide (c.sp.exm ≠ 0) && decide (c.g.mode = .primary) &&
      decide (c.task.rcd.integ = 0) && decide ((c.k5 5).toNat < 2 ^ 14) && decide (xshcPartner (c.k5 5) ≠ (c.g.lpid, c.tr.trn)) &&
      ((exchanging false).xshcMeets c (c.k5 5)).isNone) = true ∧
    meets (.xshc 1 2 5 7) (exchanging true) (fun c => match (exchanging true).xshcMeets c (c.k5 5) with
      | some (k', word) => decide (decode word = some (.xshc 3 4 6 2)) &&
          (State.ctx? { exchanging true with cur := some k', fetched := word } (.xshc 1 2 5 7)).any fun c0 => decide (c0.w = 1 ∧ c0.t = 0 ∧
            c0.task.rcd.audk = 0 ∧ c0.task.rcd.integ = 0 ∧ c0.g.mode = .primary)
      | none => false) = true ∧
    meets (.xshc 1 2 5 7) (onSplit (fun q => { q with exm := 0 }) (exchanging false)) (fun c => decide (c.sp.exm = 0)) = true := by decide +kernel

/-- An instruction that waits for its engine command. -/
def origin (i : Instr) : Outst := ⟨66, 0, 0x1000, none, 0, i, 0, 1, 0, [], [], 0, none, some 70, [], false, [], 0, none⟩

/-- XSHC of its own train and of no train; HTAK of a region that nobody offered; HMAP of addresses without a lease, and outside the
scratchpad; AUDM and DIGR with an unfinished TST; the completion of RFNC. -/
theorem test_witness_other_ends : [0, 2 ^ 14].all (fun x => meets (.xshc 1 2 5 7) (withK [(5, x)] (standing (.xshc 1 2 5 7))) fun c => decide (c.sp.exm ≠ 0 ∧
      (2 ^ 14 ≤ (c.k5 5).toNat ∨ xshcPartner (c.k5 5) = (c.g.lpid, c.tr.trn)))) = true ∧
    meets (.htak 5 6 0) (withK [(6, 3)] (standing (.htak 5 6 0))) (fun c => decide ((c.k5 6).toNat = 3) && (standing (.htak 5 6 0)).regions.isEmpty) = true ∧
    [(0x200, 0x9000, true), (0x2000, 0, false)].all (fun (len, mp, ok) =>
      let s := onRecord (fun r => { r with scratch := 0x1000 }) (withK [(6, 0x100), (7, len), (8, mp)] (standing (.hmap 5 6 0)));
      meets (.hmap 5 6 0) s fun c => simple s c && (s.mayMap c.w c.task.rcd.scratch 0x100 len (mp != 0) == ok) && !c.task.leased mp len) = true ∧
    ([.audm 5 0, .digr 5 0] : List Instr).all (fun i => meets i (onTrain (fun tr => { tr with dq := [⟨66, false, []⟩], outst := [{ origin (.tst 2 0 0 0 0 0 1) with window := 9 }], nextId := 80 }) (standing i)) fun c => decide (c.tr.dq ≠ []) && c.tr.tstRuns) = true ∧
    (let s := onTrain (fun tr => { tr with outst := [{ origin (.rfnc 0) with waitsFor := some 0 }] }) (standing .trap);
      s.atWork 0 && (s.train? 0 0).any fun tr => tr.sb.isEmpty && (tr.outst? 66).any fun x => decide (x.insn = .rfnc 0 ∧ x.waitsFor = some 0) && !x.kept) = true := by
  decide +kernel

/-! ### Hypotheses that can be met: the host -/

/-- A frame of tenant 0 on port 0 with the check words of its sectors. -/
def request (addr : Nat) (data : List Byte) (len : Nat) : Frame :=
  let f : Frame := ⟨0, 1, 0, 0, 77, BitVec.ofNat 64 addr, len, 0, data.length / 32, [], data⟩
  { f with chk := (List.range (data.length / 32)).map fun i => (checkValue (frameSector f i)).toNat }

/-- A request whose first bytes are given, in one sector. -/
def sector (addr : Nat) (l : List Nat) : Frame := request addr (bytes (l ++ List.replicate (32 - l.length) 0)) 32

/-- CFGW of a value to a register. -/
def cfg (cls i j x : Nat) : Frame := sector (cls + 256 * i + 65536 * j) (le 8 x)

/-- A chip that runs, both of its ports the host's. -/
def running : State := { State.reset with power := .run, hostPort := 3 }

/-- `Claims.Welcome`, as a test. -/
def welcome (s : State) (f : Frame) (cmd : Nat) : Bool :=
  decide (s.power = .run) && s.hostQ.isEmpty && decide (f.port ≤ 1) && (!hostPortOnly cmd || s.hostPort.getLsbD f.port) && decide (f.ver = 1) &&
    !frameMalformed f cmd && (!carriesData cmd || cmd == 1 || !anyFails f)

theorem welcome_iff {s : State} {f : Frame} {cmd : Nat} (h : welcome s f cmd = true) : Welcome s f cmd := by
  simp only [welcome, Bool.and_eq_true, Bool.or_eq_true, decide_eq_true_eq, Bool.not_eq_true', List.isEmpty_iff, beq_iff_eq] at h
  obtain ⟨⟨⟨⟨⟨⟨h1, h2⟩, h3⟩, h4⟩, h5⟩, h6⟩, h7⟩ := h
  refine ⟨h1, h2, h3, fun h => ?_, h5, h6, fun h h' => ?_⟩
  · rcases h4 with h4 | h4
    · simp [h] at h4
    · exact h4
  · rcases h7 with (h7 | h7) | h7
    · simp [h] at h7
    · exact absurd h7 h'
    · exact h7

/-- WRITE of sectors that pass their check and of one that fails it; READ of poison and of what holds none. -/
def sectors : Frame := request 0x1840 ((List.range 96).map fun i => BitVec.ofNat 8 (7 * i + 1)) 96
def spoilt : Frame := { sectors with chk := [sectors.chk.getD 0 0, (sectors.chk.getD 1 0) ^^^ 1, sectors.chk.getD 2 0] }
def poisoned : State := { after (execWrite spoilt running) with out := [], hostQ := [] }

theorem test_witness_write_read : welcome running sectors 1 = true ∧ welcome running spoilt 1 = true ∧ anyFails spoilt = true ∧
    running.rangeWaits 0x1840 96 = false ∧ welcome poisoned (request 0x1840 [] 96) 2 = true ∧ poisoned.rangeWaits 0x1840 96 = false ∧
    poisoned.anyPoison 0x1840 96 = true ∧ poisoned.poisonAt 0x1840 = false ∧ welcome poisoned (request 0x1840 [] 32) 2 = true := by decide +kernel

/-- SUBMIT: another tenant's record, a bad one, a full table, a free slot. -/
def submission : Frame := request 0 (bytes recordBytes) 512
def partitioned : State := { running with parts := [(0, ⟨1, 0x40⟩)] }
def tasked (n : Nat) (st : TaskSt) (e : Option EndInfo) : State :=
  { partitioned with subNext := n + 1, tasks := (List.range n).map fun k =>
    (k, { Task.fresh (k + 1) (Record.parse submission.data) 0 (some 0) [] with st := st, endInfo := e }) }

theorem test_witness_submit : welcome partitioned submission 3 = true ∧ welcome partitioned { submission with tenant := 1 } 3 = true ∧
    (Record.parse submission.data).tenant = 0 ∧ running.recordBad submission.data = true ∧ partitioned.recordBad submission.data = false ∧
    partitioned.task? 0 = none ∧ (List.range Config.inFlight).all (fun n => ((tasked Config.inFlight .held none).task? n).isSome) = true := by decide +kernel

/-- CANCEL and RETRY of a task in each state, and of none. -/
def tagOf1 : Frame := request (taskTag 1 2).toNat [] 0

theorem test_witness_cancel_retry : [(TaskSt.edged, (none : Option EndInfo)), (.waiting, none), (.held, none), (.running, none), (.retiring, none),
      (.waiting, some ⟨.lease, 0, 0, 0, 0⟩)].all (fun p => let s := tasked 3 p.1 p.2
        welcome s tagOf1 4 && welcome s tagOf1 5 && (s.tagged tagOf1.addr).any fun e => decide (e.1 = 1 ∧ e.2.st = p.1 ∧ e.2.endInfo = p.2)) = true ∧
    ((tasked 1 .held none).tagged tagOf1.addr).isNone = true := by decide +kernel

/-- CFGW of every class: accepted and refused values. -/
theorem test_witness_cfgw : [cfg 1 31 15 1, cfg 1 0 0 0xFFF7, cfg 2 5 0 0x12345001, cfg 2 15 0 (2 ^ 42 + 1), cfg 3 1 1 0x40, cfg 3 1 0 1, cfg 4 7 0 1, cfg 8 7 0 17,
      cfg 5 4 0 0x1100, cfg 5 4 1 0x8000, cfg 5 4 2 0x2000, cfg 5 4 3 1, cfg 6 80 0 0x1000000200003, cfg 7 0 0 0x30002].all (fun f => welcome running f 6) = true ∧
    (let s := { running with parts := [(0, ⟨1, 0x40⟩)] };
      s.partOk 1 { s.partOf 1 with word1 := 0x40 } && !s.partOk 1 { s.partOf 1 with cores := 1, word1 := 0x40 } &&
        decide (s.runsWhere (fun c => (s.removedCores (cfg 3 1 1 0x40)).getLsbD c) = [])) = true := by decide +kernel

/-- CFGR of every class that has a value, at the ends of its indexes, of the temperature, and of no class. -/
theorem test_witness_cfgr : [0x0F1F01, 0x0F02, 0x010F03, 4, 0x030F05, 0x5006, 7, 0x0F08, 0x010A, 9, 0x0300].all
    (fun a => welcome running (request a [] 0) 7) = true := by decide +kernel

theorem test_witness_registers : [(1, 31, 15), (2, 15, 0), (3, 15, 1), (4, 0, 0), (5, 15, 3), (6, 80, 0), (7, 0, 0), (8, 15, 0), (10, 1, 0)].all
    (fun e => (registerValue running e.1 e.2.1 e.2.2).isSome) = true := by decide +kernel

/-- Tables for tenant 0: pages 0x5000 and 0x7000 in frame 0x20, a discarded page 0x6000, a large page at 0x200000. -/
def mapped (s : State) : State :=
  { withBytes 0x13000 (List.replicate 40 0 ++ le 8 0x2001F ++ le 8 0x2105F ++ le 8 0x2001F) (withBytes 0x12000 (le 8 0x13001 ++ le 8 0x40001F)
      (withBytes 0x11000 (le 8 0x12001) (withBytes 0x10000 (le 8 0x11001) s))) with troot := [(0, 0x10001)] }

/-- A PAGE command of one page. -/
def paging (va op leaf : Nat) : Frame := sector va (le 4 op ++ le 4 4096 ++ le 8 leaf)

theorem test_witness_page : [(PageOp.unmap, 0, 0), (.protect, 1, 0x24), (.discard, 2, 0), (.migrate, 3, 0x3001F)].all (fun (op, code, leaf) =>
    let f := paging 0x5000 code leaf
    let c : PageCmd := ⟨f, op, 0x5000, 4096, BitVec.ofNat 64 leaf⟩
    welcome (mapped running) f 8 && decide (f.num 0 4 = code ∧ f.num 4 4 = 4096 ∧ f.num 8 8 = leaf) && (mapped running).pinsClear c &&
      (op != .migrate || (!c.leafBad 0 && !c.toMetadata))) = true ∧
    decide ((mapped running).leafEntry 0 0x5000 = some (0x13028, 0, 0x2001F)) = true ∧
    (mapped running).isLocal (0x30 * 4096) = true ∧ leafDisc 0x2001F = false ∧
    (welcome running (paging 0x5000 4 0) 8 && decide (3 < (paging 0x5000 4 0).num 0 4)) = true := by decide +kernel

/-- A PAGE command that waits to change a part of a large page; with and without a frame for the table. -/
def split7 : PageCmd := ⟨paging 0x201000 1 7, .protect, 0x201000, 4096, 7⟩
def splitting (pool : List Nat) : State := { mapped running with hostQ := [⟨.page, split7.frame⟩], tablePool := pool }

theorem test_witness_splinter : [[0x50, 0x51, 0x52, 0x53, 0x54], []].all (fun pool => let s := splitting pool
    s.clocked && decide (s.cmdReady = some 0) && (s.hostQ.head?.bind HostReq.pageCmd? == some split7) &&
      (s.hostQ.head?.any fun q => (s.refusal q.frame q.cmd).isNone) && s.canSplit split7) = true ∧
    ∃ t, State.splitFor split7 5 (splitting [0x50, 0x51, 0x52, 0x53, 0x54]) = some t :=
  ⟨by decide +kernel, State.splitFor_enough _ _ _ (by decide)⟩

/-- PAIR, unpair, POWER, REPAIR, ATTEST, a code of no command. -/
theorem test_witness_chip_commands :
    [0, 7].all (fun p => [0, 1].all fun v => welcome running (sector p (le 8 v)) 9 && running.pairReleased p && decide (running.runsWhere (inPair p) = [])) = true ∧
    [0, 1, 2, 3, 4, 5, 6].all (fun b => let f := sector 0 [b, 0, 3, 0]; welcome running f 10 && decide (f.byte 0 = b ∧ f.byte 1 = 0 ∧ f.num 4 4 = 0 ∧ f.num 2 2 = 3)) = true ∧
    running.runsWhere (fun _ => true) = [] ∧ running.pairBusy 3 = false ∧ State.pairBusy { standing .trap with paired := 1 } 3 = true ∧
    welcome { standing .trap with paired := 1, hostPort := 3 } (sector 0 [4, 0, 3, 0]) 10 = true ∧
    [0, 11, 12].all (fun a => welcome running (sector a [1, 2, 3]) 11) = true ∧ welcome running (sector 0 []) 12 = true := by decide +kernel

/-- Ports with a gate list; links that are up and down; a task with a page on another chip. -/
def linked (l : Link) : State := { running with eth := [{ Eth.reset with gates := [(100, 3), (200, 0xF0)], gatePos := 1 }, Eth.reset], links := [l, Link.reset, Link.reset] }
def upLink (retries : Nat) : Link := { Link.reset with up := true, low := true, high := true, chans := Link.reset.chans.map fun c => { c with retries := retries } }

/-- A task with a page on the chip at the end of a link. -/
def covered : State :=
  { linked .reset with tasks := [(0, { Task.fresh 1 { fetchRecord with leases := [⟨0x5000, 0x1000, true, true, true⟩] } 0 none [] with
      st := .running, pins := [⟨5, 0, BitVec.ofNat 64 (0x1F + 2 ^ 42 * (linked .reset).peerOf 0), false⟩] })] }

theorem test_witness_links : ((linked (upLink 15)).eth[0]?.any fun p => (p.gates[p.gatePos]?).isSome && (p.gates[(p.gatePos + 1) % p.gates.length]?).isSome) = true ∧
    [(upLink 0, 1), (upLink 15, 16)].all (fun e => (linked e.1).links[0]?.any fun l => l.up && decide ((l.chans.getD 3 .reset).retries + 1 = e.2)) = true ∧
    ((linked .reset).links[0]?.any fun l => !l.up && !l.lost) = true ∧ (linked .reset).supervised = true ∧ (linked .reset).links.all (fun l => !l.lost) = true ∧
    ((covered.task? 0).any fun t => (covered.lostVa t (covered.peerOf 0)).isSome && !covered.dead.getLsbD (covered.peerOf 0) &&
      !covered.unreach.getLsbD (covered.peerOf 0)) = true ∧
    State.reset.supervised = false ∧ running.power ≠ .off ∧ running.power ≠ .stopped := by decide +kernel

/-- Errors, entries, buckets, lines and ways that the events name. -/
theorem test_witness_errors : running.supervised = true ∧ running.clocked = true ∧
    (let s := { running with classif := [(3, [⟨1, 2, 3, 10⟩, ⟨1, 2, 4, 5⟩])] }; ((s.classif.val [] 3)[1]?).isSome) = true ∧
    (let b := (State.buckets { running with buckets := [(7, { Bucket.reset with fill := 15 })] }).val .reset 7;
      decide (b.leak ≠ 0 ∧ b.fill ≠ 0 ∧ b.fill < b.mark ∧ b.mark ≤ b.fill + 1)) = true ∧
    ((Bucket.reset.mark ≤ Bucket.reset.fill) ∨ (Bucket.reset.fill + 1 < Bucket.reset.mark)) ∧
    5 * 128 < Config.metaBase ∧ (running.pickWay 5 2).isSome = true ∧
    (let s := onTrain (fun tr => { tr with outst := [⟨66, 0, 0x1000, none, 0, .ld 8 3 5 0 0 7, 0, 1, 0, [⟨4, 0x1800, [.glob 0x1800], false, none, false, 33, false, 1, 0⟩],
        [], 0, none, none, [], false, [], 0, none⟩] }) (standing .trap);
      s.clocked && s.requires 48 0 && !s.holdsLine 48 && (s.pickWay 48 0).isSome) = true ∧
    (State.pickWay { running with wayMask := [(16 * homeSlice (5 * 128) + 2, ⟨0, false, 0⟩)] } 5 2).isNone = true ∧
    (let s := { running with l2 := [⟨5, 3, 2, 0xF, 0, none⟩], wayMask := [(16 * homeSlice (5 * 128) + 2, ⟨0xFFF7, true, 8⟩)] };
      s.linesIn (homeSlice (5 * 128)) 2 (s.wayMaskOf (homeSlice (5 * 128)) 2).removed ≠ []) = true := by decide +kernel

theorem test_witness_remote : running.pullPending (running.boxPa 0x1840) = false ∧ running.anyPoison 0x1840 8 = false ∧
    running.flagged (running.boxPa 0x1840) = false := by decide +kernel

/-! ### Hypotheses that can be met: events -/

/-- A marker, the response of an atomic at another chip, a load of a context that has left its core. -/
def marked : State := onTrain (fun tr => { tr with markers := [⟨.chip 2, 70, false⟩, ⟨.slice 4, 70, false⟩] }) (standing .trap)

theorem test_witness_markers : (marked.train? 0 0).any (fun tr => [Dest.chip 2, .slice 4].all fun d => (tr.marker? d).any (fun m => !m.acked) && !marked.destDead d &&
    tr.sb.isEmpty) = true := by decide +kernel

def answering (op : AtomOp) (i : Instr) : State :=
  { onTrain (fun tr => { tr with nextId := 80, outst := [⟨66, 0, 0x1000, none, 0, i, 0, 1, 0, [], [], 0, none, none, [9, 10], false, [], 0, none⟩] }) (standing .trap) with
    resp := [⟨9, 0, 0, 66, 4, 2 ^ 42 * 2 + 0x1800, op, 5, 6, true, false, none⟩] }

theorem test_witness_responses : ([(.add, .atomAdd 8 3 5 0 7), (.cas64, .atomCas64 8 3 5 0 7), (.faddF32, .atomFaddF32 8 3 5 0 7)] : List (AtomOp × Instr)).all (fun e =>
    let s := answering e.1 e.2
    match s.resp[0]?, s.wg? 0, s.train? 0 0 with
    | some r, some g, some tr => r.ready && !s.isLocal r.pa && !s.destDead (.chip (chipOf r.pa)) && g.core?.isSome && (s.taskOf? g).any (fun t => !t.rcd.det &&
        decide (t.rcd.integ ≠ 2)) && (tr.outst? 66).any fun x => (atomParts x.insn).any fun p => p.1 == e.1
    | _, _, _ => false) = true := by decide +kernel

theorem test_witness_expiry : (let s := onWg (fun g => { g with place := .saved 0 }) (onTrain (fun tr => { tr with nextId := 80, outst := [⟨66, 0, 0x1000, none, 0, .ld 8 3 5 0 0 7, 0, 1, 0,
      [⟨4, 0x1800, [.glob 0x1800], false, none, false, 33, false, 1, 0⟩], [], 0, none, none, [], false, [], 0, none⟩] }) (standing .trap))
    (s.wg? 0).any (fun g => g.core?.isNone) && (s.train? 0 0).any fun tr => (tr.outst? 66).any fun x => (x.loads[0]?).any fun l => l.value.isNone && !l.expired) = true := by decide +kernel

/-- A page that a task holds and its core has not learned; a discarded page; a frame of a migration. -/
def holding : State := mapped (onSplit (fun q => { q with pc := 0x5000 }) (onTask (fun t => { t with pins := ⟨5, 0, 0x2001F, false⟩ :: t.pins }) (standing .trap)))

theorem test_witness_pages : (holding.wgs.find? fun g => g.core? == some 0).any (fun g => (holding.taskOf? g).any fun t => decide (t.rcd.tenant = 0) &&
      decide (t.pinFor 0x5000 = some ⟨5, 0, 0x2001F, false⟩) && holding.clocked && (holding.wgVas 0 0 t).any (fun va => va / 4096 == 5) && (holding.walkPull 0 0 0x5000).isNone) = true ∧
    (holding.tcLookup 0 0 0x5000).isNone = true ∧ holding.walk 0 0x5000 = .leaf 0 0x2001F ∧
    holding.leafEntry 0 0x6000 = some (0x13030, 0, 0x2105F) ∧ leafDisc 0x2105F = true ∧ holding.isLocal (leafFrame 0x2105F * 4096) = true ∧
    (let s := { holding with attrs := [(0x40, { Attr.initial 0x40 with pull := true, srcframe := 0x30 })], pulls := [32 * 0x40 + 31], revivals := [(0, 6)] };
      let a := s.attrOf 0x40
      s.pulls.contains (32 * 0x40 + 31) && s.revivals.contains (0, 6) && (s.pullOnWalk 0 0x6000 4 (bitsAt (s.troot.val 0 0).toNat 12 32)).isNone && a.pull && !a.lost && !a.pulled.getLsbD 31 && s.isLocal (0x40 * 4096) && s.isLocal (a.srcframe * 4096)) = true := by decide +kernel

/-- A fault that waits for its entry. -/
theorem test_witness_trap_entry : (let s := onTrain (fun tr => { tr with pend := some { FaultRec.reset with cause := .engine, pc := 0x1004, j := 7 } }) (withHandler (standing .trap))
    mayTrap .trap s && (s.train? 0 0).any fun tr => tr.pend.isSome && (tr.split? tr.hsplit).isSome) = true := by decide +kernel

/-- Spilled splits, a timer, an XSHC that waits. -/
theorem test_witness_waits : ((onTrain (fun tr => { tr with splits := tr.splits ++ [⟨70, 0x2000, 0, 0xF, 0xFF, 3, false, some 4, 0, 0, .ready, none, 0, none, none⟩] }) (standing .trap)).train? 0 0).any (fun tr =>
      tr.earliestSpilled.isSome && decide (tr.inTable.length < Config.splitTable)) = true ∧
    ((onSplit (fun q => { q with wait := .timer 88 }) (standing .trap)).train? 0 0).any (fun tr => (tr.split? 0).any fun q => decide (q.wait = .timer 88)) = true ∧
    (let w := (encode (.xshc 3 4 6 2)).getD 0
      let s := onWg (fun g => { g with wdg := 50 }) (onSplit (fun q => { q with wait := .xshc 20 w }) (standing .trap))
      decide (decode w = some (.xshc 3 4 6 2)) && (s.wg? 0).any (fun g => g.runs && decide (g.wdg ≠ 0)) &&
        (State.ctx? { s with clock := 70, cur := some ⟨0, 0, 0⟩, fetched := w } (.xshc 3 4 6 2)).isSome) = true := by decide +kernel

/-- Leaves and a root of a cluster barrier; a watchdog that is due. -/
def treeBar : Bar := { bar0 with scope := true, arrived := 2 }

theorem test_witness_trees : (let s := { withBar 3 treeBar (standing .trap) with roots := [⟨0, 0, 3, [0, 1], [], none, 0⟩] };
      (s.wg? 0).any fun g => let x := g.bar 3; x.scope && x.init && decide (x.arrived = x.expect ∧ x.pend = 0) && !x.sent && (s.root? g 3).isSome) = true ∧
    (let s := { withBar 3 { treeBar with sent := true } (standing .trap) with roots := [⟨0, 0, 3, [0, 1], [], none, 0⟩] };
      (s.wg? 0).any fun g => (g.bar 3).sent && (s.root? g 3).any fun r => decide (0 ∈ r.members ∧ 0 ∉ r.arrived)) = true ∧
    (let s := onWg (fun g => { g with wdg := 50 }) (onSplit (fun q => { q with wait := .barrier 3 false }) (withBar 3 { bar0 with arrived := 1, since := some 10 } (standing .trap)));
      (s.watchDue 0 3).isSome && (s.wg? 0).any fun g => decide (g.mode = .primary) && (s.taskOf? g).isSome) = true := by decide +kernel

/-! ### Hypotheses that can be met: the units beside the cores -/

/-- The one command of a streamer, of a sequencer. -/
def command (k : StrKind) (pos : Nat) (started : Bool) : StrCmd :=
  ⟨70, 0, 0, k, some 3, true, started, pos, false, none, 64, false, true, origin (.nop 0), none, none⟩
def streaming (q : StrCmd) : State :=
  { strBar (onRecord (fun r => { r with scratch := 0x1000 }) (standing .trap)) with strQ := [q], nextId := 80 }

/-- What the claims about the streamer ask of every command of theirs. -/
def atStr (s : State) (p : StrCmd → Wg → Task → Train → Bool) : Bool :=
  match s.strCmd? 70, s.wg? 0, s.train? 0 0 with
  | some q, some g, some tr => (s.taskOf? g).any fun task => decide (q.id = 70) && s.atWork q.w && s.engineQuiet q.w q.t && p q g task tr
  | _, _, _ => false

/-- A copy of 24 bytes that crosses a line of the scratchpad; the same to a page of another chip; a collective of chips 0 and 1. -/
def toShare : StrKind := .linear true 0xA000000000000170 0x1000 24
def toGlobal : StrKind := .linear false 0x1000 0xA000000000000170 24
def gather : StrKind := .coll 0 ⟨0x1800, 0x1C00, 16, 3, 0, 0, 7⟩ 0
def tileCopy : StrKind := .tile 2 ⟨0, 0, 2, 0, true, true, 0, [32, 32, 1, 1, 1], [32, 0, 0, 0], [4, 32, 1, 1, 1]⟩ [0, 0] 0
def gathering (p : Contribution) : State :=
  { streaming (command gather 0 true) with colls := [⟨5, 0, 0, 7, 70, none, [(1, p)]⟩] }

theorem test_witness_streamer_start : [toShare, gather, tileCopy].all (fun k => atStr (streaming (command k 0 false)) fun q _ _ _ =>
      !q.started && q.ready && decide (q.sent = none) && (streaming q).forkClear q.w q.t q.fence && (streaming q).seqQ.isEmpty) = true := by decide +kernel

theorem test_witness_streamer_unit : [(0, 16), (16, 8)].all (fun (pos, n) => let s := streaming (command toShare pos true);
      atStr s fun q g task _ => q.started && !s.strMoved q && (s.strBefore q).isEmpty && !s.collLost q g task.rcd &&
        decide (g.mode = .primary ∧ task.rcd.integ < 2 ∧ (s.wg? 0).isSome ∧ n = min (128 - (0x170 + pos) % 128) (24 - pos)) &&
        (match s.engBytes g task q.hand ⟨[], [], []⟩ 0 ((List.range n).map fun i => 0x1000 + pos + i) with
          | .ok xs => xs.all fun x => !x.2
          | _ => false) && (match s.engLocs 0 (0xA000000000000170#64 + BitVec.ofNat 64 pos) n with
          | .ok l => decide (l = (List.range n).map fun i => Loc.share 0 (0x170 + pos + i)) && decide (s.absentLines (partLines l) = [])
          | _ => false)) = true := by decide +kernel

/-- A unit whose writes are on their way, one that fails, one that meets a cause, and the end of the first. -/
theorem test_witness_streamer_outcomes : (let s := away (streaming (command toGlobal 0 true));
      atStr s fun q g task tr => match s.strUnit q g task ⟨[], [], []⟩ with
        | .ok v _ _ => (v.train? 0 0).any fun tr' => tr'.sb.any fun e => decide (tr.nextId ≤ e.id)
        | _ => false) = true ∧
    (let s := streaming (command (.linear false 0x1000 0xA000000000001000 24) 0 true);
      atStr s fun q g task _ => match s.strUnit q g task ⟨[], [], []⟩ with
        | .fail _ => true
        | _ => false) = true ∧
    (let s := streaming (command (.linear true 0xA000000000000170 0x9000 24) 0 true);
      atStr s fun q g task _ => match s.strUnit q g task ⟨[], [], []⟩ with
        | .ends cause _ => decide (cause = .lease)
        | _ => false) = true ∧
    (let s := streaming { command toGlobal 16 true with sent := some (70, 72, 8) };
      atStr s fun q _ _ tr => q.started && decide (q.sent = some (70, 72, 8)) && tr.sb.isEmpty) = true ∧
    (let s := { gathering ⟨[1], [], false, ⟨16, 3, 0, 0, 0⟩⟩ with dead := 2 };
      atStr s fun q g task _ => q.started && s.collLost q g task.rcd) = true := by decide +kernel

theorem test_witness_streamer_end : (let s := streaming (command toShare 24 true);
      atStr s fun q _ _ _ => q.started && s.strMoved q && s.barRoom 0 3 && q.arv) = true ∧
    ([({ command tileCopy 4096 true with failed := true } : StrCmd), { command tileCopy 4096 true with mstrId := some 71 }, command tileCopy 4096 true].all fun q =>
      let s := streaming q; atStr s fun q _ _ tr => q.started && s.strMoved q && s.barRoom 0 3 && s.seqQ.isEmpty && (tr.outst? 66).isNone &&
        decide ((q.mstrId, q.failed) ∈ [(none, true), (some 71, false), (none, false)])) = true ∧
    (let s := streaming { command gather 0 true with failed := true }; atStr s fun q _ _ _ => q.started && s.strMoved q && q.failed) = true := by decide +kernel

/-- Another participant's part, and its word that it has read. -/
theorem test_witness_collectives : (let s := { gathering ⟨[1], [], false, ⟨16, 3, 0, 0, 0⟩⟩ with colls := [⟨5, 0, 0, 7, 70, none, []⟩] };
      (s.colls.find? fun x => x.id == 5).any fun k => decide (1 ≠ s.chipId ∧ k.parts.look 1 = none) && (s.takeFlit 1 2).collNext k 1 false) = true ∧
    (let s := gathering ⟨[1], [], false, ⟨16, 3, 0, 0, 0⟩⟩;
      (s.colls.find? fun x => x.id == 5).any fun k => (k.parts.look 1).isSome && (s.takeFlit 1 2).collNext k 1 true &&
        !(s.takeFlit 1 2).collNext k 1 false) = true := by decide +kernel

/-- An instruction in the sequencer's queue. -/
def queued (i : Instr) (pos : Nat) (started : Bool) : State :=
  { matrixSlots (standing .trap) with seqQ := [⟨70, 0, 0, i, 0x1000, 7, 0, 0, false, false, started, pos, none, 64, 0, 66, none, []⟩], nextId := 80 }

/-- What the claims about the sequencer ask of every instruction of theirs. -/
def atSeq (s : State) (p : SeqCmd → Wg → Task → Train → Bool) : Bool :=
  match s.seqCmd? 70, s.wg? 0, s.train? 0 0 with
  | some q, some g, some tr => (s.taskOf? g).any fun task => s.seqTurn q && decide (q.cpym = none ∧ q.outst ≠ 0 ∧ g.mode = .primary ∧ task.rcd.integ < 2) && p q g task tr
  | _, _, _ => false

theorem test_witness_sequencer : ([.tld 2 0 0 0 0 0 1, .tzr 2 2 2 3 0 0, .lstat 2 0 0 0, .plsw 0, .azr 2 3 0, .ard 2 0 2 3 0 0] : List Instr).all (fun i =>
      atSeq (queued i 0 false) fun q g task _ => !q.started && (queued i 0 false).seqReady q g task.rcd && !isMstr q.insn) = true ∧
    ([(.tzr 2 0 2 3 0 0, 31), (.ard 2 1 2 3 0 0, 0), (.ard 2 1 2 3 0 0, 31), (.awr 2 0 2 3 0 0, 31)] : List (Instr × Nat)).all (fun e => let s := queued e.1 e.2 true;
      atSeq s fun q g task _ => q.started && decide (q.fault = none ∧ q.pos < s.seqUnits q g task.rcd ∧ q.pos < 32) &&
        decide (64 ≤ perRow (slotFmt (task.rcd.slotW 0))) && match s.seqUnit q g task.rcd ⟨[], [], []⟩ with
          | .ok _ => true
          | _ => false) = true ∧
    (let s := queued (.tzr 2 0 2 3 0 0) 32 true; atSeq s fun q g task _ => q.started && s.seqDone q g task.rcd && decide (q.fault = none)) = true := by decide +kernel

/-- A row of TLD; one without a lease, whose instruction is outstanding. -/
theorem test_witness_tld : [0, 31].all (fun pos => let s := queued (.tld 2 0 0 0 0 0 1) pos true;
      atSeq s fun q g task _ => decide (q.fault = none ∧ q.pos < s.seqUnits q g task.rcd ∧ spaceOf q.addr = .glob 0x1000) &&
        match s.engBytes g task q.hand ⟨[], [], []⟩ 0 ((List.range 128).map fun b => 0x1000 + 128 * q.pos + b) with
        | .ok xs => decide (xs.length = 128)
        | _ => false) = true ∧
    (let s := onTrain (fun tr => { tr with outst := [origin (.tld 2 0 0 0 0 0 1)] }) (queued (.tld 2 0 0 0 0 0 1) 0 true);
      let s := { s with seqQ := s.seqQ.map fun q => { q with addr := 0x9000 } };
      atSeq s fun q g task tr => (tr.outst? q.outst).isSome && match s.seqUnit q g task.rcd ⟨[], [], []⟩ with
        | .ends cause _ => decide (cause = .lease)
        | _ => false) = true := by decide +kernel

/-- An active plane of `w` columns. -/
def planed (w : Nat) (s : State) : State := onWg (fun g => { g with active := { g.active with w := w, k := 1, slot := 0 } }) s

theorem test_witness_mstr : ([(64, .mstr 2 0 2 3 0 0, false), (32, .mstrN32 2 0 2 3 0 0, false), (0, .mstr 2 0 2 3 0 0, true)] : List (Nat × Instr × Bool)).all (fun (w, i, refused) =>
      let s := planed w (queued i 0 false);
      atSeq s fun q g task _ => s.seqReady q g task.rcd && decide (s.mstrSums q.w g task.rcd = [(0, [(0, 0)])]) &&
        (mstrOperands q.insn).any fun m => g.active.refuses task.rcd (task.rcd.slotW m.2.2.1) m.2.2.2 == refused) = true ∧
    ([(64, .mstr 2 0 2 3 0 0), (32, .mstrN32 2 0 2 3 0 0)] : List (Nat × Instr)).all (fun (w, i) => let s := planed w (queued i 0 true);
      atSeq s fun q g task _ => q.started && decide (q.fault = none ∧ q.idx + 2 ≤ 256 ∧ s.mstrSums q.w g task.rcd = [(0, [(0, 0)])]) &&
        (mstrOperands q.insn).any fun m => decide (0 < depthOf (slotFmt (task.rcd.slotW m.2.2.1)) / chunkTerms (slotFmt (task.rcd.slotW m.2.2.1)))) = true ∧
    (let s := queued (.mstr 2 0 2 3 0 0) 0 true; let s := { s with seqQ := s.seqQ.map fun q => { q with fault := some (.illegal, 0) } };
      atSeq s fun q g task _ => s.seqDone q g task.rcd && q.fault.isSome) = true := by decide +kernel

/-! ### Hypotheses that can be met: snapshots and records -/

/-- Two and four levels, one of them with a line of its own. -/
def levels2 : List Level := [⟨2, 3, [(0x1000, 0x1000)], false⟩, ⟨1, 2, [(0x1000, 0x1000)], false⟩]
def domain2 : Domain := ⟨100, 90, levels2, [⟨0x30, List.replicate 128 5, 0, 0, 2⟩, ⟨0x34, List.replicate 128 6, 0, 0, 1⟩], [], [], []⟩
def domain4 : Domain := ⟨100, 90, [⟨4, 5, [], false⟩, ⟨3, 4, [], false⟩] ++ levels2, [], [], [], []⟩

/-- A command of the snapshot unit at its domain's head; the list of one range that a SNAP names. -/
def commanded (i : Instr) (d : Domain) (op : Nat) (f : State → State) : State :=
  withDomain { d with queue := [⟨70, 0, 0, i, BitVec.ofNat 64 op, 64, false⟩] } (f (standing .trap))
def rangeOf (base : Nat) (s : State) : State := withBytes 0x1900 (le 8 1 ++ le 8 base ++ le 8 0x1000) s

/-- What the claims about the snapshot unit ask of every command of theirs. -/
def atSnap (s : State) (p : Domain → SnapCmd → Wg → Task → Train → Bool) : Bool :=
  (s.doms.look 0).any fun d => d.queue.head?.any fun q => (s.wg? q.w).any fun g => (s.taskOf? g).any fun t =>
    (s.train? q.w q.t).any fun tr => s.clocked && s.forkClear q.w q.t q.fence && p d q g t tr

theorem test_witness_snap : [(domain0, 0x1000, true), (domain4, 0x9000, false)].all (fun (d, base, ok) => let s := commanded (.snap 3 5 0) d 0x1900 (rangeOf base);
      atSnap s fun d q g task tr => let vas := (List.range 136).map fun i => q.op.toNat + i;
        (s.missing g task tr.hmode vas).isNone && decide ((s.core g.lastCore).inbox = [] ∧ q.insn = .snap 3 5 0) &&
        decide ((d.levels.filter fun l => l.n != 0).length ≤ 4) &&
        (match s.engBytes g task tr.hmode (s.fromCore g task tr.hmode vas) 0 vas with
          | .ok xs => (xs.all fun x => !x.2) && (rangeList (xs.map fun x => x.1)).any fun rs => (rs.all fun r => task.leased r.1 r.2) == ok
          | _ => false)) = true := by decide +kernel

theorem test_witness_levels : ([(.sqry 3 0 0, domain2, 0, false), (.sqry 3 5 0, domain2, 18, true), (.sqry 3 5 0, domain2, 19, false), (.sacc 5 0, domain2, 0x23, true), (.sacc 5 0, domain2, 0x33, false),
      (.srej 5 0 0, domain2, 0x23, true), (.srej 5 0 2, domain2, 0x33, false)] : List (Instr × Domain × Nat × Bool)).all (fun (i, d, op, ok) => let s := commanded i d op fun s => s;
      atSnap s fun d q _ _ tr => decide (q.insn = i) && ((d.named q.op).isSome == ok) && !q.released &&
        decide (tr.sb = [] ∧ tr.used = [] ∧ tr.markers = []) && decide ((d.entries.filter fun e => e.level == 2).length ≤ 1) && (d.entries.all fun e => e.data.length == 128) &&
        (!ok || match i with
          | .sqry _ _ _ => true
          | _ => decide (d.named q.op = d.levels.head?) && (d.levels.head?.any fun v => !v.broken && d.levels.tail.all fun x => decide (x.n < v.n)))) = true ∧
    (let s := commanded (.srej 5 0 4) domain2 0x23 (onTrain fun tr => { tr with used := [.chip 2] });
      atSnap s fun d q _ task tr => (d.named q.op).isSome && decide (s.runScope task.rcd.tenant 4 ≠ 0) &&
        tr.used.any fun x => markerInScope (s.runScope task.rcd.tenant 4) x && (tr.marker? x).isNone && !s.destDead x) = true := by decide +kernel

/-- A queue at 0x1800 and a record for it. -/
def record (type evq : Nat) : Post :=
  { slot := 0, sub := 1, type := type, cause := 3, evq := BitVec.ofNat 64 evq, task := 0x77, tenant := 0, port := none, elapsed := 5, payload := [], outst := none }
def recording (head tail : Nat) (p : Post) : State :=
  { withBytes 0x1800 (le 4 8 ++ le 4 0 ++ le 8 head ++ le 8 tail ++ List.replicate 40 0) (standing .trap) with posts := [p], hostPort := 1 }

theorem test_witness_records : [(5, true), (11, false)].all (fun e => let s := recording 3 e.1 (record 1 0x1800);
      (s.task? 0).any fun task => match s.findQueue 0 task false 0x1800 with
        | .here off h false => !h.bad && decide (0 < h.cap) && !s.postBehind 0 (record 1 0x1800) && (decide ((h.tail + 2 ^ 64 - h.head) % 2 ^ 64 ≠ h.cap) == e.2) &&
          (match s.reach 0 task false (0x1800 + 64 + 64 * (h.tail % h.cap)) .store with
            | .ok pa false _ => (s.walkPull 0 0 (0x1800 + 64 + 64 * (h.tail % h.cap))).isNone && !s.pullPending pa && !s.pullLost pa && s.isLocal pa && decide (offOf pa + 64 ≤ off ∨ off + 64 ≤ offOf pa)
            | _ => false)
        | _ => false) = true ∧
    (let s := withBytes 0x1900 (le 4 7 ++ le 4 0) (recording 3 5 (record 1 0x1900)); (s.task? 0).any fun task => match s.findQueue 0 task false 0x1900 with
        | .here _ h _ => h.bad
        | _ => false) = true ∧ (record 1 0x1900).outst = none ∧ (recording 3 5 (record 1 0)).clocked = true ∧
    ((recording 3 11 (record 2 0x1800)).posts[0]?.any fun p => decide (p.type = 2)) = true ∧ (record 2 0).evq = 0 ∧ (record 2 0).type = 2 ∧ (record 4 0).evq = 0 ∧ (record 4 0).type ≠ 2 := by decide +kernel

/-! ### Hypotheses that can be met: placement and tasks -/

/-- The one workgroup at a place. -/
def placed (p : Place) (s : State) : State := onWg (fun g => { g with place := p }) s

/-- A Ready task of one train of 32 threads. -/
def readyTask : Task := { Task.fresh 1 (Record.parse (bytes recordBytes)) 0 (some 0) [] with st := .ready }
def idle : State := { running with parts := [(0, ⟨3, 0x40⟩)], tasks := [(0, readyTask)], subNext := 2 }
def resumable : State := { onRecord (fun r => { r with matrix := false }) (placed (.saved 0) (standing .trap)) with parts := [(0, ⟨3, 0x40⟩)] }
def sliced : State := { standing .trap with parts := [(0, ⟨1, 0x140⟩)], tasks := (standing .trap).tasks ++ [(1, { readyTask with sub := 2 })] }

theorem test_witness_preemption : ((standing .trap).wg? 0).any (fun g => ((standing .trap).partner? 0 g).isNone && decide (g.place = .resident 0 0)) = true ∧
    [Place.halting 0 0, .halted 0 0].all (fun p => ((placed p (standing .trap)).wg? 0).any fun g => decide (g.place = p) && ((placed p (standing .trap)).partner? 0 g).isNone &&
      ((placed p (standing .trap)).taskOf? g).isSome && State.atBoundary (placed p (standing .trap)) 0) = true ∧
    ((onWg (fun g => { g with asked := true }) (standing .trap)).wg? 0).any (fun g => g.asked) = true ∧
    State.atBoundary (placed (.halting 0 0) (onSplit (fun q => { q with pfx := some ⟨.immx 3, 0x1000, 0⟩ }) (standing .trap))) 0 = false ∧
    sliced.clocked = true ∧ (sliced.sliceDue 0).isSome = true ∧ sliced.withUnit 0 = [0] ∧ (sliced.wg? 0).any (fun g => (sliced.partner? 0 g).isNone) = true := by decide +kernel

theorem test_witness_dispatch : (let s := idle; let t := readyTask;
      s.clocked && s.wgs.isEmpty && s.trains.isEmpty && t.endInfo.isNone && s.partFits t.rcd && decide (t.rcd.integ = 0) && !t.rcd.coop && !t.rcd.det && !t.rcd.matrix &&
      decide (t.rcd.wgcount = 1 ∧ t.rcd.ntrn = 1 ∧ t.rcd.wgthr ≤ 32 ∧ t.nextWg = 0 ∧ t.ahead = [] ∧ t.redo = [] ∧ t.rcd.prio ≤ 7 ∧ t.site = none) && !t.draining && !t.dispatched &&
      ((s.partCores t.rcd.part).head?.any fun core => s.roomOn 0 t core) && decide ((s.hdesc.val ⟨0, 0, 0, 0⟩ t.rcd.tenant).vec = 0) &&
      (s.allocPriv t.rcd.privSize).isSome && !t.serial) = true ∧
    (let s := resumable; (s.wg? 0).any fun g => (s.taskOf? g).any fun t => s.clocked && g.isSaved && decide (g.mode = .primary ∧ g.yielded = none ∧ t.rcd.integ = 0) && !t.rcd.coop &&
      !t.rcd.matrix && t.endInfo.isNone && t.site.isNone && s.partFits t.rcd && decide (t.st = .ready ∨ t.st = .running) && decide (t.rcd.wgcount ≤ t.nextWg ∧ t.rcd.prio ≤ 7) &&
      ((s.partCores t.rcd.part).head?.any fun core => s.canResume false 0 t [0] [core])) = true := by decide +kernel

/-- A task whose leases are being resolved, of a task record with little in it. -/
def resolving (bases : List Nat) (lehr : Nat) : State :=
  { mapped running with tasks := [(0, { readyTask with st := .resolving, rcd := { readyTask.rcd with
      lehr := lehr, leases := bases.map fun b => ⟨b, 0x1000, true, true, false⟩ } })], subNext := 2 }

/-- What its leases resolve to: pins, a code, a lost page. -/
def resolution (s : State) (p : Task → List HeldPage → Bool) : Nat :=
  match s.task? 0 with
  | some t => match s.resolveHolds t.rcd.tenant (t.rcd.holds (s.windowOf t.rcd.tenant)) with
    | .ok ps => if p t ps then 1 else 0
    | .error (.code _ _ _ _) => if (s.lostHold t.rcd.tenant (t.rcd.holds (s.windowOf t.rcd.tenant))).isSome then 4 else 2
    | .error (.lost _) => 3
  | none => 0

theorem test_witness_leases : (let s := resolving [0x5000] 0; s.clocked && decide (resolution s (fun t ps => decide (t.endInfo = none ∧ t.rcd.lehr = 0) &&
      (ps.any fun p => p.frame == 0x20) && !s.behindCommand ps) = 1)) = true ∧
    (let s := { resolving [0x5000] 0 with attrs := [(0x20, { Attr.initial 0x20 with pins := 255 })] };
      decide (resolution s (fun _ ps => decide (255 < (s.attrOf 0x20).pins.toNat + (ps.filter fun p => p.frame == 0x20).length)) = 1)) = true ∧
    decide (resolution (resolving [0x9000] 0) (fun _ _ => false) = 2) = true ∧
    decide (resolution { resolving [0x5000] 0 with dead := 15 } (fun _ _ => false) = 3) = true := by decide +kernel

/-- A task with a domain: one frame leased twice, a frame of another domain; a page that fails before one on a lost chip. -/
theorem test_witness_leases_more : decide (resolution (resolving [0x5000, 0x7000] 1) (fun t ps => decide (t.rcd.lehr ≠ 0) && (twoPages [] ps).isSome) = 1) = true ∧
    (let s := { resolving [0x5000] 1 with attrs := [(0x20, { Attr.initial 0x20 with domain := 3 })] };
      decide (resolution s (fun t ps => decide (t.rcd.lehr ≠ 0) && (twoPages [] ps).isNone && ps.any fun p => !p.window && decide ((s.attrOf p.frame).domain ≠ 0)) = 1)) = true ∧
    decide (resolution { resolving [0x9000, 0x5000] 0 with dead := 15 } (fun _ _ => false) = 4) = true := by decide +kernel

/-- A workgroup whose every train has ended; a task that retires. -/
def finishing : State := onTrain (fun tr => { tr with ended := true, splits := [] }) (onRecord (fun r => { r with matrix := false }) (standing .trap))
def retiring (n : Nat) (s : State) : State := onTask (fun t => { t with st := .retiring, retireStep := n }) s

theorem test_witness_ends_of_work : ((finishing.wg? 0).any fun g => (finishing.taskOf? g).any fun t => decide (g.mode = .primary ∧ g.place ≠ .ended ∧ t.rcd.integ = 0 ∧ t.rcd.audk = 0 ∧ t.endInfo = none) && !g.normal &&
      !t.rcd.matrix && finishing.runDone 0 && (finishing.partner? 0 g).isNone && finishing.regions.isEmpty) = true ∧
    (let s := onTask (fun t => { t with endInfo := some ⟨.trap, 1, 2, 3, 4⟩ }) (standing .trap); (s.task? 0).any fun t => t.endInfo.isSome && decide (t.retireStep = 0)) = true ∧
    (let s := after (execWorkgroupEnd 0 finishing); (s.task? 0).any fun t => s.allEnded 0 t && t.firstEnd.isNone && decide (t.rcd.integ = 0) && t.disagree.isNone && t.endInfo.isNone && decide (t.retireStep = 0)) = true ∧
    (retiring 2 (standing .trap)).clocked = true ∧
    State.released (retiring 2 (onTrain (fun tr => { tr with sb := [⟨3, [0], true, .slice 1, [], .sent, none, ⟨0, 0, 0⟩, false, 0, 0⟩] }) (standing .trap))) 0 0 = false ∧
    ((retiring 3 finishing).task? 0).any (fun t => decide (t.retireStep = 3)) = true ∧
    [([record 1 0], true), ([], false)].all (fun e => let s := { retiring 4 finishing with posts := e.1 }; (s.task? 0).any fun t => decide (t.retireStep = 4) && (s.posting 0 t.sub == e.2)) = true := by
  decide +kernel

/-- A task at level 2 whose interval is full; one that drains. -/
def checked (draining : Bool) : State :=
  let s := onTask (fun t => { t with interval := [0], draining := draining }) (withDomain domain0 (onRecord (fun r => { r with integ := 2, wgcount := 4, ckptn := 1 }) (standing .trap)))
  if draining then { s with wgs := [], trains := [] } else s

/-- A request of a checked pair before the other core's. -/
def asks (n v : Nat) : CmpReq := ⟨⟨5, 0, n⟩, .control [(4, BitVec.ofNat 32 v)], none, 3⟩
def compared (other : List CmpReq) : State :=
  { onTrain (fun tr => { tr with cmp := [asks 1 1, asks 2 1] }) (onRecord (fun r => { r with integ := 3 }) (standing .trap)) with
    cmps := if other.isEmpty then [] else [(1, other)], clock := 100 }

theorem test_witness_checking : [false, true].all (fun b => let s := checked b; (s.task? 0).any fun t => decide (t.st = .running ∧ 2 ≤ t.rcd.integ ∧ t.rcd.lehr ≠ 0 ∧ t.endInfo = none ∧ t.firstEnd = none) &&
      (t.draining == b) && (if b then s.drained 0 t && t.disagree.isNone else decide (t.ckpt ≤ t.interval.length ∧ t.nextWg < t.rcd.wgcount))) = true ∧
    [([], 0), ([asks 1 1], 1), ([asks 1 2], 2), ([asks 7 1], 0)].all (fun e => let s := compared e.1; (s.wg? 0).any fun g => (s.train? 0 0).any fun tr => (s.taskOf? g).any fun t =>
      (s.cmpKey 0 0 g).any (fun k => tr.cmp.head?.any fun r => match (s.cmps.val [] k.2).find? fun x => x.key == r.key with
        | none => decide (e.2 = 0) && decide (s.pairLoad g.lastCore < 256)
        | some x => if x.item = r.item then decide (e.2 = 1) else decide (e.2 = 2)) && g.core?.isSome && decide (t.endInfo = none ∧ t.rcd.lehr = 0)) = true ∧
    (let s := compared [asks 7 1]; (s.compareDue 0 0).isSome && (s.wg? 0).any fun g => (s.taskOf? g).any fun t => decide (t.endInfo = none ∧ t.rcd.lehr = 0)) = true := by decide +kernel

/-- A level-1 task with a digest to replay; a level-2 task without a lehr entry. -/
def audited (logged : Nat) : State :=
  { onTask (fun t => { t with fuse := 1, nextWg := 1, digests := [⟨0, .primary, 7, 0, 0, logged⟩] }) (onRecord (fun r => { r with integ := 1, matrix := false })
      (onWg (fun g => { g with place := .ended, normal := true }) (standing .trap))) with parts := [(0, ⟨7, 0x40⟩)] }

theorem test_witness_audit : [5, 5000].all (fun n => let s := audited n; (s.task? 0).any fun t => (s.unaudited 0 t 0).any (fun d => decide (d.logged = n ∧ d.core ≠ 1)) && s.clocked &&
      decide (t.rcd.integ = 1 ∧ t.endInfo = none ∧ t.fuse = 1) && s.partFits t.rcd && (s.logicalCores t).contains 1 && !s.reserved.contains 1 && s.roomOn 0 t 1 && (s.placeRun false 0 t 0 (s.lpidOf 0 t 0) 1 .replay).isSome) = true ∧
    (let s := onSplit (fun q => { q with wait := .lehr }) (onRecord (fun r => { r with integ := 2 }) (standing .trap)); (s.task? 0).any fun t =>
      decide (t.st = .running ∧ 2 ≤ t.rcd.integ ∧ t.rcd.lehr = 0 ∧ t.endInfo = none) && s.allWaitLehr 0 t) = true ∧
    [false, true].all (fun one => let s := withDomain domain0 (onTask (fun t => { t with one := one }) (onSplit (fun q => { q with wait := .lehr })
        (onRecord (fun r => { r with integ := 2 }) (standing .trap)))); (s.task? 0).any fun t =>
      decide (t.st = .running ∧ 2 ≤ t.rcd.integ ∧ t.rcd.lehr ≠ 0 ∧ t.endInfo = none) && (t.one == one) && s.allWaitLehr 0 t && !(s.rollback 0).2) = true := by decide +kernel

/-! ### Steps -/

/-- `Claims.IssuesNext` for a train that the agenda names. -/
theorem issues_next {s s0 : State} {w t : Nat} {rest : List Move} {r : Ready} (h1 : s.agenda = .issue w t :: rest)
    (h2 : Picks { s with agenda := rest } w t s0 r) : IssuesNext s s0 r := .inl ⟨w, t, rest, h1, h2⟩

/-- A word that decodes, one that does not, a fetch without a lease: the train issues next, and what it fetches. -/
def fetches (s : State) (f : Fetch → Bool) : Bool :=
  let s0 := (State.laneReady { s with agenda := [] } 0 0).foldl State.atIssue { s with agenda := [] }
  decide (s.agenda = [.issue 0 0]) && ((firstReady (s0.laneReady 0 0)).any fun r => decide (r.w = 0 ∧ r.t = 0 ∧ r.p = 0)) &&
    (State.ctx? { s0 with cur := some ⟨0, 0, 0⟩ } (.nop 0)).any fun c => f (State.fetchAt { s0 with cur := some ⟨0, 0, 0⟩ } c.core c.task c.tr.hmode c.sp.pc.toNat)

theorem test_witness_fetch : fetches (State.reset.withFetchWord 32 ((encode (.addK 1 2 3)).getD 0).toNat) (fun x => match x with
      | .word w => decide (decode w = some (.addK 1 2 3))
      | _ => false) = true ∧
    fetches (State.reset.withFetchWord 32 (0x17 * 2 ^ 26)) (fun x => match x with
      | .word w => (decode w).isNone
      | _ => false) = true ∧
    fetches (onSplit (fun q => { q with pc := 0x9000 }) (State.reset.withFetchWord 32 0)) (fun x => decide (x = .fault .lease)) = true ∧
    fetches (away (State.reset.withFetchWord 32 0)) (fun x => match x with
      | .remote _ => true
      | _ => false) = true := by decide +kernel

/-- A sector that the core holds, one that it does not, a discarded page. -/
theorem test_witness_fetch_sector : (let s := State.reset.withFetchWord 32 ((encode (.addK 1 2 3)).getD 0).toNat;
      (s.task? 0).any fun t => (s.walkPull 0 0 0x1000).isNone && !s.poisonAt 0x1000 && match s.translate 0 t false 0x1000 .fetch with
        | .ok pa false uc => !s.pullLost pa && !s.pullPending pa && s.isLocal pa && ((s.core 0).fetchSector? uc pa).isNone &&
          ((s.l1Fill 0 ⟨pa / 32, false, false, false, List.replicate 32 7⟩).core 0 |>.fetchSector? uc pa).any fun x => !x.poison
        | _ => false) = true ∧
    (let s := (standing .trap).setCore 0 { (standing .trap).core 0 with tc := [⟨0, 1, 0, 0x105F, (true, true, true)⟩] };
      (s.task? 0).any fun t => match s.translate 0 t false 0x1000 .fetch with
        | .ok _ disc _ => disc
        | _ => false) = true := by decide +kernel

/-- The default order lets the same train issue when nothing else is to be done. -/
theorem test_witness_default_order : (let s := { State.reset.withFetchWord 32 ((encode (.addK 1 2 3)).getD 0).toNat with agenda := [] };
    decide (s.power = .run) && (s.nowMoves.findSome? (progress s)).isNone && (s.timers.all fun e => decide (s.clock < e.1)) &&
      (firstReady s.allReady).any fun x => (firstReady (((s.laneReady x.w x.t).foldl State.atIssue s).laneReady x.w x.t)).isSome) = true := by decide +kernel

theorem test_witness_agenda : (∀ m ∈ State.reset.agenda, m.sound) ∧ ({ State.reset with agenda := [.event (.wayRemovalLine 31 15)] } : State).agenda = .event (.wayRemovalLine 31 15) :: [] ∧
    State.reset.hostQ = [] ∧ State.reset.Inv := by
  refine ⟨?_, rfl, rfl, rfl⟩
  intro m h
  simp [State.reset] at h

/-! ### Single steps, the results computed by hand -/

/-- Run the placed instruction for one step and read the one train. -/
def stepped (i : Instr) (f : State → State) (p : Train → Bool) : Bool :=
  match step { f (State.reset.withFetchWord 32 ((encode i).getD 0).toNat) with agenda := [.issue 0 0] } with
  | .next t => (t.train? 0 0).any p
  | _ => false

/-- The PC of the one split. -/
def pcIs (n : Nat) (tr : Train) : Bool := (tr.split? 0).any fun q => decide (q.pc = BitVec.ofNat 64 n)

/-- The words that spec/06 to spec/18 assemble, each with the instruction that its text names. -/
theorem test_words_of_the_spec : reads [
    (0x4020BFDF#32, .addImm 2 2 0x7FB 7), (0x6020C407#32, .addK 2 3 4), (0x68104047#32, .addKImm 1 1 8), (0x0412405F#32, .abs 1 9 7),
    (0x0451870F#32, .addc 5 6 7 7), (0x4471C7FF#32, .andImm 7 7 0xFF 7), (0xEE251202#32, .ard 4 1 5 2 2 0), (0x9441880F#32, .atomAdd 4 3 2 1 7),
    (0xACC00100#32, .audm 6 0), (0xACE00180#32, .digr 7 0), (0xEC003801#32, .azr 0 7 0), (0x08108357#32, .bfxS 1 2 3 7),
    (0xDC600007#32, .calli 6 7), (0xA9003101#32, .clstAr 8 3 0 1), (0xA0861800#32, .cpyG2s 4 6 1 1 0 0), (0xA14C2100#32, .cpytG2s 10 12 2 0 0 0),
    (0xA0440203#32, .cpym 2 4 0 0 0 0 3), (0xFC01820F#32, .csrwExm 3), (0x0410807F#32, .ctz 1 2 7), (0x18108307#32, .divU 1 2 3 0 7),
    (0x1C41462F#32, .remS 4 5 6 2 7), (0xB9050080#32, .evpop 8 5 0), (0xAD400000#32, .evpst 10 0), (0xE0000017#32, .exit 7), (0xE0000013#32, .exit 3),
    (0x20108307#32, .fadd 1 2 3 0 7), (0x20414657#32, .fmul 4 5 6 2 7), (0x207200A7#32, .frnd 7 8 0 7), (0x30108307#32, .fsinp 1 2 0 7), (0x30308417#32, .fcosp 3 2 1 7),
    (0x2C108307#32, .fdiv 1 2 3 0 7), (0x24108307#32, .ffma 1 2 3 0 7), (0x10808317#32, .cmp 1 0 2 3 0 2 7), (0x55212C57#32, .cmpImm 2 2 4 5 1 10 7), (0x28808317#32, .fcmp 1 0 2 3 0 2 7),
    (0x39241D00#32, .hcvt 2 1 4 3 5 0 0 0), (0xB5200180#32, .hfls 9 0), (0xF8000246#32, .immx 0x246), (0xF900000B#32, .hintMem 0 1 3)] = true := by decide +kernel

theorem test_words_of_the_spec_more : reads [
    (0x80828D11#32, .ld 8 5 3 2 2 1), (0x84118887#32, .ldS 1 3 2 1 0 7), (0x80401A87#32, .ld 4 0 6 5 0 7), (0x8C400987#32, .ldk 4 0 2 3 0), (0x0C108327#32, .lea2 1 2 3 7),
    (0xB8850000#32, .lnch 4 5 0), (0xF0000200#32, .lstat 0 0 2 0), (0xF2A00308#32, .lstatN32 5 1 3 0), (0x0C108307#32, .mad 1 2 3 7), (0x0410833F#32, .minS 1 2 3 7),
    (0x6C5BEEF8#32, .moviK 5 0xBEEF 2), (0xF5000100#32, .mstr 2 0 0 0 1 0), (0xF5A41000#32, .mstr 3 1 4 2 0 0), (0xF5003B08#32, .mstrN32 2 0 0 7 3 0), (0xFC200097#32, .nop 2),
    (0x34108307#32, .packBf16 1 2 3 7), (0xF0000001#32, .plsw 0), (0x0410806F#32, .popc 1 2 7), (0xAC000080#32, .rfnc 0), (0xFC000037#32, .rft), (0x14108347#32, .sel 1 2 3 2 7),
    (0x0810832F#32, .shl 1 2 3 7), (0x0810833F#32, .sra 1 2 3 7), (0x50108027#32, .shlImm 1 2 4 7), (0x50108227#32, .sraImm 1 2 4 7), (0x64108337#32, .shrK 1 2 3), (0x88828D07#32, .st 8 5 3 2 0 7),
    (0x90400987#32, .stk 4 0 2 3 0), (0x04108317#32, .sub 1 2 3 7), (0x0410831F#32, .subb 1 2 3 7), (0xE5000003#32, .tld 2 0 0 0 0 0 3), (0xE5441903#32, .tld 2 2 4 3 1 0 3), (0xEAA03802#32, .tst 5 1 0 7 0 0 2),
    (0xEE201A00#32, .tzr 4 1 0 3 2 0), (0xB8850100#32, .trel 4 5 0), (0x3410801F#32, .unpkBf16Hi 1 2 7), (0x34108027#32, .unpkF16Lo 1 2 7), (0xC4408087#32, .voteBallot 4 2 7), (0xC410008F#32, .voteAny 1 0 7),
    (0xC0510417#32, .xchXor 5 4 2 7), (0xC0108627#32, .xbc 1 2 3 7), (0x0810831F#32, .xor 1 2 3 7), (0x4C107FFF#32, .xorImm 1 1 0x7FF 7), (0xC461C00F#32, .xredAddF32 6 7 7), (0xC420C047#32, .xscnAddI32 2 3 7),
    (0xC8108607#32, .xshc 1 2 3 7), (0x9DA00000#32, .fence 3 1), (0x9E600000#32, .fence 4 3), (0xB0A60000#32, .snap 5 6 0), (0xFC000027#32, .csrr 0 1 7), (0xFC500087#32, .csrr 5 4 7),
    (0x3C1081C7#32, .cvt 1 2 0 7 0 7), (0x3C311C07#32, .cvt 3 4 7 0 0 7)] = true := by decide +kernel

/-- R288 (a wrap), R289 (p6 in and out), R365, R382 and R375 (the examples of spec/17 and spec/18), R315. -/
theorem test_add_wraps : stepped (.addK 1 2 3) (withK [(2, 2 ^ 64 - 1), (3, 2)]) (fun tr => tr.getK 1 = 1#64 && pcIs 0x1004 tr) = true := by decide +kernel
theorem test_addc_carries : stepped (.addc 1 2 3 7) (fun s => onTrain (fun tr => tr.setP 6 1#32 1#32) (withV 0 [(2, 0xFFFFFFFF), (3, 0)] s))
    (fun tr => tr.getV 0 1 = 0#32 && tr.predOf 6 0 && tr.getV 5 1 = 0#32 && !tr.predOf 6 5) = true := by decide +kernel
theorem test_mulh_signs : stepped (.mulhS 1 2 3 7) (withV 9 [(2, 0xFFFFFFFE), (3, 3)]) (fun tr => tr.getV 9 1 = 0xFFFFFFFF#32) = true ∧
    stepped (.mulhU 1 2 3 7) (withV 9 [(2, 0xFFFFFFFE), (3, 3)]) (fun tr => tr.getV 9 1 = 2#32) = true := by decide +kernel
theorem test_shifts : stepped (.sraImm 1 2 4 7) (withV 31 [(2, 0x80000010)]) (fun tr => tr.getV 31 1 = 0xF8000001#32) = true ∧
    stepped (.shrImm 1 2 4 7) (withV 31 [(2, 0x80000010)]) (fun tr => tr.getV 31 1 = 0x08000001#32) = true ∧
    stepped (.rotImm 1 2 8 7) (withV 31 [(2, 0x12345678)]) (fun tr => tr.getV 31 1 = 0x34567812#32) = true := by decide +kernel
theorem test_cmp_signs : stepped (.cmp 1 0 2 3 0 2 7) (withV 4 [(2, 0xFFFFFFFF), (3, 1)]) (fun tr => tr.getP 1 = 0x00000010#32) = true ∧
    stepped (.cmp 1 0 2 3 1 2 7) (withV 4 [(2, 0xFFFFFFFF), (3, 1)]) (fun tr => tr.getP 1 = 0#32) = true := by decide +kernel

/-- R52: a divisor of zero; the quotient of the most negative number by −1. R333: a tie rounds to even. R335: the examples
of spec/16. -/
theorem test_div_corners : [(.divU 1 2 3 0 7, 5, 0, 0xFFFFFFFF#32), (.remS 1 2 3 0 7, 5, 0, 5#32), (.divS 1 2 3 0 7, 0x80000000, 0xFFFFFFFF, 0x80000000#32), (.remS 1 2 3 0 7, 0xFFFFFFF9, 2, 0xFFFFFFFF#32)].all
    (fun (i, a, b, x) => stepped i (withV 3 [(2, a), (3, b)]) fun tr => tr.outst.any fun o => o.writes.contains (.v 3 1 x)) = true := by decide +kernel
theorem test_fadd_ties_to_even : stepped (.fadd 1 2 3 0 7) (withV 0 [(2, 0x3F800000), (3, 0x33800000)]) (fun tr => tr.getV 0 1 = 0x3F800000#32) = true ∧
    stepped (.fadd 1 2 3 0 7) (withV 0 [(2, 0x3F800000), (3, 0x33C00000)]) (fun tr => tr.getV 0 1 = 0x3F800001#32) = true := by decide +kernel
theorem test_sin_cos : [(.fsinp 1 2 0 7, 0x3F000000, 0x3F800000#32), (.fcosp 1 2 0 7, 0x40200000, 0#32), (.fsinp 1 2 0 7, 0x49742404, 0x3F3504F3#32)].all (fun (i, a, x) =>
    stepped i (fun s => only 0 (withV 0 [(2, a)] s)) fun tr => tr.outst.any fun o => o.writes.contains (.v 0 1 x)) = true := by decide +kernel

/-- R402 (the example of spec/18), R359 (the example of spec/17), R309, R304 and R350. -/
theorem test_xred_order : stepped (.xredAddF32 6 7 7) (fun s => onSplit (fun q => { q with exm := 7 }) (withV 0 [(7, 0x3F800000)] (withV 1 [(7, 0x33800000)] (withV 2 [(7, 0x33800000)] s))))
    (fun tr => tr.getV 0 6 = 0x3F800000#32 && tr.getV 1 6 = 0x3F800000#32 && tr.getV 2 6 = 0x3F800000#32 && tr.getV 3 6 = 0#32) = true := by decide +kernel
theorem test_mask : [(.maskAnd 0 1, 0xFF#32, 0x15#32), (.maskSet 1 1, 0x15#32, 0xEA#32), (.maskAnd 1 1, 0x15#32, 0#32)].all (fun (i, m, x) =>
    stepped i (fun s => onTrain (fun tr => tr.setP 1 0x15#32 0x15#32) (onSplit (fun q => { q with member := 0xFF, exm := m }) s)) fun tr => (tr.split? 0).any fun q => q.exm == x) = true := by decide +kernel
theorem test_call_links : stepped (.call 16) (fun s => s) (fun tr => tr.getK 30 = 0x1004#64 && pcIs 0x1040 tr) = true ∧
    stepped (.bra 2 2 0x7FFFD) (withK [(2, 1)]) (pcIs 0xFF4) = true ∧ stepped (.bra 2 2 0x7FFFD) (fun s => s) (pcIs 0x1004) = true := by decide +kernel
theorem test_immx_waits : stepped (.immx 0x246) (fun s => s) (fun tr => pcIs 0x1004 tr && (tr.split? 0).any fun q => q.pfx.isSome) = true := by decide +kernel

/-- R388 and R241: TRAP enters the handler with cause 0x15, its own PC and SKIP. -/
theorem test_trap_enters : stepped .trap withHandler (fun tr => tr.hmode && pcIs 0x1100 tr && decide (tr.tcause.toNat % 256 = 0x15) && tr.trap.pc == 0x1000#64 && tr.trap.skip) = true := by decide +kernel

end Sys2Proof.Tests
end

/-! SUPPORT. DIV, REM, FDIV and the functions of R335: what they compute, which checks may stop their issue, and that
their results wait for the instruction's completion. -/

namespace Sys2Proof.Arithmetic

open Sys2Proof.Machine Sys2Proof.Claims

/-! ### What may stop an issue -/

/-- Where nothing but R276's own checks applies (R239, R275, R39), an instruction raises ILLEGAL or BUDGET only. -/
theorem check_raises_illegal_or_budget {c : Ctx} {cause : Cause} (hh : needsHandler c.insn = false)
    (hs : needsSysprog c.insn = false) (hp : needsProducer c.insn = false) (h : c.check = .trap cause) :
    cause = .illegal ∨ cause = .budget := by
  unfold Ctx.check at h
  simp only [hh, hs, hp, Bool.false_and, Bool.or_self, Bool.false_eq_true, if_false] at h
  split at h
  case isTrue => cases h; exact .inl rfl
  split at h
  case isTrue => cases h; exact .inr rfl
  split at h
  case isTrue => cases h; exact .inl rfl
  case isFalse => cases h

/-- What an issue stops on is a fault only where its checks raise it: waiting comes first (R265, R41). -/
theorem check_of_stop_trap {c : Ctx} {cause : Cause} (h : c.stop = .trap cause) : c.check = .trap cause := by
  unfold Ctx.stop at h
  split at h
  · cases h
  split at h
  · dsimp only at h
    split at h <;> cases h
  · exact h

theorem onlyDecodeFaults_of_unprivileged {c : Ctx} (hh : needsHandler c.insn = false)
    (hs : needsSysprog c.insn = false) (hp : needsProducer c.insn = false) : OnlyDecodeFaults c :=
  fun _ h => check_raises_illegal_or_budget hh hs hp (check_of_stop_trap h)

/-! ### Long-latency computations of threads -/

/-- An instruction that any train may issue, whose meaning is a per-thread long-latency computation, leaves its results
with its completion (R41). -/
theorem longThread_of_exec {i : Instr} {d : BitVec 6} {f : Ctx → Nat → W32} (hh : needsHandler i = false)
    (hs : needsSysprog i = false) (hp : needsProducer i = false)
    (hexec : ∀ s, exec i s = issue i s (perThreadLong d f)) : LongThread i d f := by
  intro s c
  refine ⟨fun hc => ?_, fun h => ?_⟩
  · obtain ⟨-, -, -, -, -, -, rfl, -⟩ := State.ctx?_eq hc
    exact onlyDecodeFaults_of_unprivileged hh hs hp
  · obtain ⟨hbeside, tr, hpassed, hk, hv, hpred, hlater⟩ :=
      finishLater_spec h (c.threads.map fun j => .v j d.toNat (f c j))
    exact ⟨_, tr, (hexec s).trans (issue_go h _), hbeside, hpassed, hk, hv, hpred, hlater⟩

/-! ### Division -/

/-- Truncation toward zero, as a quotient of magnitudes with the sign of the operands' (R52). -/
theorem tdiv_eq_natAbs_div (x y : Int) : x.tdiv y =
    if decide (x < 0) = decide (y < 0) then ((x.natAbs / y.natAbs : Nat) : Int)
    else -((x.natAbs / y.natAbs : Nat) : Int) := by
  match x, y with
  | .ofNat m, .ofNat n => simp [Int.tdiv, Int.not_lt.mpr]
  | .ofNat m, .negSucc n => simp [Int.tdiv]
  | .negSucc m, .ofNat n => simp [Int.tdiv]
  | .negSucc m, .negSucc n => simp [Int.tdiv]

theorem quotient_zero (signed : Bool) (a : W32) : quotient signed a 0#32 = 0xFFFFFFFF#32 := rfl

theorem remainder_zero (signed : Bool) (a : W32) : remainder signed a 0#32 = a := rfl

theorem toNat_ne_zero {b : W32} (hb : b ≠ 0#32) : b.toNat ≠ 0 := fun h => hb (BitVec.eq_of_toNat_eq h)

theorem quotient_unsigned {a b : W32} (hb : b ≠ 0#32) : quotient false a b = a / b := by
  rw [quotient, if_neg (toNat_ne_zero hb), if_neg Bool.false_ne_true, BitVec.udiv_def]

theorem quotient_signed {a b : W32} (hb : b ≠ 0#32) : quotient true a b = BitVec.ofInt 32 (a.toInt.tdiv b.toInt) := by
  rw [quotient, if_neg (toNat_ne_zero hb), if_pos rfl, tdiv_eq_natAbs_div, apply_ite (BitVec.ofInt 32), BitVec.ofInt_natCast]

theorem remainder_of_ne_zero (signed : Bool) {a b : W32} (hb : b ≠ 0#32) :
    remainder signed a b = a - quotient signed a b * b :=
  if_neg (toNat_ne_zero hb)

/-- Dividend = quotient × divisor + remainder, at a divisor of zero too (R52). -/
theorem quotient_mul_add_remainder (signed : Bool) (a b : W32) :
    quotient signed a b * b + remainder signed a b = a := by
  by_cases hb : b = 0#32
  · subst hb
    rw [remainder_zero, BitVec.mul_zero, BitVec.zero_add]
  · rw [remainder_of_ne_zero signed hb, BitVec.add_comm, BitVec.sub_add_cancel]

theorem umod_eq_sub_udiv_mul (a b : W32) : a % b = a - a / b * b := by
  have h : a % b + a / b * b = a := by
    calc a % b + a / b * b = BitVec.ofNat 32 (a.toNat % b.toNat + a.toNat / b.toNat * b.toNat) := by
          rw [BitVec.ofNat_add, BitVec.ofNat_mul, BitVec.umod_def, BitVec.udiv_def, BitVec.ofNat_toNat, BitVec.setWidth_eq]
      _ = a := by rw [Nat.mod_add_div', BitVec.ofNat_toNat, BitVec.setWidth_eq]
  exact eq_sub_of_add_eq h

theorem divUW_eq_quotient (a b : W32) : divUW a b = quotient false a b := by
  unfold divUW
  split
  case isTrue hb => subst hb; rfl
  case isFalse hb => exact (quotient_unsigned hb).symm

theorem divSW_eq_quotient (a b : W32) : divSW a b = quotient true a b := by
  unfold divSW
  split
  case isTrue hb => subst hb; rfl
  case isFalse hb => exact (quotient_signed hb).symm

theorem remUW_eq_remainder (a b : W32) : remUW a b = remainder false a b := by
  unfold remUW
  split
  case isTrue hb => subst hb; rfl
  case isFalse hb =>
    rw [remainder_of_ne_zero false hb, quotient_unsigned hb, BitVec.umod_eq, umod_eq_sub_udiv_mul]

theorem remSW_eq_remainder (a b : W32) : remSW a b = remainder true a b := by
  unfold remSW
  split
  case isTrue hb => subst hb; rfl
  case isFalse hb =>
    rw [remainder_of_ne_zero true hb, quotient_signed hb, Int.tmod_def, Int.sub_eq_add_neg, BitVec.ofInt_add,
      BitVec.ofInt_neg, BitVec.ofInt_mul, BitVec.ofInt_toInt, BitVec.ofInt_toInt, BitVec.mul_comm, BitVec.sub_eq_add_neg]

/-- Signed −2^31 divided by −1 wraps and does not trap (R326). -/
theorem quotient_least_minus_one : quotient true 0x80000000#32 0xFFFFFFFF#32 = 0x80000000#32 := by decide

theorem remainder_least_minus_one : remainder true 0x80000000#32 0xFFFFFFFF#32 = 0#32 := by
  rw [remainder_of_ne_zero true (by decide), quotient_least_minus_one]
  rfl

/-- Each division waits for its completion, and none raises more than ILLEGAL and BUDGET (R326). -/
theorem divisions_are_long {i : Instr} {d : BitVec 6} {f : Ctx → Nat → W32} (h : divisionThread i = some (d, f)) :
    LongThread i d f := by
  unfold divisionThread at h
  simp only [← divUW_eq_quotient, ← remUW_eq_remainder, ← divSW_eq_quotient, ← remSW_eq_remainder] at h
  split at h
  case h_5 => cases h
  all_goals
    cases h
    exact longThread_of_exec rfl rfl rfl fun _ => rfl

/-! ### Functions -/

/-- The rounding that an instruction reads from its prefix is the one of R59 and R63. -/
theorem rnd_eq_roundingOf (c : Ctx) (mode : Nat) (sat : Bool) (j e : Nat) : c.rnd mode sat j e = roundingOf c mode sat j e := by
  unfold Ctx.rnd roundingOf ariOf
  rcases c.sp.pfx with _ | ⟨kind, _, _⟩
  case none => rfl
  case some => cases kind <;> rfl

theorem rne_eq_roundingOf (c : Ctx) (j e : Nat) : c.rne j e = roundingOf c 0 false j e :=
  rnd_eq_roundingOf c 0 false j e

/-- FDIV (R336) and the functions of R335 wait for their completion, and none raises more than ILLEGAL and BUDGET. -/
theorem functions_are_long {i : Instr} {d : BitVec 6} {f : Ctx → Nat → W32} (h : functionThread i = some (d, f)) :
    LongThread i d f := by
  unfold functionThread at h
  simp only [← rne_eq_roundingOf] at h
  split at h
  case h_9 => cases h
  all_goals
    cases h
    exact longThread_of_exec rfl rfl rfl fun _ => rfl

/-- FSINP of 0.5 is 1 (R335). -/
theorem fsinp_half : Fp.fsinp (Fp.decode .f32 0x3F000000) = 0x3F800000 := by decide +kernel

/-- FCOSP of 2.5 is +0 (R335, R73). -/
theorem fcosp_five_halves : Fp.fcosp (Fp.decode .f32 0x40200000) = 0 := by decide +kernel

/-- FSINP of 1,000,000.25 is sin(π/4) rounded (R335). -/
theorem fsinp_million_and_quarter : Fp.fsinp (Fp.decode .f32 0x49742404) = 0x3F3504F3 := by decide +kernel

/-! ### The obligation -/

/-- Settles O8: each division and each function is one long-latency computation of its threads; the corners of R52 follow
from the quotient's definition, and R335's examples are evaluated. -/
theorem divisionsAndFunctionsWaitForTheirResult : Obligations.DivisionsAndFunctionsWaitForTheirResult := by
  unfold Obligations.DivisionsAndFunctionsWaitForTheirResult
  exact ⟨⟨fun _ _ _ => divisions_are_long, fun signed a => ⟨quotient_zero signed a, remainder_zero signed a⟩,
      quotient_least_minus_one, remainder_least_minus_one, quotient_mul_add_remainder⟩,
    fun _ _ _ => functions_are_long, fsinp_half, fcosp_five_halves, fsinp_million_and_quarter⟩

end Sys2Proof.Arithmetic

/-! SUPPORT. The integer arithmetic of spec/15 and its neighbours: an instruction that writes registers only, from its
meaning to its claim; then carries, products, orders and bit counts, logic, shifts and bit fields. -/

namespace Sys2Proof.Integer

open Sys2Proof.Machine Sys2Proof.Claims Sys2Proof.Arithmetic

/-! ### An issue that writes registers -/

/-- `tr'` differs from `tr` in its registers at most. -/
def RegistersOnly (tr tr' : Train) : Prop := tr' = { tr with k := tr'.k, v := tr'.v, p := tr'.p }

theorem RegistersOnly.trans {a b c : Train} (hab : RegistersOnly a b) (hbc : RegistersOnly b c) : RegistersOnly a c := by
  unfold RegistersOnly at *
  rw [hab] at hbc
  exact hbc

theorem registersOnly_writeV (tr : Train) (d : Nat) (f : Nat → W32) (js : List Nat) :
    RegistersOnly tr (tr.writeV d f js) := by
  induction js with
  | nil => rfl
  | cons j js ih => exact ih.trans rfl

theorem registersOnly_setP (tr : Train) (r : Nat) (m x : Mask) : RegistersOnly tr (tr.setP r m x) := by
  unfold Train.setP
  split <;> rfl

/-- An instruction whose effect `f` reaches registers only: it passes, its train holds the registers that `f` leaves, and no
instruction of the train begins or completes. -/
theorem retire_registers_spec {i : Instr} {s : State} {c : Ctx} (h : Issues i s c) (f : Train → Train)
    (hf : RegistersOnly c.tr (f c.tr)) :
    Beside c s ((s.updTrain c.w c.t f).retire c) ∧ ∃ tr, Passed c ((s.updTrain c.w c.t f).retire c) c.next tr ∧
      tr.k = (f c.tr).k ∧ tr.v = (f c.tr).v ∧ tr.p = (f c.tr).p ∧ tr.outst.length = c.tr.outst.length := by
  have hout : (f c.tr).outst = c.tr.outst := by rw [hf]
  obtain ⟨hbeside, hpassed⟩ := State.retireTo_spec h.here (f c.tr) [] c.next c.tr.nextId
    (by rw [List.append_nil]; exact hf)
  rw [State.updTrain_of h.train]
  exact ⟨hbeside, _, hpassed, rfl, rfl, rfl, by simp [Train.past, Train.wake, hout]⟩

theorem getP_congr {a b : Train} (h : a.p = b.p) (r : Nat) : a.getP r = b.getP r := by
  unfold Train.getP
  rw [h]

theorem getV_congr {a b : Train} (h : a.v = b.v) (j r : Nat) : a.getV j r = b.getV j r := by
  unfold Train.getV
  rw [h]

theorem writesV_of_writeV {c : Ctx} {tr : Train} {d : BitVec 6} {f : Nat → W32}
    (h : tr.v = (c.tr.writeV d.toNat f c.threads).v) : WritesV c tr d.toNat f := by
  intro j r _ hr
  rw [getV_congr h, Train.getV_writeV _ _ _ _ _ _ d.isLt hr]
  simp only [Ctx.threads, mem_maskThreads]

theorem writesP_of_setP {c : Ctx} {tr tr₁ : Train} {p : Nat} {f : Nat → Bool} (h₁ : tr₁.p = c.tr.p)
    (h : tr.p = (tr₁.setP p c.active (maskOf f)).p) : WritesP c tr p f := by
  intro q j _ hj
  unfold Train.predOf
  rw [getP_congr h, Train.getP_setP, getP_congr h₁, getP_congr h₁]
  by_cases hq : q = p ∧ p ≠ 7
  · obtain ⟨rfl, h7⟩ := hq
    rw [if_pos ⟨rfl, h7⟩, BitVec.getLsbD_or, BitVec.getLsbD_and, BitVec.getLsbD_and, BitVec.getLsbD_not, getLsbD_maskOf]
    cases hact : c.active.getLsbD j <;> simp [hj, h7]
  · rw [if_neg hq, if_neg fun ⟨hqp, hq7, _⟩ => hq ⟨hqp, hqp ▸ hq7⟩]

/-! ### From an instruction's meaning to its claim -/

/-- An instruction that any train may issue raises ILLEGAL or BUDGET only (R276). -/
theorem onlyDecodeFaults_of_ctx? {i : Instr} {s : State} {c : Ctx} (hh : needsHandler i = false)
    (hs : needsSysprog i = false) (hp : needsProducer i = false) (h : s.ctx? i = some c) : OnlyDecodeFaults c := by
  obtain ⟨-, -, -, -, -, -, rfl, -⟩ := State.ctx?_eq h
  exact onlyDecodeFaults_of_unprivileged hh hs hp

/-- An instruction whose meaning is a per-thread computation writes the values computed (R286). -/
theorem perThread_of_exec {i : Instr} {d : BitVec 6} {f f' : Ctx → Nat → W32} (hh : needsHandler i = false)
    (hs : needsSysprog i = false) (hp : needsProducer i = false) (hexec : ∀ s, exec i s = issue i s (perThread d f'))
    (hval : ∀ c j, f' c j = f c j) : PerThread i d f := by
  obtain rfl : f' = f := funext₂ hval
  refine fun s c => ⟨onlyDecodeFaults_of_ctx? hh hs hp, fun h => ?_⟩
  obtain ⟨hbeside, tr, hpassed, hk, hv, hpred, hlen⟩ :=
    retire_registers_spec h (fun tr => tr.writeV d.toNat (f' c) c.threads) (registersOnly_writeV ..)
  exact ⟨_, tr, (hexec s).trans (issue_go h _), hbeside, hpassed, hk.trans (Train.writeV_k ..),
    hpred.trans (Train.writeV_p ..), hlen, writesV_of_writeV hv⟩

/-- An instruction whose meaning is a uniform computation writes the value computed (R286). -/
theorem uniform_of_exec {i : Instr} {d : BitVec 6} {x x' : Ctx → W64} (hh : needsHandler i = false)
    (hs : needsSysprog i = false) (hp : needsProducer i = false) (hexec : ∀ s, exec i s = issue i s (uniform d.toNat x'))
    (hval : ∀ c, x' c = x c) : Uniform i d x := by
  obtain rfl : x' = x := funext hval
  refine fun s c => ⟨onlyDecodeFaults_of_ctx? hh hs hp, fun h => ?_⟩
  obtain ⟨hbeside, tr, hwrites⟩ := uniform_spec h d.toNat x'
  exact ⟨_, tr, (hexec s).trans (issue_go h _), hbeside, hwrites⟩

/-- What a carry chain writes: `d` and p6 of the acting threads (R289). -/
def writeCarry (d : BitVec 6) (r : Nat → W32 × Bool) (c : Ctx) (tr : Train) : Train :=
  (tr.writeV d.toNat (fun j => (r j).1) c.threads).setP 6 c.active (maskOf fun j => (r j).2)

theorem registersOnly_writeCarry (d : BitVec 6) (r : Nat → W32 × Bool) (c : Ctx) (tr : Train) :
    RegistersOnly tr (writeCarry d r c tr) :=
  (registersOnly_writeV ..).trans (registersOnly_setP ..)

/-- An instruction whose meaning is a carry chain writes the values and the carries computed (R289). -/
theorem perThreadCarry_of_exec {i : Instr} {d : BitVec 6} {f f' : Ctx → Nat → W32 × Bool} (hh : needsHandler i = false)
    (hs : needsSysprog i = false) (hp : needsProducer i = false)
    (hexec : ∀ s, exec i s = issue i s fun c s => (s.updTrain c.w c.t (writeCarry d (f' c) c)).retire c)
    (hval : ∀ c j, f' c j = f c j) : PerThreadCarry i d f := by
  obtain rfl : f' = f := funext₂ hval
  refine fun s c => ⟨onlyDecodeFaults_of_ctx? hh hs hp, fun h => ?_⟩
  obtain ⟨hbeside, tr, hpassed, hk, hv, hpred, hlen⟩ :=
    retire_registers_spec h (writeCarry d (f' c) c) (registersOnly_writeCarry ..)
  refine ⟨_, tr, (hexec s).trans (issue_go h _), hbeside, hpassed, ?_, hlen, writesV_of_writeV ?_,
    writesP_of_setP (Train.writeV_p ..) hpred⟩
  · rw [hk, writeCarry, Train.setP_k, Train.writeV_k]
  · rw [hv, writeCarry, Train.setP_v]

/-! ### Carry chains -/

/-- The sum with its carry in, and the carry out at 2^32 (R289). -/
theorem addCarry_eq (a b : W32) (carry : Bool) : addCarry a b carry =
    (BitVec.ofNat 32 (a.toNat + b.toNat + if carry then 1 else 0),
      decide (2 ^ 32 ≤ a.toNat + b.toNat + if carry then 1 else 0)) := by
  cases carry <;> rfl

/-- The difference with its borrow in, and the borrow out below zero (R386). -/
theorem subBorrow_eq (a b : W32) (borrow : Bool) : subBorrow a b borrow =
    (BitVec.ofInt 32 ((a.toNat : Int) - b.toNat - if borrow then 1 else 0),
      decide ((a.toNat : Int) - b.toNat - (if borrow then 1 else 0) < 0)) := by
  cases borrow <;> rfl

/-- The word of ADDC in R289's example. -/
theorem decode_addc : decode 0x0451870F#32 = some (.addc 5 6 7 7) := by decide +kernel

/-- Settles O2: ADDC and SUBB are one carry chain with the sum and the difference of R289 and R386. -/
theorem carriesAndBorrowsChainThroughP6 : Obligations.CarriesAndBorrowsChainThroughP6 := by
  unfold Obligations.CarriesAndBorrowsChainThroughP6
  refine ⟨fun d a b g => ?_, fun d a b g => ?_, decode_addc, by decide, by decide⟩
  · exact perThreadCarry_of_exec rfl rfl rfl (fun _ => rfl) fun _ _ => addCarry_eq ..
  · exact perThreadCarry_of_exec rfl rfl rfl (fun _ => rfl) fun _ _ => subBorrow_eq ..

/-! ### Products -/

theorem mul_eq_ofNat {w : Nat} (a b : BitVec w) : a * b = BitVec.ofNat w (a.toNat * b.toNat) := by
  simp only [BitVec.ofNat_mul, BitVec.ofNat_toNat, BitVec.setWidth_eq]

/-- Dividing a residue of `a * a` by `a` leaves the residue of the quotient. -/
theorem emod_mul_self_ediv {a : Int} (x : Int) (ha : 0 < a) : x % (a * a) / a = x / a % a := by
  have hsplit : x % (a * a) = x + a * -(a * (x / (a * a))) := by rw [Int.emod_def]; ring
  rw [hsplit, Int.add_mul_ediv_left _ _ ha.ne', Int.emod_def (x / a), Int.ediv_ediv_of_nonneg ha.le, Int.sub_eq_add_neg]

/-- The upper half of a number cut at `2^(2w)` is its quotient by `2^w` (R365). -/
theorem upperHalf_eq_ofInt_div (w : Nat) (x : Int) : upperHalf w x = BitVec.ofInt w (x / 2 ^ w) := by
  have hpos : (0 : Int) < 2 ^ w := by positivity
  have hsquare : ((2 ^ (2 * w) : Nat) : Int) = 2 ^ w * 2 ^ w := by push_cast; ring
  apply BitVec.eq_of_toNat_eq
  zify
  rw [upperHalf, BitVec.extractLsb'_toNat, BitVec.toNat_ofInt, BitVec.toNat_ofInt, Nat.shiftRight_eq_div_pow, hsquare]
  push_cast
  rw [Int.toNat_of_nonneg (Int.emod_nonneg _ (by positivity)), Int.toNat_of_nonneg (Int.emod_nonneg _ hpos.ne'),
    emod_mul_self_ediv x hpos, Int.emod_emod]

theorem mulhSW_eq_upperHalf {w : Nat} (a b : BitVec w) : mulhSW a b = upperHalf w (a.toInt * b.toInt) :=
  (upperHalf_eq_ofInt_div ..).symm

theorem mulhUW_eq_upperHalf {w : Nat} (a b : BitVec w) : mulhUW a b = upperHalf w (a.toNat * b.toNat : Nat) := by
  have hcast : ((a.toNat * b.toNat / 2 ^ w : Nat) : Int) = ((a.toNat * b.toNat : Nat) : Int) / 2 ^ w := by
    rw [Int.natCast_ediv, Nat.cast_pow, Nat.cast_ofNat]
  exact (BitVec.ofInt_natCast ..).symm.trans ((congrArg (BitVec.ofInt w) hcast).trans (upperHalf_eq_ofInt_div ..).symm)

theorem mad_eq_ofNat {w : Nat} (a b d : BitVec w) : a * b + d = BitVec.ofNat w (a.toNat * b.toNat + d.toNat) := by
  simp only [BitVec.ofNat_add, BitVec.ofNat_mul, BitVec.ofNat_toNat, BitVec.setWidth_eq]

/-- LEA.n adds the second operand times `2^n` (R355). -/
theorem leaW_eq_ofNat (n : Nat) (a b : W32) : leaW n a b = BitVec.ofNat 32 (a.toNat + b.toNat * 2 ^ n) := by
  simp only [leaW, BitVec.ofNat_add, BitVec.ofNat_mul, BitVec.ofNat_toNat, BitVec.setWidth_eq]

/-- ABS is the magnitude of the signed value, which wraps at the least number (R287). -/
theorem absW_eq_ofNat_natAbs {w : Nat} (a : BitVec w) : absW a = BitVec.ofNat w a.toInt.natAbs := by
  unfold absW
  rw [← BitVec.ofInt_natCast, Int.natCast_natAbs]
  split
  case isTrue h => rw [abs_of_neg (BitVec.toInt_neg_of_msb_true h), BitVec.ofInt_neg, BitVec.ofInt_toInt]
  case isFalse h =>
    rw [abs_of_nonneg (BitVec.toInt_nonneg_of_msb_false (Bool.eq_false_iff.mpr h)), BitVec.ofInt_toInt]

/-- Each product of threads, MAD, LEA and ABS (R365, R358, R355, R287). -/
theorem products_of_threads {i : Instr} {d : BitVec 6} {f : Ctx → Nat → W32} (h : productThread i = some (d, f)) :
    PerThread i d f := by
  unfold productThread at h
  split at h <;> cases h
  all_goals refine perThread_of_exec rfl rfl rfl (fun _ => rfl) fun c j => ?_
  · exact mul_eq_ofNat ..
  · exact mulhSW_eq_upperHalf ..
  · exact mulhUW_eq_upperHalf ..
  · exact mad_eq_ofNat ..
  · exact leaW_eq_ofNat 0 ..
  · exact leaW_eq_ofNat 1 ..
  · exact leaW_eq_ofNat 2 ..
  · exact leaW_eq_ofNat 3 ..
  · exact absW_eq_ofNat_natAbs _

/-- Each product of the train, and ABS (R365, R287). -/
theorem products_of_trains {i : Instr} {d : BitVec 6} {x : Ctx → W64} (h : productTrain i = some (d, x)) :
    Uniform i d x := by
  unfold productTrain at h
  split at h <;> cases h
  all_goals refine uniform_of_exec rfl rfl rfl (fun _ => rfl) fun c => ?_
  · exact mul_eq_ofNat ..
  · exact mulhSW_eq_upperHalf ..
  · exact mulhUW_eq_upperHalf ..
  · exact absW_eq_ofNat_natAbs _

/-- The word of ABS in R287's example. -/
theorem decode_abs : decode 0x0412405F#32 = some (.abs 1 9 7) := by decide +kernel

/-- Settles O3: each result is the word of the exact one that R287, R355, R358 and R365 name. -/
theorem productsKeepTheHalfTheyName : Obligations.ProductsKeepTheHalfTheyName := by
  unfold Obligations.ProductsKeepTheHalfTheyName
  exact ⟨fun _ _ _ => products_of_threads, fun _ _ _ => products_of_trains, by decide, by decide, decode_abs⟩

/-! ### Order -/

theorem minSW_eq_pick {w : Nat} (a b : BitVec w) : minSW a b = pick false true a b := by
  by_cases h : a.toInt < b.toInt <;> simp [minSW, pick, BitVec.slt_eq_decide, h]

theorem minUW_eq_pick {w : Nat} (a b : BitVec w) : minUW a b = pick false false a b := by
  by_cases h : a.toNat < b.toNat <;> simp [minUW, pick, BitVec.ult_eq_decide, h]

theorem maxSW_eq_pick {w : Nat} (a b : BitVec w) : maxSW a b = pick true true a b := by
  by_cases h : a.toInt < b.toInt <;> simp [maxSW, pick, BitVec.slt_eq_decide, h]

theorem maxUW_eq_pick {w : Nat} (a b : BitVec w) : maxUW a b = pick true false a b := by
  by_cases h : a.toNat < b.toNat <;> simp [maxUW, pick, BitVec.ult_eq_decide, h]

/-! ### Bit counts -/

theorem popcount_eq_length (x n : Nat) : popcount x n = ((List.range n).filter fun i => x.testBit i).length := by
  induction n with
  | zero => rfl
  | succ n ih =>
    rw [popcount, ih, List.range_succ, List.filter_append, List.length_append, Nat.add_comm]
    cases h : x.testBit n <;> simp [h]

theorem popcW_eq_ones {w : Nat} (a : BitVec w) : popcW a = ones a := by
  rw [popcW, popcount_eq_length]
  rfl

/-- How far a property holds along `0, 1, …, w - 1`. -/
theorem length_takeWhile_range {p : Nat → Bool} {n w : Nat} (hn : n ≤ w) (hbelow : ∀ i < n, p i = true)
    (hat : n < w → p n = false) : ((List.range w).takeWhile p).length = n := by
  obtain ⟨k, rfl⟩ := Nat.exists_eq_add_of_le hn
  rw [List.range_add, List.takeWhile_append_of_pos fun i hi => hbelow i (List.mem_range.mp hi), List.length_append,
    List.length_range]
  cases k with
  | zero => rfl
  | succ k => simp [List.range_succ_eq_map, hat (by omega)]

/-- The search for the lowest set bit passes clear bits only, and stops at a set one or at its end. -/
theorem lowestFrom_spec (x n i : Nat) : i ≤ lowestFrom x n i ∧ lowestFrom x n i ≤ i + n ∧
    (∀ j, i ≤ j → j < lowestFrom x n i → x.testBit j = false) ∧
    (lowestFrom x n i < i + n → x.testBit (lowestFrom x n i) = true) := by
  induction n generalizing i with
  | zero => exact ⟨le_rfl, le_rfl, fun j hi hj => absurd hj hi.not_gt, fun h => absurd h (lt_irrefl _)⟩
  | succ n ih =>
    obtain ⟨hfrom, hto, hclear, hset⟩ := ih (i + 1)
    cases hx : x.testBit i
    case true =>
      rw [show lowestFrom x (n + 1) i = i from if_pos hx]
      exact ⟨le_rfl, by omega, fun j hi hj => absurd hj hi.not_gt, fun _ => hx⟩
    case false =>
      simp only [lowestFrom, hx, Bool.false_eq_true, if_false]
      refine ⟨by omega, by omega, fun j hi hj => ?_, fun h => hset (by omega)⟩
      obtain rfl | hlt := Nat.eq_or_lt_of_le hi
      · exact hx
      · exact hclear j hlt hj

theorem ctzW_eq_zerosBelow {w : Nat} (a : BitVec w) : ctzW a = zerosBelow a := by
  obtain ⟨-, hto, hclear, hset⟩ := lowestFrom_spec a.toNat w 0
  rw [Nat.zero_add] at hto hset
  rw [ctzW, trailingZeros, zerosBelow, length_takeWhile_range hto]
  · intro i hi
    simpa [← BitVec.testBit_toNat] using hclear i (Nat.zero_le i) hi
  · intro h
    simpa [← BitVec.testBit_toNat] using hset h

theorem clzW_eq_zerosAbove {w : Nat} (a : BitVec w) : clzW a = zerosAbove a := by
  have hmod : a.toNat % 2 ^ w = a.toNat := Nat.mod_eq_of_lt a.isLt
  rw [clzW, leadingZeros, zerosAbove, hmod]
  split
  case isTrue h =>
    rw [length_takeWhile_range le_rfl]
    · intro i _
      rw [← BitVec.testBit_toNat, h, Nat.zero_testBit, Bool.not_false]
    · exact fun hlt => absurd hlt (lt_irrefl w)
  case isFalse h =>
    have hlog : a.toNat.log2 < w := (Nat.log2_lt h).mpr a.isLt
    rw [length_takeWhile_range (by omega : w - 1 - a.toNat.log2 ≤ w)]
    · intro i hi
      rw [← BitVec.testBit_toNat, Nat.testBit_lt_two_pow ((Nat.log2_lt h).mp (by omega)), Bool.not_false]
    · intro _
      rw [← BitVec.testBit_toNat, show w - 1 - (w - 1 - a.toNat.log2) = a.toNat.log2 by omega, Nat.testBit_log2 h,
        Bool.not_true]

/-! ### Reversal -/

/-- A number below `2^k` added to one whose low `k` bits are clear fills those bits in. -/
theorem add_eq_or_of_low_bits_clear {x y k : Nat} (hx : ∀ j < k, x.testBit j = false) (hy : y < 2 ^ k) :
    x + y = x ||| y := by
  have hmultiple : x = 2 ^ k * (x / 2 ^ k) := by
    apply Nat.eq_of_testBit_eq
    intro j
    rw [Nat.testBit_two_pow_mul, Nat.testBit_div_two_pow]
    by_cases hj : k ≤ j
    · simp [hj]
    · simp [hj, hx j (by omega)]
  rw [hmultiple, Nat.two_pow_add_eq_or_of_lt hy]

/-- Bit `j` of the reversal of the low `n` of `w` bits is bit `w - 1 - j`, where that is one of them. -/
theorem testBit_reverseBits {w n : Nat} (x : Nat) (hn : n ≤ w) (j : Nat) :
    (reverseBits w x n).testBit j = (decide (w - n ≤ j ∧ j < w) && x.testBit (w - 1 - j)) := by
  induction n generalizing j with
  | zero => simp [reverseBits]
  | succ n ih =>
    have hclear : ∀ k < w - n, (reverseBits w x n).testBit k = false := fun k hk => by
      rw [ih (by omega)]
      simp [show ¬w - n ≤ k by omega]
    have hnew : (if x.testBit n then 2 ^ (w - 1 - n) else 0) < 2 ^ (w - n) := by
      split
      · exact Nat.pow_lt_pow_right (by omega) (by omega)
      · positivity
    rw [reverseBits, Nat.add_comm, add_eq_or_of_low_bits_clear hclear hnew, Nat.testBit_or, ih (by omega)]
    by_cases hj : j = w - 1 - n
    · subst hj
      rw [show w - 1 - (w - 1 - n) = n by omega]
      have hold : decide (w - n ≤ w - 1 - n ∧ w - 1 - n < w) = false := decide_eq_false (by omega)
      have hrange : decide (w - (n + 1) ≤ w - 1 - n ∧ w - 1 - n < w) = true := decide_eq_true (by omega)
      rw [hold, hrange, Bool.false_and, Bool.false_or, Bool.true_and]
      cases x.testBit n
      case false => exact Nat.zero_testBit _
      case true => exact Nat.testBit_two_pow_self
    · have hother : (if x.testBit n then 2 ^ (w - 1 - n) else 0).testBit j = false := by
        split
        · exact Nat.testBit_two_pow_of_ne (Ne.symm hj)
        · exact Nat.zero_testBit j
      have hrange : decide (w - n ≤ j ∧ j < w) = decide (w - (n + 1) ≤ j ∧ j < w) := decide_eq_decide.mpr (by omega)
      rw [hother, Bool.or_false, hrange]

theorem brevW_eq_reverse {w : Nat} (a : BitVec w) : brevW a = a.reverse := by
  apply BitVec.eq_of_getLsbD_eq
  intro j hj
  rw [brevW, BitVec.getLsbD_ofNat, testBit_reverseBits _ le_rfl, BitVec.getLsbD_reverse, BitVec.getMsbD_eq_getLsbD,
    BitVec.testBit_toNat]
  simp [hj]

/-- MIN, MAX, the bit counts and the reversal of threads (R360, R371, R314, R323, R306). -/
theorem orders_of_threads {i : Instr} {d : BitVec 6} {f : Ctx → Nat → W32} (h : orderThread i = some (d, f)) :
    PerThread i d f := by
  unfold orderThread at h
  split at h <;> cases h
  all_goals refine perThread_of_exec rfl rfl rfl (fun _ => rfl) fun c j => ?_
  · exact minSW_eq_pick ..
  · exact minUW_eq_pick ..
  · exact maxSW_eq_pick ..
  · exact maxUW_eq_pick ..
  · exact popcW_eq_ones _
  · exact clzW_eq_zerosAbove _
  · exact ctzW_eq_zerosBelow _
  · exact brevW_eq_reverse _

/-- The same of the train. -/
theorem orders_of_trains {i : Instr} {d : BitVec 6} {x : Ctx → W64} (h : orderTrain i = some (d, x)) : Uniform i d x := by
  unfold orderTrain at h
  split at h <;> cases h
  all_goals refine uniform_of_exec rfl rfl rfl (fun _ => rfl) fun c => ?_
  · exact minSW_eq_pick ..
  · exact minUW_eq_pick ..
  · exact maxSW_eq_pick ..
  · exact maxUW_eq_pick ..
  · exact popcW_eq_ones _
  · exact clzW_eq_zerosAbove _
  · exact ctzW_eq_zerosBelow _
  · exact brevW_eq_reverse _

/-- The word of CTZ in R323's example. -/
theorem decode_ctz : decode 0x0410807F#32 = some (.ctz 1 2 7) := by decide +kernel

/-- Settles O4: each comparison picks by the value it names, and each count and the reversal are told bit by bit. -/
theorem extremesAndBitCounts : Obligations.ExtremesAndBitCounts := by
  unfold Obligations.ExtremesAndBitCounts
  exact ⟨fun _ _ _ => orders_of_threads, fun _ _ _ => orders_of_trains, decode_ctz⟩

/-! ### Immediates -/

theorem immxOf_eq_payload (c : Ctx) : (immxOf c.sp.pfx).map BitVec.toNat = payload c := by
  unfold immxOf payload
  rcases c.sp.pfx with _ | ⟨kind, _, _⟩
  case none => rfl
  case some => cases kind <;> rfl

/-- The two's-complement number of `n` bits is the signed value of a word of `n` bits. -/
theorem signedBits_toNat {n : Nat} (hn : 0 < n) (i : BitVec n) : signedBits n i.toNat = i.toInt := by
  have hpow : 2 ^ n = 2 * 2 ^ (n - 1) := by rw [← Nat.pow_succ', Nat.succ_eq_add_one, Nat.sub_one_add_one hn.ne']
  rw [signedBits, BitVec.toInt_eq_toNat_cond]
  by_cases h : i.toNat < 2 ^ (n - 1)
  · rw [if_pos h, if_pos (by omega)]
  · rw [if_neg h, if_neg (by omega)]

/-- The immediate of majors 0x10 to 0x13, with a pending IMMX or without (R266). -/
theorem immB_eq_imm11 (c : Ctx) (i : BitVec 11) : immB c.sp.pfx i = imm11 c i := by
  unfold immB imm11
  rw [← immxOf_eq_payload, signedBits_toNat (by omega)]
  cases immxOf c.sp.pfx <;> rfl

/-! ### Logic -/

theorem eq_ofBits {w : Nat} {f : Nat → Bool} {x : BitVec w} (h : ∀ n < w, x.getLsbD n = f n) : x = ofBits w f := by
  apply BitVec.eq_of_getLsbD_eq
  intro n hn
  rw [h n hn, ofBits, BitVec.getLsbD_ofNat, (testBit_bitsOf f w).2]
  simp [hn]

theorem and_eq_ofBits {w : Nat} (a b : BitVec w) : a &&& b = ofBits w fun n => a.getLsbD n && b.getLsbD n :=
  eq_ofBits fun _ _ => BitVec.getLsbD_and

theorem andn_eq_ofBits {w : Nat} (a b : BitVec w) : a &&& ~~~b = ofBits w fun n => a.getLsbD n && !b.getLsbD n :=
  eq_ofBits fun n hn => by simp [hn]

theorem or_eq_ofBits {w : Nat} (a b : BitVec w) : a ||| b = ofBits w fun n => a.getLsbD n || b.getLsbD n :=
  eq_ofBits fun _ _ => BitVec.getLsbD_or

theorem xor_eq_ofBits {w : Nat} (a b : BitVec w) : a ^^^ b = ofBits w fun n => a.getLsbD n != b.getLsbD n :=
  eq_ofBits fun _ _ => BitVec.getLsbD_xor

theorem not_eq_ofBits {w : Nat} (a : BitVec w) : ~~~a = ofBits w fun n => !a.getLsbD n :=
  eq_ofBits fun n hn => by simp [hn]

/-- Logic of threads, and with an immediate (R290, R366, R368, R401). -/
theorem logic_of_threads {i : Instr} {d : BitVec 6} {f : Ctx → Nat → W32} (h : logicThread i = some (d, f)) :
    PerThread i d f := by
  unfold logicThread at h
  simp only [← immB_eq_imm11] at h
  split at h <;> cases h
  all_goals refine perThread_of_exec rfl rfl rfl (fun _ => rfl) fun c j => ?_
  · exact and_eq_ofBits ..
  · exact andn_eq_ofBits ..
  · exact or_eq_ofBits ..
  · exact xor_eq_ofBits ..
  · exact not_eq_ofBits _
  · exact and_eq_ofBits ..
  · exact or_eq_ofBits ..
  · exact xor_eq_ofBits ..

/-- Logic of the train (R290, R366, R368, R401). -/
theorem logic_of_trains {i : Instr} {d : BitVec 6} {x : Ctx → W64} (h : logicTrain i = some (d, x)) : Uniform i d x := by
  unfold logicTrain at h
  split at h <;> cases h
  all_goals refine uniform_of_exec rfl rfl rfl (fun _ => rfl) fun c => ?_
  · exact and_eq_ofBits ..
  · exact andn_eq_ofBits ..
  · exact or_eq_ofBits ..
  · exact xor_eq_ofBits ..
  · exact not_eq_ofBits _

/-! ### Shifts and rotation -/

theorem shiftLeft_eq_ofNat {w : Nat} (a : BitVec w) (n : Nat) : a <<< n = BitVec.ofNat w (a.toNat * 2 ^ n) := by
  apply BitVec.eq_of_toNat_eq
  rw [BitVec.toNat_shiftLeft, BitVec.toNat_ofNat, Nat.shiftLeft_eq]

theorem ushiftRight_eq_ofNat {w : Nat} (a : BitVec w) (n : Nat) : a >>> n = BitVec.ofNat w (a.toNat / 2 ^ n) := by
  apply BitVec.eq_of_toNat_eq
  rw [BitVec.toNat_ushiftRight, BitVec.toNat_ofNat, Nat.shiftRight_eq_div_pow,
    Nat.mod_eq_of_lt (Nat.lt_of_le_of_lt (Nat.div_le_self ..) a.isLt)]

theorem shlW_eq_shiftLeft {w : Nat} (a b : BitVec w) : shlW a b = shiftLeft a b :=
  shiftLeft_eq_ofNat ..

theorem shrW_eq_shiftRight {w : Nat} (a b : BitVec w) : shrW a b = shiftRight a b :=
  ushiftRight_eq_ofNat ..

theorem sraW_eq_shiftSigned {w : Nat} (a b : BitVec w) : sraW a b = shiftSigned a b := by
  rw [sraW, shiftSigned, amount, BitVec.sshiftRight, Int.shiftRight_eq_div_pow]

/-- Rotation joins what a left shift keeps and what a right shift by the rest of the width keeps (R375). -/
theorem rotW_eq_rotated {w : Nat} (a b : BitVec w) : rotW a b = rotated a b := by
  rw [rotW, rotated, amount, BitVec.rotateLeft_def, Nat.mod_mod, shiftLeft_eq_ofNat, ushiftRight_eq_ofNat]

/-! ### Bit fields -/

/-- The length that BFX and BFI use is the one given, cut at the width (R302). -/
theorem fieldOf_eq {w : Nat} (b : BitVec w) : fieldOf b = (fieldPos b, fieldLen b) := by
  have hpos : bitsAt b.toNat 0 8 = fieldPos b := rfl
  have hlen : bitsAt b.toNat 8 8 = b.toNat / 256 % 256 :=
    congrArg (· % 256) (Nat.shiftRight_eq_div_pow b.toNat 8)
  simp only [fieldOf, fieldLen, hpos, hlen]
  split
  case isTrue h => rw [Nat.sub_eq_zero_of_le h, Nat.min_zero]
  case isFalse => rfl

theorem bfxUW_eq_extract {w : Nat} (a b : BitVec w) : bfxUW a b = extract a b := by
  rw [bfxUW, fieldOf_eq, bitsAt, Nat.shiftRight_eq_div_pow, extract]

/-- A field of `l` bits read as a two's-complement number: its value, less `2^l` where its top bit is set. -/
theorem ofInt_signedOf_mod (w l x : Nat) : BitVec.ofInt w (signedOf l (x % 2 ^ l)) =
    if x % 2 ^ l < 2 ^ (l - 1) then BitVec.ofNat w (x % 2 ^ l)
    else BitVec.ofInt w ((x % 2 ^ l : Nat) - (2 ^ l : Nat)) := by
  have hcast : ((2 ^ l : Nat) : Int) = 2 ^ l := by rw [Nat.cast_pow, Nat.cast_ofNat]
  rw [signedOf, Nat.mod_mod, apply_ite (BitVec.ofInt w), BitVec.ofInt_natCast, hcast]

theorem bfxSW_eq_extractSigned {w : Nat} (a b : BitVec w) : bfxSW a b = extractSigned a b := by
  simp only [bfxSW, fieldOf_eq, bitsAt, Nat.shiftRight_eq_div_pow, ofInt_signedOf_mod]
  rfl

/-- Bit `j` of `d` with its field of `l` bits at `pos` replaced by the low bits of `a`. -/
theorem testBit_field_replaced (d a pos l j : Nat) :
    (d % 2 ^ pos + a % 2 ^ l * 2 ^ pos + d / 2 ^ (pos + l) * 2 ^ (pos + l)).testBit j =
      if pos ≤ j ∧ j < pos + l then a.testBit (j - pos) else d.testBit j := by
  have hparts : d % 2 ^ pos + a % 2 ^ l * 2 ^ pos + d / 2 ^ (pos + l) * 2 ^ (pos + l) =
      2 ^ pos * (2 ^ l * (d / 2 ^ (pos + l)) + a % 2 ^ l) + d % 2 ^ pos := by
    rw [Nat.pow_add]; ring
  rw [hparts, Nat.testBit_two_pow_mul_add _ (Nat.mod_lt _ (by positivity)),
    Nat.testBit_two_pow_mul_add _ (Nat.mod_lt _ (by positivity)), Nat.testBit_mod_two_pow, Nat.testBit_mod_two_pow,
    Nat.testBit_div_two_pow]
  by_cases hlow : j < pos
  · rw [if_pos hlow, if_neg (by omega), decide_eq_true hlow, Bool.true_and]
  by_cases hfield : j < pos + l
  · rw [if_neg hlow, if_pos (by omega), if_pos ⟨by omega, hfield⟩, decide_eq_true (by omega), Bool.true_and]
  · rw [if_neg hlow, if_neg (by omega), if_neg fun h => hfield h.2, show j - pos - l + (pos + l) = j by omega]

/-- The mask of BFI has the bits of the field. -/
theorem testBit_fieldMask (pos l j : Nat) : ((2 ^ l - 1) <<< pos).testBit j = decide (pos ≤ j ∧ j < pos + l) := by
  rw [Nat.testBit_shiftLeft, Nat.testBit_two_pow_sub_one, ← Bool.decide_and]
  exact decide_eq_decide.mpr (by omega)

theorem bfiW_eq_inserted (d a b : W32) : bfiW d a b = inserted d a b := by
  apply BitVec.eq_of_getLsbD_eq
  intro j hj
  simp only [bfiW, fieldOf_eq, inserted, BitVec.getLsbD_or, BitVec.getLsbD_and, BitVec.getLsbD_not,
    BitVec.getLsbD_shiftLeft, BitVec.getLsbD_ofNat, testBit_fieldMask, testBit_field_replaced, BitVec.testBit_toNat]
  by_cases hfield : fieldPos b ≤ j ∧ j < fieldPos b + fieldLen b
  · simp [hfield, hj]
  · simp [hfield, hj]

/-- Shifts, rotation and bit fields of threads, and shifts by an immediate (R382, R375, R302). -/
theorem shifts_of_threads {i : Instr} {d : BitVec 6} {f : Ctx → Nat → W32} (h : shiftThread i = some (d, f)) :
    PerThread i d f := by
  unfold shiftThread at h
  simp only [BitVec.ofNat_toNat] at h
  split at h <;> cases h
  all_goals refine perThread_of_exec rfl rfl rfl (fun _ => rfl) fun c j => ?_
  · exact shlW_eq_shiftLeft ..
  · exact shrW_eq_shiftRight ..
  · exact sraW_eq_shiftSigned ..
  · exact rotW_eq_rotated ..
  · exact shlW_eq_shiftLeft ..
  · exact shrW_eq_shiftRight ..
  · exact sraW_eq_shiftSigned ..
  · exact rotW_eq_rotated ..
  · exact bfxUW_eq_extract ..
  · exact bfxSW_eq_extractSigned ..
  · exact bfiW_eq_inserted ..

/-- Shifts, rotation and bit fields of the train (R382, R375, R302). -/
theorem shifts_of_trains {i : Instr} {d : BitVec 6} {x : Ctx → W64} (h : shiftTrain i = some (d, x)) : Uniform i d x := by
  unfold shiftTrain at h
  split at h <;> cases h
  all_goals refine uniform_of_exec rfl rfl rfl (fun _ => rfl) fun c => ?_
  · exact shlW_eq_shiftLeft ..
  · exact shrW_eq_shiftRight ..
  · exact sraW_eq_shiftSigned ..
  · exact rotW_eq_rotated ..
  · exact bfxUW_eq_extract ..
  · exact bfxSW_eq_extractSigned ..

/-- The word of BFX.S in R302's example. -/
theorem decode_bfxS : decode 0x08108357#32 = some (.bfxS 1 2 3 7) := by decide +kernel

/-- Settles O5: logic is told bit by bit, a shift by its product or quotient, a bit field by its position and length. -/
theorem logicShiftsAndBitFields : Obligations.LogicShiftsAndBitFields := by
  unfold Obligations.LogicShiftsAndBitFields
  exact ⟨⟨fun _ _ _ => logic_of_threads, fun _ _ _ => logic_of_trains⟩, fun _ _ _ => shifts_of_threads,
    fun _ _ _ => shifts_of_trains, by decide, by decide, by decide, by decide, decode_bfxS⟩

end Sys2Proof.Integer

/-! SUPPORT. CMP and FCMP of threads (R315, R334): a comparison's meaning as a relation of numbers, the predicate write it
ends in, and p7 (R262). -/

namespace Sys2Proof.Comparison

open Sys2Proof.Machine Sys2Proof.Claims Sys2Proof.Arithmetic Sys2Proof.Integer

/-! ### An issue that writes a predicate -/

/-- An instruction whose meaning is a per-thread condition writes it to its predicate (R286). -/
theorem perThreadPred_of_exec {i : Instr} {p : BitVec 3} {f f' : Ctx → Nat → Bool} (hh : needsHandler i = false)
    (hs : needsSysprog i = false) (hp : needsProducer i = false) (hexec : ∀ s, exec i s = issue i s (perThreadP p f'))
    (hval : ∀ c j, f' c j = f c j) : PerThreadPred i p f := by
  obtain rfl : f' = f := funext₂ hval
  refine fun s c => ⟨onlyDecodeFaults_of_ctx? hh hs hp, fun h => ?_⟩
  obtain ⟨hbeside, tr, hwrites⟩ := perThreadP_spec h p f'
  exact ⟨_, tr, (hexec s).trans (issue_go h _), hbeside, hwrites⟩

/-! ### Combines -/

theorem combine_eq_combined (m : Nat) (old new : Bool) : combine m old new = combined m old new := by
  match m with
  | 0 => rfl
  | 1 => rfl
  | _ + 2 => rfl

/-! ### Integers -/

theorem below_eq_decide_asNumber_lt {w : Nat} (unsigned : Bool) (a b : BitVec w) :
    (if unsigned then a.ult b else a.slt b) = decide (asNumber unsigned a < asNumber unsigned b) := by
  cases unsigned
  case false => exact BitVec.slt_eq_decide ..
  case true => simp [asNumber, BitVec.ult_eq_decide]

theorem beq_eq_decide_asNumber_eq {w : Nat} (unsigned : Bool) (a b : BitVec w) :
    (a == b) = decide (asNumber unsigned a = asNumber unsigned b) := by
  cases unsigned
  case false => simp [asNumber, BitVec.toInt_inj, Bool.beq_eq_decide_eq]
  case true => simp [asNumber, BitVec.toNat_inj, Bool.beq_eq_decide_eq]

/-- A condition of CMP is the relation that it names, of the numbers that its words stand for (R315). -/
theorem condInt_eq_holds {w : Nat} (cc : Nat) (unsigned : Bool) (a b : BitVec w) :
    condInt cc unsigned a b = holds cc (asNumber unsigned a) (asNumber unsigned b) := by
  unfold condInt
  simp only [below_eq_decide_asNumber_lt, beq_eq_decide_asNumber_eq unsigned]
  generalize asNumber unsigned a = x
  generalize asNumber unsigned b = y
  match cc with
  | 0 => rfl
  | 1 => simp only [holds, ← decide_not, ne_eq]
  | 2 => rfl
  | 3 => simp only [holds, ← Bool.decide_or, ← Int.le_iff_lt_or_eq]
  | 4 => simp only [holds, ← Bool.decide_or, ← Int.le_iff_lt_or_eq, ← decide_not, not_le]
  | _ + 5 => simp only [holds, ← decide_not, not_lt]

/-- The immediate of CMP, with a pending IMMX or without (R266). -/
theorem immCmp_eq_imm7 (c : Ctx) (i : BitVec 7) : immCmp c.sp.pfx i = imm7 c i := by
  unfold immCmp imm7
  rw [← immxOf_eq_payload]
  cases immxOf c.sp.pfx
  case none => rw [signedBits_toNat (by omega)]; rfl
  case some v =>
    have happend : v.toNat * 2 ^ 7 + i.toNat = (v ++ i).toNat := by
      rw [BitVec.toNat_append, ← Nat.shiftLeft_add_eq_or_of_lt i.isLt, Nat.shiftLeft_eq]
    simp only [Option.map_some]
    rw [happend, signedBits_toNat (by omega)]
    rfl

/-- CMP of threads, with a register or an immediate (R315). -/
theorem compares_of_threads {i : Instr} {p : BitVec 3} {f : Ctx → Nat → Bool} (h : compareThread i = some (p, f)) :
    PerThreadPred i p f := by
  unfold compareThread at h
  simp only [← combine_eq_combined, ← condInt_eq_holds, ← immCmp_eq_imm7] at h
  split at h <;> cases h
  all_goals exact perThreadPred_of_exec rfl rfl rfl (fun _ => rfl) fun _ _ => rfl

/-- The words of CMP in R315's examples. -/
theorem decode_cmp : decode 0x10808317#32 = some (.cmp 1 0 2 3 0 2 7) := by decide +kernel

theorem decode_cmpImm : decode 0x55212C57#32 = some (.cmpImm 2 2 4 5 1 10 7) := by decide +kernel

/-! ### Floating point -/

/-- A condition of FCMP is the set of orders under which it is true; NaN, which has none, makes NE and UN true (R334). -/
theorem condFloat_eq_floatHolds (cc : Nat) (f : Fp.Fmt) (a b : Nat) :
    condFloat cc f a b = floatHolds cc (Fp.cmp (Fp.decode f a) (Fp.decode f b)) := by
  unfold condFloat
  cases Fp.cmp (Fp.decode f a) (Fp.decode f b)
  case none => rfl
  case some o =>
    match cc with
    | 0 | 1 | 2 | 3 | 4 | 5 => cases o <;> rfl
    | _ + 6 => cases o <;> simp [floatHolds]

theorem typeFmt_toNat (t : BitVec 2) :
    typeFmt t.toNat = if t = 1#2 then .f16 else if t = 2#2 then .bf16 else .f32 := by
  simp only [typeFmt, BitVec.toNat_eq, BitVec.toNat_ofNat]

/-- FCMP of threads (R334). -/
theorem floatCompares_of_threads {i : Instr} {p : BitVec 3} {f : Ctx → Nat → Bool} (h : compareFloat i = some (p, f)) :
    PerThreadPred i p f := by
  unfold compareFloat at h
  simp only [← combine_eq_combined, ← condFloat_eq_floatHolds, ← typeFmt_toNat] at h
  split at h <;> cases h
  exact perThreadPred_of_exec rfl rfl rfl (fun _ => rfl) fun _ _ => rfl

/-! ### The predicate p7 -/

theorem setP_seven (tr : Train) (m x : Mask) : tr.setP 7 m x = tr := rfl

theorem predOf_seven (tr : Train) {j : Nat} (hj : j < 32) : tr.predOf 7 j = true :=
  (BitVec.getLsbD_allOnes (v := 32)).trans (decide_eq_true hj)

/-! ### The obligation -/

/-- Settles O7: each comparison is one per-thread predicate write, of the relation it names; p7 takes no write and reads 1. -/
theorem comparisonsWriteTheirPredicate : Obligations.ComparisonsWriteTheirPredicate := by
  unfold Obligations.ComparisonsWriteTheirPredicate
  exact ⟨⟨fun _ _ _ => compares_of_threads, decode_cmp, decode_cmpImm⟩, fun _ _ _ => floatCompares_of_threads,
    fun tr m x _ => ⟨setP_seven tr m x, predOf_seven tr⟩⟩

end Sys2Proof.Comparison
